-- ==== Sys2Proof/Word.lean ====
section
/-! DEFINITION. The word types of the Z9 and their plainest arithmetic (R3, R6). -/
namespace Sys2Proof

/-- 8 bits (R6). -/
abbrev Byte := BitVec 8
/-- 16 bits (R6). -/
abbrev Half := BitVec 16
/-- 32 bits (R6). -/
abbrev Word := BitVec 32
/-- 64 bits (R6). -/
abbrev DWord := BitVec 64
/-- One bit per lane of a group (R120, R126). -/
abbrev Mask := BitVec 32

/-- Lanes of a group (R89). -/
abbrev numLanes : Nat := 32

/-- One 32-bit value for each of the 32 lanes: a vector register (R120). -/
abbrev Lanes := Vector Word numLanes

/-- The same value in every lane. -/
def Lanes.splat (w : Word) : Lanes := Vector.replicate numLanes w

/-- A vector register that holds zero in every lane. -/
def Lanes.zero : Lanes := Lanes.splat 0#32

end Sys2Proof
end

