-- ==== Sys2Proof/Syntax.lean ====
section
/-! DEFINITION. The operations of the Z9: one constructor of Instr for each row of the opcode table. Yalhel and Sill words keep the fields of their encoding (R305 to R312, R450), because a field outside its kind is a fault of the instruction (R307, R317) and not of the decoder. -/
namespace Sys2Proof

/-- Fields B6, A and D of word 0, in a short form (R305). -/
structure SForm where
  b6 : BitVec 6
  a : BitVec 8
  d : BitVec 8
deriving DecidableEq, Repr

/-- What follows word 0 in the E, L and X forms (R304). -/
inductive Tail where
  | e (w1 w2 : Word)
  | l (lit : DWord)
  | x (w1 w2 : Word) (lit : DWord)
deriving DecidableEq, Repr

/-- An instruction of the E, L or X form: the fields of word 0 and the words after it (R304 to R306). -/
structure XForm where
  b6 : BitVec 6
  a : BitVec 8
  d : BitVec 8
  tail : Tail
deriving DecidableEq, Repr

/-- The fields of a Sill word but its opcode (R450). -/
structure SillForm where
  t : Bool
  qb : Bool
  b : BitVec 4
  c : BitVec 3
  a : BitVec 3
  d : BitVec 3
  imm : BitVec 12
deriving DecidableEq, Repr

/-- A Ridge transaction: header slot and data (R25, R51). rsv0 and rsv1 are the reserved bits of doublewords 0 and 1. -/
structure Txn where
  dst : BitVec 10
  src : BitVec 10
  vc : BitVec 3
  op : BitVec 6
  tag : BitVec 12
  ndata : BitVec 4
  rsv0 : BitVec 19
  ctx : BitVec 8
  rsv1 : BitVec 8
  addr : BitVec 48
  dw2 : DWord
  dw3 : DWord
  data : List Byte
deriving DecidableEq, Repr

/-- A management request as it reaches the root controller: from the sideband or over Ridge, and its bytes from byte 0 (R39, R52). -/
structure MgmtReq where
  ridge : Bool
  bytes : List Byte
deriving DecidableEq, Repr

/-- What the other end of a Ridge link declares in training (R29). -/
inductive PeerKind where
  | z9 | switch | hostAdapter
deriving DecidableEq, Repr

/-- A firmware slot of the flash (R34). -/
structure FlashSlot where
  image : List Byte
  version : Nat
  digest : List Byte
  signature : List Byte
  key : List Byte
deriving DecidableEq, Repr

/-- A group by its context, its team's virtual team id (R96) and its index in the team (R91). -/
structure GroupRef where
  ctx : BitVec 8
  vteam : BitVec 16
  gidx : Nat
deriving DecidableEq, Repr

/-- The operands of a device event, transaction, packet or command: which unit it concerns and what it carries. An event reads the fields its meaning names, and the others stay at rest. -/
structure Operand where
  /-- A die, a link, a port, a stack, a core, an engine, a bent, a graph, a work, by its number. -/
  n : Nat := 0
  /-- A second number: a lane, a node, an entry, a bin, a strand. -/
  k : Nat := 0
  /-- A third number. -/
  j : Nat := 0
  ctx : BitVec 8 := 0
  q : BitVec 4 := 0
  v : DWord := 0
  flag : Bool := false
  g : GroupRef := ⟨0, 0, 0⟩
  t : Txn := ⟨0, 0, 0, 0, 0, 0, 0, 0, 0, 0, 0, 0, []⟩
  m : MgmtReq := ⟨false, []⟩
  bytes : List Byte := []
  slot : FlashSlot := ⟨[], 0, [], [], []⟩
  peer : PeerKind := .z9
deriving DecidableEq, Repr

/-- The operations, one for each row of the opcode table. The rows that stand in code come first; the other rows are device events, whose operands stand in the state beside them (State.operand). -/
inductive Instr where
  /-- ILLEGAL_OPCODE (R327). -/
  | illegalOpcode (w w1 : Word)
  /-- NOP (R356). -/
  | nop (x : SForm)
  /-- NOP_EXTENDED (R356). -/
  | nopExtended (x : XForm)
  /-- BRA (R353). -/
  | bra (x : XForm)
  /-- FORK (R129). -/
  | fork (x : XForm)
  /-- SEAL (R134). -/
  | seal (x : SForm)
  /-- SEAL_EXTENDED (R134). -/
  | sealExtended (x : XForm)
  /-- JOIN (R135). -/
  | join (x : SForm)
  /-- JOIN_EXTENDED (R135). -/
  | joinExtended (x : XForm)
  /-- ENDARM (R133). -/
  | endarm (x : SForm)
  /-- CALL (R354). -/
  | callSub (x : XForm)
  /-- RET (R354). -/
  | ret (x : SForm)
  /-- LOOP (R355). -/
  | loopTo (x : XForm)
  /-- EXIT (R136). -/
  | exitStrand (x : SForm)
  /-- SPAWN (R361). -/
  | spawn (x : XForm)
  /-- YIELD (R356). -/
  | yieldStrand (x : SForm)
  /-- BKPT (R357). -/
  | bkpt (x : SForm)
  /-- TRAP (R357). -/
  | trapCode (x : SForm)
  /-- IADD (R337). -/
  | iadd (x : SForm)
  /-- IADD_EXTENDED (R337). -/
  | iaddExtended (x : XForm)
  /-- ISUB (R337). -/
  | isub (x : SForm)
  /-- ISUB_EXTENDED (R337). -/
  | isubExtended (x : XForm)
  /-- IMUL (R337). -/
  | imul (x : SForm)
  /-- IMUL_EXTENDED (R337). -/
  | imulExtended (x : XForm)
  /-- IMULH (R337). -/
  | imulh (x : SForm)
  /-- IMULH_EXTENDED (R337). -/
  | imulhExtended (x : XForm)
  /-- IMAD (R337). -/
  | imad (x : XForm)
  /-- IDIV (R338). -/
  | idiv (x : XForm)
  /-- IREM (R338). -/
  | irem (x : XForm)
  /-- IMIN (R337). -/
  | imin (x : SForm)
  /-- IMIN_EXTENDED (R337). -/
  | iminExtended (x : XForm)
  /-- IMAX (R337). -/
  | imax (x : SForm)
  /-- IMAX_EXTENDED (R337). -/
  | imaxExtended (x : XForm)
  /-- IABS (R337). -/
  | iabs (x : SForm)
  /-- IABS_EXTENDED (R337). -/
  | iabsExtended (x : XForm)
  /-- INEG (R337). -/
  | ineg (x : SForm)
  /-- INEG_EXTENDED (R337). -/
  | inegExtended (x : XForm)
  /-- IADDC (R339). -/
  | iaddc (x : XForm)
  /-- ICMP (R340). -/
  | icmp (x : XForm)
  /-- ISET (R340). -/
  | iset (x : XForm)
  /-- AND (R341). -/
  | andV (x : SForm)
  /-- AND_EXTENDED (R341). -/
  | andVExtended (x : XForm)
  /-- OR (R341). -/
  | orV (x : SForm)
  /-- OR_EXTENDED (R341). -/
  | orVExtended (x : XForm)
  /-- XOR (R341). -/
  | xorV (x : SForm)
  /-- XOR_EXTENDED (R341). -/
  | xorVExtended (x : XForm)
  /-- ANDN (R341). -/
  | andn (x : SForm)
  /-- ANDN_EXTENDED (R341). -/
  | andnExtended (x : XForm)
  /-- NOT (R341). -/
  | notV (x : SForm)
  /-- NOT_EXTENDED (R341). -/
  | notVExtended (x : XForm)
  /-- BMIX (R341). -/
  | bmix (x : XForm)
  /-- SHL (R342). -/
  | shl (x : SForm)
  /-- SHL_EXTENDED (R342). -/
  | shlExtended (x : XForm)
  /-- SHR (R342). -/
  | shr (x : SForm)
  /-- SHR_EXTENDED (R342). -/
  | shrExtended (x : XForm)
  /-- SAR (R342). -/
  | sar (x : SForm)
  /-- SAR_EXTENDED (R342). -/
  | sarExtended (x : XForm)
  /-- ROT (R342). -/
  | rot (x : SForm)
  /-- ROT_EXTENDED (R342). -/
  | rotExtended (x : XForm)
  /-- SHF (R342). -/
  | shf (x : XForm)
  /-- POPC (R343). -/
  | popc (x : SForm)
  /-- POPC_EXTENDED (R343). -/
  | popcExtended (x : XForm)
  /-- CLZ (R343). -/
  | clz (x : SForm)
  /-- CLZ_EXTENDED (R343). -/
  | clzExtended (x : XForm)
  /-- BREV (R343). -/
  | brev (x : SForm)
  /-- BREV_EXTENDED (R343). -/
  | brevExtended (x : XForm)
  /-- BFE (R343). -/
  | bfe (x : XForm)
  /-- BFI (R343). -/
  | bfi (x : XForm)
  /-- SEL (R344). -/
  | selV (x : XForm)
  /-- MOV (R344). -/
  | mov (x : SForm)
  /-- MOV_EXTENDED (R344). -/
  | movExtended (x : XForm)
  /-- MOVI (R344). -/
  | movi (x : XForm)
  /-- LEA (R344). -/
  | lea (x : XForm)
  /-- SADD (R346). -/
  | sadd (x : SForm)
  /-- SADD_EXTENDED (R346). -/
  | saddExtended (x : XForm)
  /-- SSUB (R346). -/
  | ssub (x : SForm)
  /-- SSUB_EXTENDED (R346). -/
  | ssubExtended (x : XForm)
  /-- SMUL (R346). -/
  | smul (x : SForm)
  /-- SMUL_EXTENDED (R346). -/
  | smulExtended (x : XForm)
  /-- SAND (R346). -/
  | sand (x : SForm)
  /-- SAND_EXTENDED (R346). -/
  | sandExtended (x : XForm)
  /-- SOR (R346). -/
  | sor (x : SForm)
  /-- SOR_EXTENDED (R346). -/
  | sorExtended (x : XForm)
  /-- SXOR (R346). -/
  | sxor (x : SForm)
  /-- SXOR_EXTENDED (R346). -/
  | sxorExtended (x : XForm)
  /-- SSHL (R346). -/
  | sshl (x : SForm)
  /-- SSHL_EXTENDED (R346). -/
  | sshlExtended (x : XForm)
  /-- SSHR (R346). -/
  | sshr (x : SForm)
  /-- SSHR_EXTENDED (R346). -/
  | sshrExtended (x : XForm)
  /-- SSAR (R346). -/
  | ssar (x : SForm)
  /-- SSAR_EXTENDED (R346). -/
  | ssarExtended (x : XForm)
  /-- SMOV (R346). -/
  | smov (x : SForm)
  /-- SMOV_EXTENDED (R346). -/
  | smovExtended (x : XForm)
  /-- SMOVI (R346). -/
  | smovi (x : XForm)
  /-- SCMP (R347). -/
  | scmp (x : XForm)
  /-- VBCAST (R348). -/
  | vbcast (x : SForm)
  /-- VBCAST_EXTENDED (R348). -/
  | vbcastExtended (x : XForm)
  /-- READLANE (R348). -/
  | readlane (x : SForm)
  /-- READLANE_EXTENDED (R348). -/
  | readlaneExtended (x : XForm)
  /-- VOTE (R349). -/
  | vote (x : XForm)
  /-- PAND (R350). -/
  | pand (x : SForm)
  /-- PAND_EXTENDED (R350). -/
  | pandExtended (x : XForm)
  /-- POR (R350). -/
  | por (x : SForm)
  /-- POR_EXTENDED (R350). -/
  | porExtended (x : XForm)
  /-- PXOR (R350). -/
  | pxor (x : SForm)
  /-- PXOR_EXTENDED (R350). -/
  | pxorExtended (x : XForm)
  /-- PNOT (R350). -/
  | pnot (x : SForm)
  /-- PNOT_EXTENDED (R350). -/
  | pnotExtended (x : XForm)
  /-- PMOV (R350). -/
  | pmov (x : SForm)
  /-- PMOV_EXTENDED (R350). -/
  | pmovExtended (x : XForm)
  /-- PPOPC (R350). -/
  | ppopc (x : SForm)
  /-- PPOPC_EXTENDED (R350). -/
  | ppopcExtended (x : XForm)
  /-- GETSR (R351). -/
  | getsr (x : XForm)
  /-- SETSR (R351). -/
  | setsr (x : XForm)
  /-- FADD (R365). -/
  | fadd (x : SForm)
  /-- FADD_EXTENDED (R365). -/
  | faddExtended (x : XForm)
  /-- FSUB (R365). -/
  | fsub (x : SForm)
  /-- FSUB_EXTENDED (R365). -/
  | fsubExtended (x : XForm)
  /-- FMUL (R365). -/
  | fmul (x : SForm)
  /-- FMUL_EXTENDED (R365). -/
  | fmulExtended (x : XForm)
  /-- FFMA (R365). -/
  | ffma (x : XForm)
  /-- FMIN (R366). -/
  | fmin (x : SForm)
  /-- FMIN_EXTENDED (R366). -/
  | fminExtended (x : XForm)
  /-- FMAX (R366). -/
  | fmax (x : SForm)
  /-- FMAX_EXTENDED (R366). -/
  | fmaxExtended (x : XForm)
  /-- FABS (R365). -/
  | fabs (x : SForm)
  /-- FABS_EXTENDED (R365). -/
  | fabsExtended (x : XForm)
  /-- FNEG (R365). -/
  | fneg (x : SForm)
  /-- FNEG_EXTENDED (R365). -/
  | fnegExtended (x : XForm)
  /-- FCMP (R367). -/
  | fcmp (x : XForm)
  /-- FSET (R367). -/
  | fset (x : XForm)
  /-- FRND (R368). -/
  | frnd (x : SForm)
  /-- FRND_EXTENDED (R368). -/
  | frndExtended (x : XForm)
  /-- FSCALE (R368). -/
  | fscale (x : SForm)
  /-- FSCALE_EXTENDED (R368). -/
  | fscaleExtended (x : XForm)
  /-- HADD2 (R369). -/
  | hadd2 (x : SForm)
  /-- HADD2_EXTENDED (R369). -/
  | hadd2Extended (x : XForm)
  /-- HMUL2 (R369). -/
  | hmul2 (x : SForm)
  /-- HMUL2_EXTENDED (R369). -/
  | hmul2Extended (x : XForm)
  /-- HFMA2 (R369). -/
  | hfma2 (x : XForm)
  /-- DADD (R370). -/
  | dadd (x : SForm)
  /-- DADD_EXTENDED (R370). -/
  | daddExtended (x : XForm)
  /-- DMUL (R370). -/
  | dmul (x : SForm)
  /-- DMUL_EXTENDED (R370). -/
  | dmulExtended (x : XForm)
  /-- DFMA (R370). -/
  | dfma (x : XForm)
  /-- FRCP (R372). -/
  | frcp (x : XForm)
  /-- FRSQ (R372). -/
  | frsq (x : XForm)
  /-- FSQRT (R372). -/
  | fsqrt (x : XForm)
  /-- FEXP2 (R372). -/
  | fexp2 (x : XForm)
  /-- FLOG2 (R372). -/
  | flog2 (x : XForm)
  /-- FSIN (R372). -/
  | fsin (x : XForm)
  /-- FCOS (R372). -/
  | fcos (x : XForm)
  /-- FTANH (R372). -/
  | ftanh (x : XForm)
  /-- CVT (R374). -/
  | cvt (x : XForm)
  /-- BSCALE (R377). -/
  | bscale (x : XForm)
  /-- BPACK (R375). -/
  | bpack (x : XForm)
  /-- BUNPACK (R376). -/
  | bunpack (x : XForm)
  /-- SHFL (R379). -/
  | shfl (x : SForm)
  /-- SHFL_EXTENDED (R379). -/
  | shflExtended (x : XForm)
  /-- SHFLX (R379). -/
  | shflx (x : SForm)
  /-- SHFLX_EXTENDED (R379). -/
  | shflxExtended (x : XForm)
  /-- SHFLUP (R379). -/
  | shflup (x : SForm)
  /-- SHFLUP_EXTENDED (R379). -/
  | shflupExtended (x : XForm)
  /-- SHFLDN (R379). -/
  | shfldn (x : SForm)
  /-- SHFLDN_EXTENDED (R379). -/
  | shfldnExtended (x : XForm)
  /-- BFLY (R381). -/
  | bfly (x : SForm)
  /-- BFLY_EXTENDED (R381). -/
  | bflyExtended (x : XForm)
  /-- LRED (R382). -/
  | lred (x : XForm)
  /-- LSCAN (R383). -/
  | lscan (x : XForm)
  /-- SLDEF (R387). -/
  | sldef (x : XForm)
  /-- SLPUSH (R388). -/
  | slpush (x : SForm)
  /-- SLPUSH_EXTENDED (R388). -/
  | slpushExtended (x : XForm)
  /-- SLREAD (R389). -/
  | slread (x : SForm)
  /-- SLREAD_EXTENDED (R389). -/
  | slreadExtended (x : XForm)
  /-- SLSETW (R390). -/
  | slsetw (x : XForm)
  /-- SLRESET (R391). -/
  | slreset (x : SForm)
  /-- SLSAVE (R392). -/
  | slsave (x : XForm)
  /-- SLLOAD (R392). -/
  | slload (x : XForm)
  /-- LD (R398). -/
  | ld (x : XForm)
  /-- ST (R399). -/
  | st (x : XForm)
  /-- LDK (R401). -/
  | ldk (x : XForm)
  /-- SLD (R402). -/
  | sld (x : XForm)
  /-- SST (R402). -/
  | sst (x : XForm)
  /-- ATOM (R403). -/
  | atom (x : XForm)
  /-- ATOMAGG (R406). -/
  | atomagg (x : XForm)
  /-- CAS (R404). -/
  | cas (x : XForm)
  /-- FENCE (R407). -/
  | fence (x : XForm)
  /-- FENCER (R408). -/
  | fencer (x : XForm)
  /-- TOUCH (R410). -/
  | touch (x : XForm)
  /-- PREF (R411). -/
  | pref (x : XForm)
  /-- CPY (R415). -/
  | cpy (x : XForm)
  /-- CPYRED (R416). -/
  | cpyred (x : XForm)
  /-- CPYX (R417). -/
  | cpyx (x : XForm)
  /-- BARINIT (R421). -/
  | barinit (x : XForm)
  /-- BARARV (R422). -/
  | bararv (x : SForm)
  /-- BARWAIT (R422). -/
  | barwait (x : SForm)
  /-- BARARW (R422). -/
  | bararw (x : SForm)
  /-- BARSTAT (R423). -/
  | barstat (x : SForm)
  /-- EVBIND (R424). -/
  | evbind (x : XForm)
  /-- EVMASK (R425). -/
  | evmask (x : SForm)
  /-- EVMASK_EXTENDED (R425). -/
  | evmaskExtended (x : XForm)
  /-- EVCLR (R425). -/
  | evclr (x : SForm)
  /-- EVCLR_EXTENDED (R425). -/
  | evclrExtended (x : XForm)
  /-- WAITANY (R165). -/
  | waitany (x : XForm)
  /-- POST (R427). -/
  | postMb (x : XForm)
  /-- RECV (R428). -/
  | recv (x : XForm)
  /-- CVINIT (R429). -/
  | cvinit (x : XForm)
  /-- MSIGN (R431). -/
  | msign (x : XForm)
  /-- LAUNCH (R432). -/
  | launch (x : XForm)
  /-- NMRUN (R434). -/
  | nmrun (x : XForm)
  /-- STRSAVE (R437). -/
  | strsave (x : XForm)
  /-- STRLOAD (R437). -/
  | strload (x : XForm)
  /-- CTXSAVE (R438). -/
  | ctxsave (x : XForm)
  /-- CTXLOAD (R438). -/
  | ctxload (x : XForm)
  /-- MFREEZE (R439). -/
  | mfreeze (x : SForm)
  /-- CINV (R440). -/
  | cinv (x : XForm)
  /-- CWB (R441). -/
  | cwb (x : XForm)
  /-- ZNOP (R452). -/
  | znop (x : SillForm)
  /-- ZLD (R452). -/
  | zld (x : SillForm)
  /-- ZST (R449). -/
  | zst (x : SillForm)
  /-- ZMOV (R452). -/
  | zmov (x : SillForm)
  /-- ZADD (R452). -/
  | zadd (x : SillForm)
  /-- ZSUB (R452). -/
  | zsub (x : SillForm)
  /-- ZMUL (R452). -/
  | zmul (x : SillForm)
  /-- ZFMA (R452). -/
  | zfma (x : SillForm)
  /-- ZFMS (R452). -/
  | zfms (x : SillForm)
  /-- ZMIN (R452). -/
  | zmin (x : SillForm)
  /-- ZMAX (R452). -/
  | zmax (x : SillForm)
  /-- ZABS (R452). -/
  | zabs (x : SillForm)
  /-- ZNEG (R452). -/
  | zneg (x : SillForm)
  /-- ZRSQE (R453). -/
  | zrsqe (x : SillForm)
  /-- ZRSQS (R453). -/
  | zrsqs (x : SillForm)
  /-- ZCMP (R452). -/
  | zcmp (x : SillForm)
  /-- ZSEL (R452). -/
  | zsel (x : SillForm)
  /-- ZCVTN (R452). -/
  | zcvtn (x : SillForm)
  /-- ZCVTW (R452). -/
  | zcvtw (x : SillForm)
  /-- ZROW (R445). -/
  | zrow (x : SillForm)
  /-- ZPLANES (R446). -/
  | zplanes (x : SillForm)
  /-- ZRCPE (R453). -/
  | zrcpe (x : SillForm)
  /-- ZRCPS (R453). -/
  | zrcps (x : SillForm)
  /-- BOOT (R35). -/
  | boot
  /-- THERMAL_SHUTDOWN (R33). -/
  | thermalShutdown
  /-- THROTTLE (R33). -/
  | throttle
  /-- DEVICE_TIME_SLEW (R31). -/
  | deviceTimeSlew
  /-- DEVICE_TIME_RESYNC (R31). -/
  | deviceTimeResync
  /-- FLIT_RECEIVE (R23). -/
  | flitReceive
  /-- FLIT_REPLAY (R23). -/
  | flitReplay
  /-- LINK_TRAINING (R29). -/
  | linkTraining
  /-- DIE_LINK_FLIT_RECEIVE (R297). -/
  | dieLinkFlitReceive
  /-- MEMORY_READ (R51). -/
  | memoryRead
  /-- MEMORY_WRITE (R51). -/
  | memoryWrite
  /-- ATOMIC (R51). -/
  | ridgeAtomic
  /-- COMPLETION_WITH_DATA (R26). -/
  | completionWithData
  /-- COMPLETION_WITHOUT_DATA (R26). -/
  | completionWithoutData
  /-- MALFORMED_TRANSACTION (R26). -/
  | malformedTransaction
  /-- TAIL_WRITE (R47). -/
  | tailWrite
  /-- PROGRESS_READ (R54). -/
  | progressRead
  /-- TAIL_READ (R54). -/
  | tailRead
  /-- STATUS_READ (R54). -/
  | statusRead
  /-- QUEUE_RESUME (R55). -/
  | queueResume
  /-- ENERGY_READ (R71). -/
  | energyRead
  /-- ENERGY_CLEAR (R71). -/
  | energyClear
  /-- MAILBOX_POST (R66). -/
  | mailboxPost
  /-- MANAGEMENT_MESSAGE (R52). -/
  | managementMessage
  /-- GET_VERSION (R36). -/
  | getVersion
  /-- GET_CAPABILITIES (R36). -/
  | getCapabilities
  /-- NEGOTIATE_ALGORITHMS (R36). -/
  | negotiateAlgorithms
  /-- GET_DIGESTS (R36). -/
  | getDigests
  /-- GET_CERTIFICATE (R36). -/
  | getCertificate
  /-- CHALLENGE (R36). -/
  | challenge
  /-- GET_MEASUREMENTS (R37). -/
  | getMeasurements
  /-- SPDM_UNSUPPORTED_REQUEST (R36). -/
  | spdmUnsupportedRequest
  /-- SET_IDENTITY (R39). -/
  | setIdentity
  /-- STATUS (R39). -/
  | mgmtStatus
  /-- FLASH_SLOT_REWRITE (R38). -/
  | flashSlotRewrite
  /-- SENSOR_READ (R38). -/
  | sensorRead
  /-- SCRUB_READ (R303). -/
  | scrubRead
  /-- SCRUB_WRITE (R303). -/
  | scrubWrite
  /-- LOG_READ (R303). -/
  | logRead
  /-- LOG_CLEAR (R303). -/
  | logClear
  /-- LIFETIME_READ (R303). -/
  | lifetimeRead
  /-- RETURN_TO_SERVICE (R294). -/
  | returnToService
  /-- QUARANTINE_LIST (R303). -/
  | quarantineList
  /-- UNLISTED_VENDOR_COMMAND (R303). -/
  | unlistedVendorCommand
  /-- LIFETIME_COUNT_SAVE (R302). -/
  | lifetimeCountSave
  /-- LAUNCH_PACKET (R60). -/
  | launchPacket
  /-- TASK_GRAPH_PACKET (R116). -/
  | taskGraphPacket
  /-- SILL_RUN_PACKET (R434). -/
  | sillRunPacket
  /-- COPY_PACKET (R64). -/
  | copyPacket
  /-- SIGNAL_PACKET (R65). -/
  | signalPacket
  /-- SIGNAL_PACKET_RECHECK (R65). -/
  | signalPacketRecheck
  /-- MAILBOX_POST_PACKET (R66). -/
  | mailboxPostPacket
  /-- CREATE_CONTEXT (R67). -/
  | createContext
  /-- DESTROY_CONTEXT (R67). -/
  | destroyContext
  /-- MAP_QUEUE (R67). -/
  | mapQueue
  /-- UNMAP_QUEUE (R67). -/
  | unmapQueue
  /-- RESERVED_PACKET_TYPE (R56). -/
  | reservedPacketType
  /-- PACKET_COMPLETION_SIGNAL (R57). -/
  | packetCompletionSignal
  /-- SYSTEM_COPY_COMPLETE (R64). -/
  | systemCopyComplete
  /-- TASK_NODE_START (R117). -/
  | taskNodeStart
  /-- TASK_NODE_COMPLETE (R117). -/
  | taskNodeComplete
  /-- CODE_SWAP (R87). -/
  | codeSwap
  /-- BENT_REQUEST (R97). -/
  | bentRequest
  /-- REQUEST_GRANT (R100). -/
  | requestGrant
  /-- HOLD_COMMIT (R101). -/
  | holdCommit
  /-- COMMIT (R103). -/
  | bentCommit
  /-- COMMIT_COMPLETE (R103). -/
  | commitComplete
  /-- PREEMPTION_REQUEST (R104). -/
  | preemptionRequest
  /-- PREEMPTION_HOLD_RELEASE (R104). -/
  | preemptionHoldRelease
  /-- CONTROL_BLOCK_WRITE (R104). -/
  | controlBlockWrite
  /-- BENT_SAVE_COMPLETE (R106). -/
  | bentSaveComplete
  /-- YIELD_SAVE (R114). -/
  | yieldSave
  /-- RESTORE_COMPLETE (R280). -/
  | restoreComplete
  /-- SPAWN_BIN_TIMEOUT (R111). -/
  | spawnBinTimeout
  /-- PASS_ARBITRATION (R263). -/
  | passArbitration
  /-- PASS_COMPLETE (R264). -/
  | passComplete
  /-- STORE_PART_RELEASE (R141). -/
  | storePartRelease
  /-- LANE_LOAD_PERFORM (R143). -/
  | laneLoadPerform
  /-- LOAD_DATA_RETURN (R398). -/
  | loadDataReturn
  /-- STORE_ACKNOWLEDGE (R219). -/
  | storeAcknowledge
  /-- RELEASE_WAIT_COMPLETE (R220). -/
  | releaseWaitComplete
  /-- STRAND_FREE (R127). -/
  | strandFree
  /-- FAIRNESS_TIMER (R146). -/
  | fairnessTimer
  /-- STARVATION_QUEUE_ENTRY (R145). -/
  | starvationQueueEntry
  /-- HANDLER_ENTRY (R273). -/
  | handlerEntry
  /-- GROUP_WATCHDOG (R174). -/
  | groupWatchdog
  /-- DBGSTOP (R283). -/
  | dbgstop
  /-- BSPILL (R160). -/
  | bspill
  /-- FIRST_TOUCH (R193). -/
  | firstTouch
  /-- PAGE_REQUEST_APPEND (R191). -/
  | pageRequestAppend
  /-- RESOLVE_WRITE (R190). -/
  | resolveWrite
  /-- HOTNESS_INTERVAL_END (R205). -/
  | hotnessIntervalEnd
  /-- MIGRATION (R208). -/
  | migration
  /-- MIGRATION_FRAME_RELEASE (R208). -/
  | migrationFrameRelease
  /-- COPY_COMPLETE (R415). -/
  | copyComplete
  /-- SILL_RUN_START (R229). -/
  | sillRunStart
  /-- SILL_WAVE (R447). -/
  | sillWave
  /-- SILL_RUN_COMPLETE (R455). -/
  | sillRunComplete
  /-- SCRUB_VISIT (R299). -/
  | scrubVisit
  /-- ENERGY_FOLD (R284). -/
  | energyFold
  /-- TRET (R275). -/
  | tret
  /-- TRET_KILL (R275). -/
  | tretKill
  /-- TRET_FAIL (R275). -/
  | tretFail
  /-- LONG_LATENCY_COMPLETION (R149). -/
  | longLatencyCompletion
  /-- DYNAMIC_ADDRESS_ASSIGNMENT (R38). -/
  | dynamicAddressAssignment
deriving DecidableEq, Repr

end Sys2Proof
end

