-- ==== Sys2Proof/Machine/Encoding.lean ====
section
/-! DEFINITION. The fields of an encoding (R304 to R311) and the listed forms and sub-operations (R319 to R327). -/
namespace Sys2Proof

/-- The four forms of an instruction (R304). -/
inductive Form where
  | s | e | l | x
deriving DecidableEq, Repr

/-- The form that LEN names (R304). -/
def Form.ofLen (len : BitVec 2) : Form :=
  match len.toNat with
  | 0 => .s | 1 => .e | 2 => .l | _ => .x

/-- LEN of a form (R304). -/
def Form.len : Form → BitVec 2
  | .s => 0#2 | .e => 1#2 | .l => 2#2 | .x => 3#2

/-- Words of a form (R304). -/
def Form.words : Form → Nat
  | .s => 1 | .e => 3 | .l => 3 | .x => 5

/-- An instruction as its fields: opcode, form, and what the form carries; a word that the form lacks is zero. -/
structure Enc where
  op : BitVec 8
  form : Form
  b6 : BitVec 6
  a : BitVec 8
  d : BitVec 8
  w1 : Word
  w2 : Word
  lit : DWord
deriving DecidableEq, Repr

namespace Enc

/-- Sub-operation: B6 of an E, L or X form, and of an S form whose B6 has kind sub; otherwise 0 (R306). SEAL and TRET have the kind sub (R319, R326). -/
def sub (x : Enc) : Nat :=
  match x.form with
  | .s => if x.op = 0x03#8 ∨ x.op = 0xE0#8 then x.b6.toNat else 0
  | _ => x.b6.toNat

/-- Word 1 fields (R306). -/
def b (x : Enc) : BitVec 8 := x.w1.extractLsb' 0 8
def c (x : Enc) : BitVec 8 := x.w1.extractLsb' 8 8
def guard (x : Enc) : BitVec 4 := x.w1.extractLsb' 16 4
def la (x : Enc) : BitVec 4 := x.w1.extractLsb' 20 4
/-- MOD as word 1 carries it; the S and L forms hold the class default (R306, R311). -/
def mod (x : Enc) : BitVec 8 :=
  match x.form with
  | .e | .x => x.w1.extractLsb' 24 8
  | _ =>
    let o := x.op.toNat
    if 0x10 ≤ o ∧ o ≤ 0x3F then 0x12#8
    else if 0x40 ≤ o ∧ o ≤ 0x4B then 0x1A#8
    else if 0x90 ≤ o ∧ o ≤ 0x9F then 0x12#8
    else 0x00#8

/-- Word 0 of an encoding (R305). -/
def word0 (x : Enc) : Word := x.b6 ++ x.a ++ x.d ++ x.op ++ x.form.len

/-- The words in address order (R304). -/
def words (x : Enc) : List Word :=
  match x.form with
  | .s => [x.word0]
  | .e => [x.word0, x.w1, x.w2]
  | .l => [x.word0, x.lit.extractLsb' 0 32, x.lit.extractLsb' 32 32]
  | .x => [x.word0, x.w1, x.w2, x.lit.extractLsb' 0 32, x.lit.extractLsb' 32 32]

/-- The fields of the words at hand, of which the form uses a prefix. -/
def ofWords (w0 w1 w2 w3 w4 : Word) : Enc :=
  let f := Form.ofLen (w0.extractLsb' 0 2)
  let z : Enc := ⟨w0.extractLsb' 2 8, f, w0.extractLsb' 26 6, w0.extractLsb' 18 8, w0.extractLsb' 10 8, 0, 0, 0⟩
  match f with
  | .s => z
  | .e => { z with w1 := w1, w2 := w2 }
  | .l => { z with lit := w2 ++ w1 }
  | .x => { z with w1 := w1, w2 := w2, lit := w4 ++ w3 }

/-- The fields of a short form. -/
def short (x : Enc) : SForm := ⟨x.b6, x.a, x.d⟩

/-- The fields of an E, L or X form. -/
def long (x : Enc) : XForm :=
  ⟨x.b6, x.a, x.d, match x.form with
    | .s | .e => .e x.w1 x.w2
    | .l => .l x.lit
    | .x => .x x.w1 x.w2 x.lit⟩

end Enc

/-- A short form under an opcode. -/
def SForm.enc (op : BitVec 8) (x : SForm) : Enc := ⟨op, .s, x.b6, x.a, x.d, 0, 0, 0⟩

/-- A longer form under an opcode. -/
def XForm.enc (op : BitVec 8) (x : XForm) : Enc :=
  match x.tail with
  | .e w1 w2 => ⟨op, .e, x.b6, x.a, x.d, w1, w2, 0⟩
  | .l lit => ⟨op, .l, x.b6, x.a, x.d, 0, 0, lit⟩
  | .x w1 w2 lit => ⟨op, .x, x.b6, x.a, x.d, w1, w2, lit⟩

/-- The forms listed for an opcode (R319 to R326); none for an unassigned one (R327). -/
def opForms (op : Nat) : List Form :=
  match op with
  | 0x00 | 0x03 | 0x04 | 0x19 | 0x1A | 0x22 | 0x29 | 0x2A | 0x2B | 0x2F | 0x49 | 0x4C => [.s, .e]
  | 0x4D | 0x4F | 0x50 | 0x51 | 0x52 | 0x53 | 0x54 | 0x66 | 0x67 | 0x6A | 0x90 | 0x91 => [.s, .e]
  | 0x92 | 0x93 | 0x94 | 0x98 | 0x99 | 0xC6 | 0xC7 => [.s, .e]
  | 0x01 | 0x06 | 0x30 | 0x4A => [.e, .l]
  | 0x02 => [.x]
  | 0x05 | 0x07 | 0x09 | 0x0B | 0x0C | 0x0D | 0x9B | 0xC1 | 0xC2 | 0xC3 | 0xC4 | 0xE0 => [.s]
  | 0xE5 => [.s]
  | 0x08 | 0x1B | 0x23 | 0x28 | 0x4E | 0x55 | 0x56 | 0x72 | 0x73 | 0x74 | 0x75 | 0x76 => [.e]
  | 0x77 | 0x78 | 0x79 | 0x7A | 0x7B | 0x7C | 0x7D | 0x95 | 0x96 | 0x97 | 0x9A | 0x9C => [.e]
  | 0x9D | 0xA0 | 0xA1 | 0xA2 | 0xA3 | 0xA4 | 0xA5 | 0xA6 | 0xA7 | 0xA8 | 0xA9 | 0xAA => [.e]
  | 0xAB | 0xAC | 0xAD | 0xAE | 0xC0 | 0xC5 | 0xC8 | 0xC9 | 0xCA | 0xCB | 0xCC | 0xCD => [.e]
  | 0xCE | 0xE1 | 0xE2 | 0xE3 | 0xE4 | 0xE6 | 0xE7 => [.e]
  | 0x0A => [.l]
  | 0x10 | 0x11 | 0x12 | 0x13 | 0x17 | 0x18 | 0x1E | 0x1F | 0x20 | 0x21 | 0x24 | 0x25 => [.s, .e, .l]
  | 0x26 | 0x27 | 0x40 | 0x41 | 0x42 | 0x43 | 0x44 | 0x45 | 0x46 | 0x47 | 0x48 | 0x60 => [.s, .e, .l]
  | 0x61 | 0x62 | 0x64 | 0x65 | 0x6B | 0x6C | 0x6D | 0x6F | 0x70 => [.s, .e, .l]
  | 0x14 | 0x15 | 0x16 | 0x1C | 0x1D | 0x2C | 0x2D | 0x2E | 0x31 | 0x4B | 0x63 | 0x68 => [.e, .x]
  | 0x69 | 0x6E | 0x71 => [.e, .x]
  | _ => []

/-- Whether a sub-operation is listed for an opcode (R319 to R326). The S form of HADD2 and HMUL2 carries 0 (R369), which Enc.sub gives. -/
def subListed (op sub : Nat) : Bool :=
  match op with
  | 0x03 | 0x1B | 0x28 | 0x6C | 0x6D | 0x6E => decide (sub ≤ 1)
  | 0x0A | 0x31 | 0x4E | 0x7C | 0xA4 => decide (sub ≤ 3)
  | 0x1C | 0x1D | 0x4B | 0x95 => decide (sub ≤ 5)
  | 0x68 | 0x69 => decide (sub ≤ 7)
  | 0x96 => decide (sub ≤ 5) || decide (8 ≤ sub ∧ sub ≤ 13)
  | 0x97 => decide (sub ≤ 8)
  | 0xA0 => decide (sub ≤ 4) || decide (8 ≤ sub ∧ sub ≤ 9)
  | 0xA1 | 0xE6 => decide (sub ≤ 4)
  | 0xA2 | 0xA7 => decide (2 ≤ sub ∧ sub ≤ 3)
  | 0xA3 => decide (sub ≤ 3) || decide (8 ≤ sub ∧ sub ≤ 9)
  | 0xA5 => decide (sub ≤ 15) || decide (17 ≤ sub ∧ sub ≤ 18) || decide (25 ≤ sub ∧ sub ≤ 26)
  | 0xA6 => decide (sub = 0) || decide (sub = 8)
  | 0xA8 | 0xAD | 0xE0 => decide (sub ≤ 2)
  | 0xC5 => decide (1 ≤ sub ∧ sub ≤ 3)
  | _ => decide (sub = 0)

end Sys2Proof
end

