-- ==== Sys2Proof/Machine/Fields.lean ====
section
/-! DEFINITION. The ILLENC checks of decoding (R307 to R316): each field of an encoding against its kind, in the order that fixes DETAIL (R318). -/
namespace Sys2Proof.Machine

/-- What an operand field may hold (R307, R308): a field that must be zero, any code, n vector registers from a multiple of al, a scalar destination, a scalar source read once for the strand, a scalar source read per lane, and the other register kinds. -/
inductive Kind where
  | zero | any
  | v (n al : Nat)
  | sd | su | sl
  | p | br | w | ev | mb | tk | cv
  | f
  | loop
  /-- a vector register stands where only a scalar or a window operand is accepted (R379, R381, R387, R390) -/
  | never
deriving DecidableEq, Repr

/-- Whether a code lies outside its kind, in a group of vregs registers (R121 to R124, R307, R308). -/
def Kind.bad (vregs : Nat) (k : Kind) (code : Nat) : Bool :=
  match k with
  | .zero => code != 0
  | .any => false
  | .v n al => decide (code % al ≠ 0 ∨ vregs < code + n)
  | .sd => decide (160 ≤ code)
  | .su => decide ((160 ≤ code ∧ code ≤ 192) ∨ 208 ≤ code)
  | .sl => decide ((160 ≤ code ∧ code ≤ 191) ∨ 209 ≤ code)
  | .p => decide (8 ≤ code)
  | .br => decide (32 ≤ code)
  | .w => decide (8 ≤ code)
  | .ev => decide (16 ≤ code)
  | .mb => decide (8 ≤ code)
  | .tk => decide (64 ≤ code)
  | .cv => decide (16 ≤ code)
  | .f => decide (code % 16 = 15 ∨ code / 16 = 15 ∨ code % 16 = 8 ∨ code / 16 = 8)
  | .loop => decide (code = 0 ∨ 160 ≤ code)
  | .never => true

/-- The windows of a launch: the last word index of each valid window (R59). -/
abbrev Windows := Vector (Option Nat) 8

/-- Kinds of word 2 (R312). -/
inductive W2 where
  | k | i | m | z
  /-- word 2 K that names a table, a descriptor or a window base (R313) -/
  | table
deriving DecidableEq, Repr

end Sys2Proof.Machine

namespace Sys2Proof.Enc
open Machine

/-- MOD bits SA, SB, SC (R311). -/
def sa (x : Enc) : Bool := x.mod.getLsbD 7
def sb (x : Enc) : Bool := x.mod.getLsbD 6
def sc (x : Enc) : Bool := x.mod.getLsbD 5
/-- MOD TYPE of the classes that have it (R311). -/
def ty (x : Enc) : Nat := (x.mod.extractLsb' 1 4).toNat
def satBit (x : Enc) : Bool := x.mod.getLsbD 0
/-- MOD RM and OVP of the floating class (R311). -/
def rm (x : Enc) : BitVec 3 := x.mod.extractLsb' 2 3
def ovp (x : Enc) : BitVec 2 := x.mod.extractLsb' 0 2
/-- MOD FILL of the lane-exchange class (R311). -/
def fill (x : Enc) : Bool := x.mod.getLsbD 5
/-- MOD fields of the memory class (R311). -/
def ord (x : Enc) : Nat := (x.mod.extractLsb' 6 2).toNat
def fe (x : Enc) : Nat := (x.mod.extractLsb' 4 2).toNat
def scale (x : Enc) : Nat := (x.mod.extractLsb' 2 2).toNat
def idx (x : Enc) : Bool := x.mod.getLsbD 1
/-- Word 2 fields (R312). -/
def ksel (x : Enc) : Bool := x.w2.getLsbD 31
def ken (x : Enc) : Bool := x.w2.getLsbD 30
def win (x : Enc) : Nat := (x.w2.extractLsb' 17 3).toNat
def ofs (x : Enc) : Nat := (x.w2.extractLsb' 0 17).toNat
def scopeCode (x : Enc) : Nat := (x.w2.extractLsb' 29 3).toNat
def cache (x : Enc) : BitVec 2 := x.w2.extractLsb' 27 2
def offset (x : Enc) : BitVec 24 := x.w2.extractLsb' 0 24
def o (x : Enc) : Nat := x.op.toNat
def hasW1 (x : Enc) : Bool := x.form = .e || x.form = .x
def hasLit (x : Enc) : Bool := x.form = .l || x.form = .x

/-- A 64-bit type (R335, R345); only the lane reductions and scans take binary64 (R382). -/
def is64 (x : Enc) : Bool := x.ty = 13 || x.ty = 14 || (x.ty = 3 && (x.o = 0x95 || x.o = 0x96))
/-- A signed integer type (R336). -/
def signed (x : Enc) : Bool := x.ty = 9 || x.ty = 13
/-- Operand width W (R335). -/
def width (x : Enc) : Nat := if x.is64 then 64 else 32

/-- Whether the opcode is guarded (R319 to R326). -/
def guarded (x : Enc) : Bool :=
  let o := x.o
  o = 0x01 || (0x10 ≤ o && o ≤ 0x3F) || o = 0x4C || o = 0x4E || (0x60 ≤ o && o ≤ 0x8F) || (0x90 ≤ o && o ≤ 0x96)
    || (0xA0 ≤ o && o ≤ 0xA2) || o = 0xA5 || o = 0xA7 || o = 0xAA || o = 0xAB

/-- The long-latency instructions (R149). -/
def longLatency (x : Enc) : Bool :=
  let o := x.o
  o = 0x15 || o = 0x16 || (0x72 ≤ o && o ≤ 0x79) || (0xA0 ≤ o && o ≤ 0xA7)

/-- Kind of word 2 (R319 to R326, R420, R435). -/
def w2kind (x : Enc) : W2 :=
  let o := x.o
  if o = 0x02 || o = 0xA2 || o = 0xC8 then .table
  else if o = 0x01 || o = 0x06 || o = 0x08 || o = 0x23 || o = 0x30 || o = 0x4A || o = 0x55 || o = 0x56 || o = 0xC0 || o = 0xC5 || o = 0xCC then .i
  else if o ≤ 0x0F then .z
  else if o = 0x9C || o = 0x9D then .m
  else if o ≤ 0x9F then .k
  else if o ≤ 0xBF then .m
  else .z

end Sys2Proof.Enc

namespace Sys2Proof.Machine

/-- Kinds of the operand fields D, A, B and C. -/
structure Kinds where
  d : Kind := .zero
  a : Kind := .zero
  b : Kind := .zero
  c : Kind := .zero
deriving DecidableEq, Repr

/-- The registers that one element of a format needs (R373). -/
def cvtRegs (code : Nat) : Kind := if code = 3 ∨ code = 13 ∨ code = 14 then .v 2 2 else .v 1 1

/-- Kinds of the register operands of an access width (R397). -/
def memV (sub : Nat) : Kind := if sub = 3 then .v 2 2 else if sub = 4 then .v 4 4 else .v 1 1

/-- The index field of a memory operand (R393, R395): a pointer pair when IDX is set and A is 0. -/
def idxKind (x : Enc) : Kind := if x.idx then (if x.a = 0 ∧ x.o ≠ 0xA2 then .v 2 2 else .v 1 1) else .zero

/-- Kinds of the fields (R307, R319 to R326, R393, R420, R435), before a literal or window replaces B or C. -/
def fieldKinds (x : Enc) : Kinds :=
  let v1 : Kind := .v 1 1
  let vw : Kind := if x.is64 then .v 2 2 else .v 1 1
  let src (flag : Bool) (k : Kind) : Kind := if flag then .sl else k
  let A := src x.sa
  let B := src x.sb
  let C := src x.sc
  match x.o with
  | 0x02 => { a := .p }
  | 0x03 => { d := if x.sub = 0 then v1 else .p }
  | 0x04 => { d := v1, a := v1, b := v1 }
  | 0x08 => { a := .loop }
  | 0x0A => { a := .v 2 2 }
  | 0x10 | 0x11 | 0x12 | 0x13 | 0x15 | 0x16 | 0x17 | 0x18 | 0x1E | 0x1F | 0x20 | 0x21 | 0x31 =>
    { d := vw, a := A vw, b := B vw }
  | 0x14 => { d := vw, a := A vw, b := B vw, c := C vw }
  | 0x19 | 0x1A | 0x22 | 0x29 | 0x2A | 0x2B | 0x2F => { d := vw, a := A vw }
  | 0x1B => { d := vw, a := A vw, b := B vw, c := .p }
  | 0x1C => { d := .p, a := A vw, b := B vw }
  | 0x1D => { d := v1, a := A vw, b := B vw }
  | 0x23 => { d := vw, a := A vw, b := B vw, c := C vw }
  | 0x24 | 0x25 | 0x26 | 0x27 => { d := vw, a := A vw, b := B v1 }
  | 0x28 => { d := v1, a := A v1, b := B v1, c := C v1 }
  | 0x2C => { d := vw, a := A vw, b := B v1, c := C v1 }
  | 0x2D => { d := vw, a := A vw, b := B vw, c := C v1 }
  | 0x2E => { d := vw, a := A vw, b := B vw, c := .p }
  | 0x30 => { d := vw }
  | 0x40 | 0x41 | 0x42 | 0x43 | 0x44 | 0x45 | 0x46 | 0x47 | 0x48 => { d := .sd, a := .su, b := .su }
  | 0x49 => { d := .sd, a := .su }
  | 0x4A => { d := .sd }
  | 0x4B => { d := .p, a := .su, b := .su }
  | 0x4C => { d := v1, a := .sl }
  | 0x4D => { d := .sd, a := v1, b := .su }
  | 0x4E => { d := if x.sub = 2 then .sd else .p, a := .p }
  | 0x4F | 0x50 | 0x51 => { d := .p, a := .p, b := .p }
  | 0x52 | 0x53 => { d := .p, a := .p }
  | 0x54 => { d := .sd, a := .p }
  | 0x55 => { d := .sd }
  | 0x56 => { a := .su }
  | 0x60 | 0x61 | 0x62 | 0x64 | 0x65 | 0x69 | 0x6B | 0x6C | 0x6D | 0x7B => { d := v1, a := A v1, b := B v1 }
  | 0x63 | 0x6E => { d := v1, a := A v1, b := B v1, c := C v1 }
  | 0x66 | 0x67 | 0x6A => { d := v1, a := A v1 }
  | 0x68 => { d := .p, a := A v1, b := B v1 }
  | 0x6F | 0x70 => { d := .v 2 2, a := A (.v 2 2), b := B (.v 2 2) }
  | 0x71 => { d := .v 2 2, a := A (.v 2 2), b := B (.v 2 2), c := C (.v 2 2) }
  | 0x72 | 0x73 | 0x74 | 0x75 | 0x76 | 0x77 | 0x78 | 0x79 => { d := v1, a := A v1 }
  | 0x7A => { d := cvtRegs (x.c.toNat % 16), a := A (cvtRegs (x.c.toNat / 16)), b := .p, c := .f }
  | 0x7C => { d := .v 5 1, a := A v1, b := .p }
  | 0x7D => { d := v1, a := .v 5 1, b := B v1 }
  | 0x90 => { d := vw, a := vw, b := B v1 }
  | 0x91 | 0x92 | 0x93 | 0x94 => { d := vw, a := vw, b := if x.sb then .sl else .never }
  | 0x95 | 0x96 => { d := vw, a := vw }
  | 0x97 => { d := .w, a := v1, b := if x.sb then .su else .never }
  | 0x98 => { d := .w, a := A v1 }
  | 0x99 => { d := v1, a := .w }
  | 0x9A => { d := .w, b := if x.sb then .su else .never }
  | 0x9B => { d := .w }
  | 0x9C | 0x9D => { d := .w, a := .su }
  | 0xA0 | 0xA1 => { d := memV x.sub, a := .sl, b := idxKind x, c := .p }
  | 0xA2 => { d := memV x.sub, a := .sl, b := idxKind x }
  | 0xA3 => { d := .sd, a := .su, c := .p }
  | 0xA4 => { d := .su, a := .su, c := .p }
  | 0xA5 => { d := if x.sub / 8 % 2 = 1 then .v 2 2 else v1, a := .sl, b := idxKind x, c := .p }
  | 0xA6 => { d := if x.sub = 8 then .v 2 2 else v1, a := .su, c := .p }
  | 0xA7 => { d := if x.sub = 3 then .v 4 4 else .v 2 2, a := .sl, b := idxKind x, c := .p }
  | 0xA9 => { a := .su, b := .su }
  | 0xAA => { d := .tk, a := .sl, b := idxKind x, c := .su }
  | 0xAB => { a := .sl, b := idxKind x }
  | 0xAC | 0xAD | 0xAE => { d := .su, a := .su, b := .su, c := .su }
  | 0xC0 | 0xC1 | 0xC2 | 0xC3 => { d := .br }
  | 0xC4 => { d := .sd, a := .br }
  | 0xC5 => { d := .ev, a := if x.sub = 1 then .br else if x.sub = 2 then .tk else .mb }
  | 0xC6 | 0xC7 => { a := .su }
  | 0xC8 => { b := .any, c := .any }
  | 0xC9 => { d := .mb, a := if x.mod.getLsbD 0 then .zero else .su, b := .su }
  | 0xCA => { d := .sd, a := .mb }
  | 0xCB => { d := .cv, a := .su, b := .su }
  | 0xCC => { d := .cv }
  | 0xCD | 0xCE => { d := .sd, a := .su, b := .su }
  | 0xE1 | 0xE2 | 0xE3 | 0xE4 => { a := .su }
  | 0xE6 => if x.sub ≤ 1 then { a := .su, b := .su } else {}
  | 0xE7 => { a := .su, b := .su }
  | _ => {}

/-- Whether the instruction has a source B, or C, that a window operand may replace (R313, R335, R362, R378, R386). -/
def hasWindowB (x : Enc) : Bool :=
  let o := x.o
  (0x10 ≤ o && o ≤ 0x18) || (0x1B ≤ o && o ≤ 0x21) || (0x24 ≤ o && o ≤ 0x28) || (0x2C ≤ o && o ≤ 0x2E) || o = 0x31
    || (0x40 ≤ o && o ≤ 0x48) || o = 0x4B || o = 0x4D
    || (0x60 ≤ o && o ≤ 0x65) || o = 0x68 || o = 0x69 || (0x6B ≤ o && o ≤ 0x71) || o = 0x7B || o = 0x7D
    || (0x90 ≤ o && o ≤ 0x94) || o = 0x97 || o = 0x9A

def hasWindowC (x : Enc) : Bool :=
  let o := x.o
  o = 0x14 || o = 0x28 || o = 0x2C || o = 0x2D || o = 0x63 || o = 0x6E || o = 0x71

/-- Width in bits of the operand that a window or literal gives: 64 for a pair or a 64-bit scalar (R313, R315). A shift amount, position or length is 32 bits (R335). -/
def operandBits (x : Enc) (forC : Bool) : Nat :=
  let o := x.o
  if 0x24 ≤ o ∧ o ≤ 0x28 then 32
  else if o = 0x2C then 32
  else if o = 0x2D ∧ forC then 32
  else if 0x46 ≤ o ∧ o ≤ 0x48 then 32
  else if o = 0x4D then 32
  else if 0x6F ≤ o ∧ o ≤ 0x71 then 64
  else if 0x90 ≤ o ∧ o ≤ 0x9F then 32
  else if (0x10 ≤ o ∧ o ≤ 0x4B) ∧ x.is64 then 64
  else 32

/-- One check: whether the field offends, and the DETAIL it gives. -/
abbrev Check := Bool × Nat

/-- The checks of B6 in the S form (R307, R319 to R326); other forms carry a listed sub-operation there. -/
def b6Checks (vregs : Nat) (x : Enc) : List Check :=
  let b6 := x.b6.toNat
  if x.form ≠ .s then
    -- LRED and LSCAN with a floating type have no bitwise operators (R382, R383)
    [((x.o = 0x95 ∨ x.o = 0x96) ∧ (x.ty = 0 ∨ x.ty = 3) ∧ 3 ≤ b6 % 8, b6)]
  else match x.o with
    | 0x04 | 0x10 | 0x11 | 0x12 | 0x13 | 0x17 | 0x18 | 0x1E | 0x1F | 0x20 | 0x21
    | 0x60 | 0x61 | 0x62 | 0x64 | 0x65 | 0x6B | 0x6C | 0x6D | 0x90 => [((Kind.v 1 1).bad vregs b6, b6)]
    | 0x6F | 0x70 => [((Kind.v 2 2).bad vregs b6, b6)]
    | 0x40 | 0x41 | 0x42 | 0x43 | 0x44 | 0x45 => []
    | 0x4F | 0x50 | 0x51 => [(decide (8 ≤ b6), b6)]
    | 0x0C | 0x0D | 0x24 | 0x25 | 0x26 | 0x27 | 0x46 | 0x47 | 0x48 => []
    | 0x4D | 0x91 | 0x92 | 0x93 => [(decide (32 ≤ b6), b6)]
    | 0x94 => [(!([1, 2, 4, 8, 16].contains b6), b6)]
    | 0xC2 | 0xC3 => [(decide (2 ≤ b6), b6 / 2)]
    | 0x03 | 0xE0 => []
    | _ => [(b6 != 0, b6)]

/-- The types that an instruction accepts (R335, R342, R345, R378, R386, R387). -/
def typeOk (x : Enc) : Bool :=
  let o := x.o
  let t := x.ty
  if o = 0x28 then t = 9 || t = 10
  else if o = 0x95 || o = 0x96 then t = 9 || t = 10 || t = 13 || t = 14 || t = 0 || t = 3
  else if o = 0x97 then true
  else if 0x98 ≤ o && o ≤ 0x9F then t = 9
  else t = 9 || t = 10 || t = 13 || t = 14

/-- Whether SAT is accepted (R335). -/
def satOk (x : Enc) : Bool := [0x10, 0x11, 0x12, 0x14, 0x15, 0x19, 0x1A].contains x.o

/-- Which of SA, SB, SC an instruction accepts (R311, R314, R362, R378, R386). -/
def scalarBitsOk (x : Enc) : Bool × Bool × Bool :=
  let o := x.o
  let un := o = 0x19 || o = 0x1A || o = 0x22 || o = 0x29 || o = 0x2A || o = 0x2B || o = 0x2F || o = 0x66 || o = 0x67 || o = 0x6A || (0x72 ≤ o && o ≤ 0x7A) || o = 0x7C
  if o = 0x30 then (false, false, false)
  else if un then (true, false, false)
  else if o = 0x7D then (false, true, false)
  else if o = 0x14 || o = 0x23 || o = 0x28 || o = 0x2C || o = 0x2D || o = 0x63 || o = 0x6E || o = 0x71 then (true, true, true)
  else if o ≤ 0x8F then (true, true, false)
  else if o = 0x98 then (true, false, false)
  else if o = 0x95 || o = 0x96 || o = 0x99 || o = 0x9B || o = 0x9C || o = 0x9D then (false, false, false)
  else (false, true, false)

/-- Whether a rounding mode is accepted (R242, R363). -/
def rmOk (x : Enc) : Bool :=
  let o := x.o
  let r := x.rm.toNat
  if (0x60 ≤ o && o ≤ 0x63) || (0x6C ≤ o && o ≤ 0x6E) || o = 0x7A || o = 0x7C then r ≤ 5
  else if o = 0x6A || o = 0x6B || o = 0x7B || (0x6F ≤ o && o ≤ 0x71) then r ≤ 4
  else r = 0

/-- Whether the ORD, FE, IDX with SCALE, and SCOPE of a memory instruction are accepted (R394, R395). -/
def ordOk (x : Enc) : Bool :=
  match x.o with
  | 0xA0 | 0xA3 => x.ord ≠ 2
  | 0xA1 | 0xA4 => x.ord = 0 || x.ord = 2
  | 0xA5 | 0xA6 | 0xA7 => x.ord ≠ 3
  | _ => x.ord = 0
def feOk (x : Enc) : Bool :=
  match x.o with
  | 0xA0 | 0xA3 => x.fe ≤ 2
  | 0xA1 | 0xA4 => x.fe ≤ 1
  | _ => x.fe = 0
def idxOk (x : Enc) : Bool := !x.idx || [0xA0, 0xA1, 0xA2, 0xA5, 0xA7, 0xAA, 0xAB].contains x.o
def scaleOk (x : Enc) : Bool :=
  x.scale = 0 || ([0xA0, 0xA1, 0xA5, 0xA7, 0xAA, 0xAB].contains x.o && !(x.idx && x.a = 0))
def scopeOk (x : Enc) : Bool :=
  match x.o with
  | 0xA0 | 0xA3 => x.scopeCode = 0 || (x.scopeCode ≤ 6 && x.ord = 1)
  | 0xA1 | 0xA4 => x.scopeCode = 0 || (x.scopeCode ≤ 6 && x.ord = 2)
  | 0xA5 | 0xA6 | 0xA7 => x.scopeCode = 0 || (x.scopeCode ≤ 6 && (x.ord = 1 || x.ord = 2))
  | 0xAA | 0xAB => x.scopeCode = 0
  | _ => x.scopeCode ≤ 6

/-- The checks of MOD, lowest bits first (R311, R335, R363, R378, R394, R420, R435). -/
def modChecks (x : Enc) : List Check :=
  let o := x.o
  let m := x.mod
  let bit (i : Nat) (ok : Bool) : Check := (m.getLsbD i && !ok, 1)
  if o ≤ 0x0F || (0x4C ≤ o && o ≤ 0x5F) then
    [((m.extractLsb' 0 5) != 0, (m.extractLsb' 0 5).toNat), bit 5 false, bit 6 false, bit 7 false]
  else if o ≤ 0x3F then
    let (ka, kb, kc) := scalarBitsOk x
    [(x.satBit && !satOk x, 1), (!typeOk x, x.ty), bit 5 kc, bit 6 (kb && x.form ≠ .x), bit 7 ka]
  else if o ≤ 0x4B then [bit 0 false, (!typeOk x, x.ty), bit 5 false, bit 6 false, bit 7 false]
  else if o ≤ 0x8F then
    let (ka, kb, kc) := scalarBitsOk x
    [(x.ovp ≠ 0 && !(o = 0x7A || o = 0x7C), x.ovp.toNat), (!rmOk x, x.rm.toNat), bit 5 kc, bit 6 (kb && x.form ≠ .x), bit 7 ka]
  else if o ≤ 0x9B then
    let (ka, kb, _) := scalarBitsOk x
    [bit 0 false, (!typeOk x, x.ty), bit 5 (o ≤ 0x94), bit 6 kb, bit 7 ka]
  else if o ≤ 0x9F then [bit 0 false, (!typeOk x, x.ty), bit 5 false, bit 6 false, bit 7 false]
  else if o ≤ 0xBF then
    [bit 0 false, (!idxOk x, 1), (!scaleOk x, x.scale), (!feOk x, x.fe), (!ordOk x, x.ord)]
  else if o = 0xC9 then [(m.extractLsb' 1 7 != 0, (m.extractLsb' 1 7).toNat)]
  else if o = 0xE1 then [(m.extractLsb' 0 2 = 3#2, 3), (m.extractLsb' 2 6 != 0, (m.extractLsb' 2 6).toNat)]
  else if o = 0xE2 then [(m.getLsbD 0, (m.extractLsb' 0 2).toNat), (m.extractLsb' 2 6 != 0, (m.extractLsb' 2 6).toNat)]
  else [(m != 0, m.toNat)]

/-- A window operand of a vector or scalar instruction against the windows at hand, if they are known (R313): DETAIL is WIN. -/
def windowBad (wins : Option Windows) (x : Enc) : Bool :=
  let bits := operandBits x x.ksel
  let structural :=
    (x.ksel && !hasWindowC x) || (!x.ksel && !hasWindowB x) || (!x.ksel && x.form = .x)
      || (bits = 64 && x.ofs % 2 = 1)
      || (if x.ksel then x.c != 0 || (x.o ≤ 0x8F && x.sc) else x.b != 0 || x.sb && !(0x40 ≤ x.o && x.o ≤ 0x5F))
  structural || (match wins with
    | none => false
    | some ws =>
      match ws.getD x.win none with
      | none => true
      | some len => decide (len < x.ofs + (if bits = 64 then 1 else 0)))

/-- A GETSR or SETSR number that reaches a register (R276, R351). -/
def srNumberOk (isSet : Bool) (n : Nat) : Bool :=
  n ≤ 4 || (8 ≤ n && n ≤ 0x0C) || (n = 0x80 && !isSet) || (n = 0x81 && isSet)

/-- The checks of word 2, lowest bits first (R312, R313, R316). -/
def w2Checks (wins : Option Windows) (x : Enc) : List Check :=
  let w := x.w2
  let fld (lo n : Nat) : Nat := (w.extractLsb' lo n).toNat
  match x.w2kind with
  | .z => [(w != 0, w.toNat)]
  | .k =>
    if !x.ken then [(fld 0 17 != 0, fld 0 17), (fld 17 3 != 0, fld 17 3), (fld 20 10 != 0, fld 20 10), (x.ksel, 1)]
    else [(windowBad wins x, x.win), (fld 20 10 != 0, fld 20 10)]
  | .table => [(fld 20 10 != 0, fld 20 10), (!x.ken || x.ksel, x.win),
      ((match wins with | none => false | some ws => (ws.getD x.win none).isNone), x.win)]
  | .m => [(x.offset != 0 && [0xA8, 0xA9, 0xAC, 0xAD, 0xAE].contains x.o, x.offset.toNat), (!scopeOk x, x.scopeCode)]
  | .i =>
    match x.o with
    | 0x01 | 0x06 | 0x08 => [(w.extractLsb' 0 2 != 0, w.toNat)]
    | 0x23 => [(fld 8 24 != 0, fld 8 24)]
    | 0x55 => [(!srNumberOk false (fld 0 8), fld 0 8), (fld 8 24 != 0, fld 8 24)]
    | 0x56 => [(!srNumberOk true (fld 0 8), fld 0 8), (fld 8 24 != 0, fld 8 24)]
    | 0xC5 => [((x.sub = 1 && fld 1 31 != 0) || (x.sub = 3 && w != 0), x.d.toNat)]
    | 0xCC => [(!w.getLsbD 27 && fld 0 8 != 0, fld 0 8), (!w.getLsbD 28 && fld 8 8 != 0, fld 8 8),
        (!w.getLsbD 29 && fld 16 8 != 0, fld 16 8), (!(w.getLsbD 27 || w.getLsbD 28 || w.getLsbD 29), 0), (fld 30 2 != 0, fld 30 2)]
    | _ => []

/-- The checks of a literal (R315, R352, R358, R361). -/
def litChecks (x : Enc) : List Check :=
  let l := x.lit
  match x.o with
  | 0x01 | 0x06 | 0x0A => [(l.extractLsb' 0 2 != 0, l.toNat)]
  | 0x02 => [(l.extractLsb' 0 2 != 0, l.toNat), (l.extractLsb' 32 2 != 0, (l.extractLsb' 32 32).toNat)]
  | 0x4A => []
  | 0x30 => [(!x.is64 && l.extractLsb' 32 32 != 0, (l.extractLsb' 32 32).toNat)]
  | _ => [(operandBits x false = 32 && l.extractLsb' 32 32 != 0, (l.extractLsb' 32 32).toNat)]

/-- Every check in the order of R318: word 0, word 1, word 2, literal. -/
def checks (vregs : Nat) (wins : Option Windows) (x : Enc) : List Check :=
  let k := fieldKinds x
  let kwB := x.hasW1 && x.w2kind = .k && x.ken && !x.ksel
  let kwC := x.hasW1 && x.w2kind = .k && x.ken && x.ksel
  let reg (kd : Kind) (code : BitVec 8) : Check := (kd.bad vregs code.toNat, code.toNat)
  let litB := x.hasLit && !(x.o = 0x02 || x.o = 0x0A)
  [reg k.d x.d, reg k.a x.a] ++ b6Checks vregs x ++
  (if x.hasW1 then
    [reg (if litB then .zero else if kwB then .any else k.b) x.b, reg (if kwC then .any else k.c) x.c,
     (x.guard != 0 && !x.guarded, x.guard.toNat), (x.la != 0 && !x.longLatency, x.la.toNat)]
    ++ modChecks x ++ w2Checks wins x else [])
  ++ (if x.hasLit then litChecks x else [])

/-- DETAIL of the lowest offending field, if a field offends (R317, R318). -/
def encFault (vregs : Nat) (wins : Option Windows) (x : Enc) : Option (BitVec 8) :=
  match (checks vregs wins x).find? (·.1) with
  | some (_, d) => some (BitVec.ofNat 8 d)
  | none => none

/-- Whether the fields of a Sill word are those its form uses (R450, R452, R454). npl: planes of the run, if known. -/
def sillOk (i : Instr) (npl : Option Nat) : Bool :=
  let plane (x : SillForm) : Bool := (x.imm.extractLsb' 3 9 = 0) && (match npl with | none => true | some n => (x.imm.extractLsb' 0 3).toNat < n)
  let b0 (x : SillForm) : Bool := !x.qb && x.b = 0
  let bz (x : SillForm) : Bool := x.qb || !x.b.getLsbD 3
  match i with
  | .znop x | .zrow x => !x.t && b0 x && x.c = 0 && x.a = 0 && x.d = 0 && x.imm = 0
  | .zld x => !x.t && b0 x && x.c = 0 && x.a = 0 && plane x
  | .zst x => !x.t && b0 x && x.c = 0 && x.d = 0 && plane x
  | .zmov x => (!x.t || x.qb) && bz x && x.c = 0 && x.a = 0 && x.imm = 0
  | .zadd x | .zsub x | .zmul x | .zmin x | .zmax x | .zrsqs x | .zrcps x => bz x && x.c = 0 && x.imm = 0
  | .zfma x | .zfms x | .zsel x => bz x && x.imm = 0
  | .zabs x | .zneg x | .zrsqe x | .zrcpe x => b0 x && x.c = 0 && x.imm = 0
  | .zcmp x => bz x && x.c = 0 && x.imm.toNat < 6
  | .zcvtn x => !x.t && !x.qb && !x.b.getLsbD 3 && x.c = 0 && x.imm = 0
  | .zcvtw x => !x.t && b0 x && x.c = 0 && x.imm.toNat < 2
  | .zplanes x => !x.t && b0 x && x.c = 0 && x.a = 0 && x.d = 0
  | _ => false

end Sys2Proof.Machine
end

