-- ==== Sys2Proof/Decode.lean ====
section
/-! DEFINITION. Decoding of Yalhel and Sill words (R304 to R327, R450), total on any words, and the encoder written from the same tables. -/
namespace Sys2Proof
open Machine

/-- Why words encode no instruction (R317, R327). -/
inductive DecodeError where
  /-- OP is unassigned. -/
  | unassigned
  /-- The form is not listed for OP. -/
  | formNotListed
  /-- The sub-operation is not listed for OP. -/
  | subopNotListed
  /-- A Sill word with OP 0x17 to 0x1F (R452). -/
  | sillUnassigned
deriving DecidableEq, Repr

/-- The instruction of an encoding whose opcode, form and sub-operation are listed. -/
def Instr.ofEnc? (x : Enc) : Option Instr :=
  match x.op.toNat with
  | 0x00 => if x.form = .s then some (.nop x.short) else some (.nopExtended x.long)
  | 0x01 => some (.bra x.long)
  | 0x02 => some (.fork x.long)
  | 0x03 => if x.form = .s then some (.seal x.short) else some (.sealExtended x.long)
  | 0x04 => if x.form = .s then some (.join x.short) else some (.joinExtended x.long)
  | 0x05 => some (.endarm x.short)
  | 0x06 => some (.callSub x.long)
  | 0x07 => some (.ret x.short)
  | 0x08 => some (.loopTo x.long)
  | 0x09 => some (.exitStrand x.short)
  | 0x0A => some (.spawn x.long)
  | 0x0B => some (.yieldStrand x.short)
  | 0x0C => some (.bkpt x.short)
  | 0x0D => some (.trapCode x.short)
  | 0x10 => if x.form = .s then some (.iadd x.short) else some (.iaddExtended x.long)
  | 0x11 => if x.form = .s then some (.isub x.short) else some (.isubExtended x.long)
  | 0x12 => if x.form = .s then some (.imul x.short) else some (.imulExtended x.long)
  | 0x13 => if x.form = .s then some (.imulh x.short) else some (.imulhExtended x.long)
  | 0x14 => some (.imad x.long)
  | 0x15 => some (.idiv x.long)
  | 0x16 => some (.irem x.long)
  | 0x17 => if x.form = .s then some (.imin x.short) else some (.iminExtended x.long)
  | 0x18 => if x.form = .s then some (.imax x.short) else some (.imaxExtended x.long)
  | 0x19 => if x.form = .s then some (.iabs x.short) else some (.iabsExtended x.long)
  | 0x1A => if x.form = .s then some (.ineg x.short) else some (.inegExtended x.long)
  | 0x1B => some (.iaddc x.long)
  | 0x1C => some (.icmp x.long)
  | 0x1D => some (.iset x.long)
  | 0x1E => if x.form = .s then some (.andV x.short) else some (.andVExtended x.long)
  | 0x1F => if x.form = .s then some (.orV x.short) else some (.orVExtended x.long)
  | 0x20 => if x.form = .s then some (.xorV x.short) else some (.xorVExtended x.long)
  | 0x21 => if x.form = .s then some (.andn x.short) else some (.andnExtended x.long)
  | 0x22 => if x.form = .s then some (.notV x.short) else some (.notVExtended x.long)
  | 0x23 => some (.bmix x.long)
  | 0x24 => if x.form = .s then some (.shl x.short) else some (.shlExtended x.long)
  | 0x25 => if x.form = .s then some (.shr x.short) else some (.shrExtended x.long)
  | 0x26 => if x.form = .s then some (.sar x.short) else some (.sarExtended x.long)
  | 0x27 => if x.form = .s then some (.rot x.short) else some (.rotExtended x.long)
  | 0x28 => some (.shf x.long)
  | 0x29 => if x.form = .s then some (.popc x.short) else some (.popcExtended x.long)
  | 0x2A => if x.form = .s then some (.clz x.short) else some (.clzExtended x.long)
  | 0x2B => if x.form = .s then some (.brev x.short) else some (.brevExtended x.long)
  | 0x2C => some (.bfe x.long)
  | 0x2D => some (.bfi x.long)
  | 0x2E => some (.selV x.long)
  | 0x2F => if x.form = .s then some (.mov x.short) else some (.movExtended x.long)
  | 0x30 => some (.movi x.long)
  | 0x31 => some (.lea x.long)
  | 0x40 => if x.form = .s then some (.sadd x.short) else some (.saddExtended x.long)
  | 0x41 => if x.form = .s then some (.ssub x.short) else some (.ssubExtended x.long)
  | 0x42 => if x.form = .s then some (.smul x.short) else some (.smulExtended x.long)
  | 0x43 => if x.form = .s then some (.sand x.short) else some (.sandExtended x.long)
  | 0x44 => if x.form = .s then some (.sor x.short) else some (.sorExtended x.long)
  | 0x45 => if x.form = .s then some (.sxor x.short) else some (.sxorExtended x.long)
  | 0x46 => if x.form = .s then some (.sshl x.short) else some (.sshlExtended x.long)
  | 0x47 => if x.form = .s then some (.sshr x.short) else some (.sshrExtended x.long)
  | 0x48 => if x.form = .s then some (.ssar x.short) else some (.ssarExtended x.long)
  | 0x49 => if x.form = .s then some (.smov x.short) else some (.smovExtended x.long)
  | 0x4A => some (.smovi x.long)
  | 0x4B => some (.scmp x.long)
  | 0x4C => if x.form = .s then some (.vbcast x.short) else some (.vbcastExtended x.long)
  | 0x4D => if x.form = .s then some (.readlane x.short) else some (.readlaneExtended x.long)
  | 0x4E => some (.vote x.long)
  | 0x4F => if x.form = .s then some (.pand x.short) else some (.pandExtended x.long)
  | 0x50 => if x.form = .s then some (.por x.short) else some (.porExtended x.long)
  | 0x51 => if x.form = .s then some (.pxor x.short) else some (.pxorExtended x.long)
  | 0x52 => if x.form = .s then some (.pnot x.short) else some (.pnotExtended x.long)
  | 0x53 => if x.form = .s then some (.pmov x.short) else some (.pmovExtended x.long)
  | 0x54 => if x.form = .s then some (.ppopc x.short) else some (.ppopcExtended x.long)
  | 0x55 => some (.getsr x.long)
  | 0x56 => some (.setsr x.long)
  | 0x60 => if x.form = .s then some (.fadd x.short) else some (.faddExtended x.long)
  | 0x61 => if x.form = .s then some (.fsub x.short) else some (.fsubExtended x.long)
  | 0x62 => if x.form = .s then some (.fmul x.short) else some (.fmulExtended x.long)
  | 0x63 => some (.ffma x.long)
  | 0x64 => if x.form = .s then some (.fmin x.short) else some (.fminExtended x.long)
  | 0x65 => if x.form = .s then some (.fmax x.short) else some (.fmaxExtended x.long)
  | 0x66 => if x.form = .s then some (.fabs x.short) else some (.fabsExtended x.long)
  | 0x67 => if x.form = .s then some (.fneg x.short) else some (.fnegExtended x.long)
  | 0x68 => some (.fcmp x.long)
  | 0x69 => some (.fset x.long)
  | 0x6A => if x.form = .s then some (.frnd x.short) else some (.frndExtended x.long)
  | 0x6B => if x.form = .s then some (.fscale x.short) else some (.fscaleExtended x.long)
  | 0x6C => if x.form = .s then some (.hadd2 x.short) else some (.hadd2Extended x.long)
  | 0x6D => if x.form = .s then some (.hmul2 x.short) else some (.hmul2Extended x.long)
  | 0x6E => some (.hfma2 x.long)
  | 0x6F => if x.form = .s then some (.dadd x.short) else some (.daddExtended x.long)
  | 0x70 => if x.form = .s then some (.dmul x.short) else some (.dmulExtended x.long)
  | 0x71 => some (.dfma x.long)
  | 0x72 => some (.frcp x.long)
  | 0x73 => some (.frsq x.long)
  | 0x74 => some (.fsqrt x.long)
  | 0x75 => some (.fexp2 x.long)
  | 0x76 => some (.flog2 x.long)
  | 0x77 => some (.fsin x.long)
  | 0x78 => some (.fcos x.long)
  | 0x79 => some (.ftanh x.long)
  | 0x7A => some (.cvt x.long)
  | 0x7B => some (.bscale x.long)
  | 0x7C => some (.bpack x.long)
  | 0x7D => some (.bunpack x.long)
  | 0x90 => if x.form = .s then some (.shfl x.short) else some (.shflExtended x.long)
  | 0x91 => if x.form = .s then some (.shflx x.short) else some (.shflxExtended x.long)
  | 0x92 => if x.form = .s then some (.shflup x.short) else some (.shflupExtended x.long)
  | 0x93 => if x.form = .s then some (.shfldn x.short) else some (.shfldnExtended x.long)
  | 0x94 => if x.form = .s then some (.bfly x.short) else some (.bflyExtended x.long)
  | 0x95 => some (.lred x.long)
  | 0x96 => some (.lscan x.long)
  | 0x97 => some (.sldef x.long)
  | 0x98 => if x.form = .s then some (.slpush x.short) else some (.slpushExtended x.long)
  | 0x99 => if x.form = .s then some (.slread x.short) else some (.slreadExtended x.long)
  | 0x9A => some (.slsetw x.long)
  | 0x9B => some (.slreset x.short)
  | 0x9C => some (.slsave x.long)
  | 0x9D => some (.slload x.long)
  | 0xA0 => some (.ld x.long)
  | 0xA1 => some (.st x.long)
  | 0xA2 => some (.ldk x.long)
  | 0xA3 => some (.sld x.long)
  | 0xA4 => some (.sst x.long)
  | 0xA5 => some (.atom x.long)
  | 0xA6 => some (.atomagg x.long)
  | 0xA7 => some (.cas x.long)
  | 0xA8 => some (.fence x.long)
  | 0xA9 => some (.fencer x.long)
  | 0xAA => some (.touch x.long)
  | 0xAB => some (.pref x.long)
  | 0xAC => some (.cpy x.long)
  | 0xAD => some (.cpyred x.long)
  | 0xAE => some (.cpyx x.long)
  | 0xC0 => some (.barinit x.long)
  | 0xC1 => some (.bararv x.short)
  | 0xC2 => some (.barwait x.short)
  | 0xC3 => some (.bararw x.short)
  | 0xC4 => some (.barstat x.short)
  | 0xC5 => some (.evbind x.long)
  | 0xC6 => if x.form = .s then some (.evmask x.short) else some (.evmaskExtended x.long)
  | 0xC7 => if x.form = .s then some (.evclr x.short) else some (.evclrExtended x.long)
  | 0xC8 => some (.waitany x.long)
  | 0xC9 => some (.postMb x.long)
  | 0xCA => some (.recv x.long)
  | 0xCB => some (.cvinit x.long)
  | 0xCC => some (.msign x.long)
  | 0xCD => some (.launch x.long)
  | 0xCE => some (.nmrun x.long)
  | 0xE0 => if x.b6 = 0#6 then some .tret else if x.b6 = 1#6 then some .tretKill else some .tretFail
  | 0xE1 => some (.strsave x.long)
  | 0xE2 => some (.strload x.long)
  | 0xE3 => some (.ctxsave x.long)
  | 0xE4 => some (.ctxload x.long)
  | 0xE5 => some (.mfreeze x.short)
  | 0xE6 => some (.cinv x.long)
  | 0xE7 => some (.cwb x.long)
  | _ => none

/-- The encoding of a Yalhel instruction; none for the other rows of the table. -/
def Instr.enc? : Instr → Option Enc
  | .nop x => some (x.enc 0x00#8)
  | .nopExtended x => some (x.enc 0x00#8)
  | .bra x => some (x.enc 0x01#8)
  | .fork x => some (x.enc 0x02#8)
  | .seal x => some (x.enc 0x03#8)
  | .sealExtended x => some (x.enc 0x03#8)
  | .join x => some (x.enc 0x04#8)
  | .joinExtended x => some (x.enc 0x04#8)
  | .endarm x => some (x.enc 0x05#8)
  | .callSub x => some (x.enc 0x06#8)
  | .ret x => some (x.enc 0x07#8)
  | .loopTo x => some (x.enc 0x08#8)
  | .exitStrand x => some (x.enc 0x09#8)
  | .spawn x => some (x.enc 0x0A#8)
  | .yieldStrand x => some (x.enc 0x0B#8)
  | .bkpt x => some (x.enc 0x0C#8)
  | .trapCode x => some (x.enc 0x0D#8)
  | .iadd x => some (x.enc 0x10#8)
  | .iaddExtended x => some (x.enc 0x10#8)
  | .isub x => some (x.enc 0x11#8)
  | .isubExtended x => some (x.enc 0x11#8)
  | .imul x => some (x.enc 0x12#8)
  | .imulExtended x => some (x.enc 0x12#8)
  | .imulh x => some (x.enc 0x13#8)
  | .imulhExtended x => some (x.enc 0x13#8)
  | .imad x => some (x.enc 0x14#8)
  | .idiv x => some (x.enc 0x15#8)
  | .irem x => some (x.enc 0x16#8)
  | .imin x => some (x.enc 0x17#8)
  | .iminExtended x => some (x.enc 0x17#8)
  | .imax x => some (x.enc 0x18#8)
  | .imaxExtended x => some (x.enc 0x18#8)
  | .iabs x => some (x.enc 0x19#8)
  | .iabsExtended x => some (x.enc 0x19#8)
  | .ineg x => some (x.enc 0x1A#8)
  | .inegExtended x => some (x.enc 0x1A#8)
  | .iaddc x => some (x.enc 0x1B#8)
  | .icmp x => some (x.enc 0x1C#8)
  | .iset x => some (x.enc 0x1D#8)
  | .andV x => some (x.enc 0x1E#8)
  | .andVExtended x => some (x.enc 0x1E#8)
  | .orV x => some (x.enc 0x1F#8)
  | .orVExtended x => some (x.enc 0x1F#8)
  | .xorV x => some (x.enc 0x20#8)
  | .xorVExtended x => some (x.enc 0x20#8)
  | .andn x => some (x.enc 0x21#8)
  | .andnExtended x => some (x.enc 0x21#8)
  | .notV x => some (x.enc 0x22#8)
  | .notVExtended x => some (x.enc 0x22#8)
  | .bmix x => some (x.enc 0x23#8)
  | .shl x => some (x.enc 0x24#8)
  | .shlExtended x => some (x.enc 0x24#8)
  | .shr x => some (x.enc 0x25#8)
  | .shrExtended x => some (x.enc 0x25#8)
  | .sar x => some (x.enc 0x26#8)
  | .sarExtended x => some (x.enc 0x26#8)
  | .rot x => some (x.enc 0x27#8)
  | .rotExtended x => some (x.enc 0x27#8)
  | .shf x => some (x.enc 0x28#8)
  | .popc x => some (x.enc 0x29#8)
  | .popcExtended x => some (x.enc 0x29#8)
  | .clz x => some (x.enc 0x2A#8)
  | .clzExtended x => some (x.enc 0x2A#8)
  | .brev x => some (x.enc 0x2B#8)
  | .brevExtended x => some (x.enc 0x2B#8)
  | .bfe x => some (x.enc 0x2C#8)
  | .bfi x => some (x.enc 0x2D#8)
  | .selV x => some (x.enc 0x2E#8)
  | .mov x => some (x.enc 0x2F#8)
  | .movExtended x => some (x.enc 0x2F#8)
  | .movi x => some (x.enc 0x30#8)
  | .lea x => some (x.enc 0x31#8)
  | .sadd x => some (x.enc 0x40#8)
  | .saddExtended x => some (x.enc 0x40#8)
  | .ssub x => some (x.enc 0x41#8)
  | .ssubExtended x => some (x.enc 0x41#8)
  | .smul x => some (x.enc 0x42#8)
  | .smulExtended x => some (x.enc 0x42#8)
  | .sand x => some (x.enc 0x43#8)
  | .sandExtended x => some (x.enc 0x43#8)
  | .sor x => some (x.enc 0x44#8)
  | .sorExtended x => some (x.enc 0x44#8)
  | .sxor x => some (x.enc 0x45#8)
  | .sxorExtended x => some (x.enc 0x45#8)
  | .sshl x => some (x.enc 0x46#8)
  | .sshlExtended x => some (x.enc 0x46#8)
  | .sshr x => some (x.enc 0x47#8)
  | .sshrExtended x => some (x.enc 0x47#8)
  | .ssar x => some (x.enc 0x48#8)
  | .ssarExtended x => some (x.enc 0x48#8)
  | .smov x => some (x.enc 0x49#8)
  | .smovExtended x => some (x.enc 0x49#8)
  | .smovi x => some (x.enc 0x4A#8)
  | .scmp x => some (x.enc 0x4B#8)
  | .vbcast x => some (x.enc 0x4C#8)
  | .vbcastExtended x => some (x.enc 0x4C#8)
  | .readlane x => some (x.enc 0x4D#8)
  | .readlaneExtended x => some (x.enc 0x4D#8)
  | .vote x => some (x.enc 0x4E#8)
  | .pand x => some (x.enc 0x4F#8)
  | .pandExtended x => some (x.enc 0x4F#8)
  | .por x => some (x.enc 0x50#8)
  | .porExtended x => some (x.enc 0x50#8)
  | .pxor x => some (x.enc 0x51#8)
  | .pxorExtended x => some (x.enc 0x51#8)
  | .pnot x => some (x.enc 0x52#8)
  | .pnotExtended x => some (x.enc 0x52#8)
  | .pmov x => some (x.enc 0x53#8)
  | .pmovExtended x => some (x.enc 0x53#8)
  | .ppopc x => some (x.enc 0x54#8)
  | .ppopcExtended x => some (x.enc 0x54#8)
  | .getsr x => some (x.enc 0x55#8)
  | .setsr x => some (x.enc 0x56#8)
  | .fadd x => some (x.enc 0x60#8)
  | .faddExtended x => some (x.enc 0x60#8)
  | .fsub x => some (x.enc 0x61#8)
  | .fsubExtended x => some (x.enc 0x61#8)
  | .fmul x => some (x.enc 0x62#8)
  | .fmulExtended x => some (x.enc 0x62#8)
  | .ffma x => some (x.enc 0x63#8)
  | .fmin x => some (x.enc 0x64#8)
  | .fminExtended x => some (x.enc 0x64#8)
  | .fmax x => some (x.enc 0x65#8)
  | .fmaxExtended x => some (x.enc 0x65#8)
  | .fabs x => some (x.enc 0x66#8)
  | .fabsExtended x => some (x.enc 0x66#8)
  | .fneg x => some (x.enc 0x67#8)
  | .fnegExtended x => some (x.enc 0x67#8)
  | .fcmp x => some (x.enc 0x68#8)
  | .fset x => some (x.enc 0x69#8)
  | .frnd x => some (x.enc 0x6A#8)
  | .frndExtended x => some (x.enc 0x6A#8)
  | .fscale x => some (x.enc 0x6B#8)
  | .fscaleExtended x => some (x.enc 0x6B#8)
  | .hadd2 x => some (x.enc 0x6C#8)
  | .hadd2Extended x => some (x.enc 0x6C#8)
  | .hmul2 x => some (x.enc 0x6D#8)
  | .hmul2Extended x => some (x.enc 0x6D#8)
  | .hfma2 x => some (x.enc 0x6E#8)
  | .dadd x => some (x.enc 0x6F#8)
  | .daddExtended x => some (x.enc 0x6F#8)
  | .dmul x => some (x.enc 0x70#8)
  | .dmulExtended x => some (x.enc 0x70#8)
  | .dfma x => some (x.enc 0x71#8)
  | .frcp x => some (x.enc 0x72#8)
  | .frsq x => some (x.enc 0x73#8)
  | .fsqrt x => some (x.enc 0x74#8)
  | .fexp2 x => some (x.enc 0x75#8)
  | .flog2 x => some (x.enc 0x76#8)
  | .fsin x => some (x.enc 0x77#8)
  | .fcos x => some (x.enc 0x78#8)
  | .ftanh x => some (x.enc 0x79#8)
  | .cvt x => some (x.enc 0x7A#8)
  | .bscale x => some (x.enc 0x7B#8)
  | .bpack x => some (x.enc 0x7C#8)
  | .bunpack x => some (x.enc 0x7D#8)
  | .shfl x => some (x.enc 0x90#8)
  | .shflExtended x => some (x.enc 0x90#8)
  | .shflx x => some (x.enc 0x91#8)
  | .shflxExtended x => some (x.enc 0x91#8)
  | .shflup x => some (x.enc 0x92#8)
  | .shflupExtended x => some (x.enc 0x92#8)
  | .shfldn x => some (x.enc 0x93#8)
  | .shfldnExtended x => some (x.enc 0x93#8)
  | .bfly x => some (x.enc 0x94#8)
  | .bflyExtended x => some (x.enc 0x94#8)
  | .lred x => some (x.enc 0x95#8)
  | .lscan x => some (x.enc 0x96#8)
  | .sldef x => some (x.enc 0x97#8)
  | .slpush x => some (x.enc 0x98#8)
  | .slpushExtended x => some (x.enc 0x98#8)
  | .slread x => some (x.enc 0x99#8)
  | .slreadExtended x => some (x.enc 0x99#8)
  | .slsetw x => some (x.enc 0x9A#8)
  | .slreset x => some (x.enc 0x9B#8)
  | .slsave x => some (x.enc 0x9C#8)
  | .slload x => some (x.enc 0x9D#8)
  | .ld x => some (x.enc 0xA0#8)
  | .st x => some (x.enc 0xA1#8)
  | .ldk x => some (x.enc 0xA2#8)
  | .sld x => some (x.enc 0xA3#8)
  | .sst x => some (x.enc 0xA4#8)
  | .atom x => some (x.enc 0xA5#8)
  | .atomagg x => some (x.enc 0xA6#8)
  | .cas x => some (x.enc 0xA7#8)
  | .fence x => some (x.enc 0xA8#8)
  | .fencer x => some (x.enc 0xA9#8)
  | .touch x => some (x.enc 0xAA#8)
  | .pref x => some (x.enc 0xAB#8)
  | .cpy x => some (x.enc 0xAC#8)
  | .cpyred x => some (x.enc 0xAD#8)
  | .cpyx x => some (x.enc 0xAE#8)
  | .barinit x => some (x.enc 0xC0#8)
  | .bararv x => some (x.enc 0xC1#8)
  | .barwait x => some (x.enc 0xC2#8)
  | .bararw x => some (x.enc 0xC3#8)
  | .barstat x => some (x.enc 0xC4#8)
  | .evbind x => some (x.enc 0xC5#8)
  | .evmask x => some (x.enc 0xC6#8)
  | .evmaskExtended x => some (x.enc 0xC6#8)
  | .evclr x => some (x.enc 0xC7#8)
  | .evclrExtended x => some (x.enc 0xC7#8)
  | .waitany x => some (x.enc 0xC8#8)
  | .postMb x => some (x.enc 0xC9#8)
  | .recv x => some (x.enc 0xCA#8)
  | .cvinit x => some (x.enc 0xCB#8)
  | .msign x => some (x.enc 0xCC#8)
  | .launch x => some (x.enc 0xCD#8)
  | .nmrun x => some (x.enc 0xCE#8)
  | .tret => some ⟨0xE0#8, .s, 0#6, 0, 0, 0, 0, 0⟩
  | .tretKill => some ⟨0xE0#8, .s, 1#6, 0, 0, 0, 0, 0⟩
  | .tretFail => some ⟨0xE0#8, .s, 2#6, 0, 0, 0, 0, 0⟩
  | .strsave x => some (x.enc 0xE1#8)
  | .strload x => some (x.enc 0xE2#8)
  | .ctxsave x => some (x.enc 0xE3#8)
  | .ctxload x => some (x.enc 0xE4#8)
  | .mfreeze x => some (x.enc 0xE5#8)
  | .cinv x => some (x.enc 0xE6#8)
  | .cwb x => some (x.enc 0xE7#8)
  | _ => none

/-- A Sill word's fields (R450). -/
def SillForm.ofWord (w : Word) : SillForm :=
  ⟨w.getLsbD 26, w.getLsbD 25, w.extractLsb' 21 4, w.extractLsb' 18 3, w.extractLsb' 15 3, w.extractLsb' 12 3, w.extractLsb' 0 12⟩

/-- The Sill word of an opcode and its fields (R450). -/
def SillForm.word (op : BitVec 5) (x : SillForm) : Word :=
  op ++ BitVec.ofBool x.t ++ BitVec.ofBool x.qb ++ x.b ++ x.c ++ x.a ++ x.d ++ x.imm

/-- The Sill instruction of a word (R452). -/
def decodeSill (w : Word) : Except DecodeError Instr :=
  let x := SillForm.ofWord w
  match (w.extractLsb' 27 5).toNat with
  | 0x00 => .ok (.znop x)
  | 0x01 => .ok (.zld x)
  | 0x02 => .ok (.zst x)
  | 0x03 => .ok (.zmov x)
  | 0x04 => .ok (.zadd x)
  | 0x05 => .ok (.zsub x)
  | 0x06 => .ok (.zmul x)
  | 0x07 => .ok (.zfma x)
  | 0x08 => .ok (.zfms x)
  | 0x09 => .ok (.zmin x)
  | 0x0A => .ok (.zmax x)
  | 0x0B => .ok (.zabs x)
  | 0x0C => .ok (.zneg x)
  | 0x0D => .ok (.zrsqe x)
  | 0x0E => .ok (.zrsqs x)
  | 0x0F => .ok (.zcmp x)
  | 0x10 => .ok (.zsel x)
  | 0x11 => .ok (.zcvtn x)
  | 0x12 => .ok (.zcvtw x)
  | 0x13 => .ok (.zrow x)
  | 0x14 => .ok (.zplanes x)
  | 0x15 => .ok (.zrcpe x)
  | 0x16 => .ok (.zrcps x)
  | _ => .error .sillUnassigned

/-- The word of a Sill instruction; none for the other rows. -/
def Instr.sillWord? : Instr → Option Word
  | .znop x => some (x.word 0x00#5)
  | .zld x => some (x.word 0x01#5)
  | .zst x => some (x.word 0x02#5)
  | .zmov x => some (x.word 0x03#5)
  | .zadd x => some (x.word 0x04#5)
  | .zsub x => some (x.word 0x05#5)
  | .zmul x => some (x.word 0x06#5)
  | .zfma x => some (x.word 0x07#5)
  | .zfms x => some (x.word 0x08#5)
  | .zmin x => some (x.word 0x09#5)
  | .zmax x => some (x.word 0x0A#5)
  | .zabs x => some (x.word 0x0B#5)
  | .zneg x => some (x.word 0x0C#5)
  | .zrsqe x => some (x.word 0x0D#5)
  | .zrsqs x => some (x.word 0x0E#5)
  | .zcmp x => some (x.word 0x0F#5)
  | .zsel x => some (x.word 0x10#5)
  | .zcvtn x => some (x.word 0x11#5)
  | .zcvtw x => some (x.word 0x12#5)
  | .zrow x => some (x.word 0x13#5)
  | .zplanes x => some (x.word 0x14#5)
  | .zrcpe x => some (x.word 0x15#5)
  | .zrcps x => some (x.word 0x16#5)
  | _ => none

/-- The instruction that five words begin with, and its length in words: ILLOP decided in the order of R317. -/
def decode (w0 w1 w2 w3 w4 : Word) : Except DecodeError (Instr × Nat) :=
  let x := Enc.ofWords w0 w1 w2 w3 w4
  let fs := opForms x.op.toNat
  if fs = [] then .error .unassigned
  else if !fs.contains x.form then .error .formNotListed
  else if !subListed x.op.toNat x.sub then .error .subopNotListed
  else match Instr.ofEnc? x with
    | some i => .ok (i, x.form.words)
    | none => .error .unassigned

/-- The words of a Yalhel or Sill instruction, from the encoding tables (R304 to R326, R450); the other rows have none. -/
def encode (i : Instr) : List Word :=
  match i.enc? with
  | some x => x.words
  | none =>
    match i.sillWord? with
    | some w => [w]
    | none => []

/-- Word k of a number whose bit 0 is bit 0 of the first word. -/
def tableWord (w k : Nat) : Word := BitVec.ofNat 32 (w >>> (32 * k))

/-- The fields of the Yalhel instruction that a number begins with. -/
def tableEnc (w : Nat) : Enc := Enc.ofWords (tableWord w 0) (tableWord w 1) (tableWord w 2) (tableWord w 3) (tableWord w 4)

/-- Whether a number is read as a Sill word: Yalhel and Sill words stand in different programs, and a bare number is Sill when it is no well-formed Yalhel instruction and is a well-formed Sill word. -/
def sillFirst (w : Nat) : Bool :=
  let yalhel : Bool := match decode (tableWord w 0) (tableWord w 1) (tableWord w 2) (tableWord w 3) (tableWord w 4) with
    | .ok _ => (encFault 256 none (tableEnc w)).isNone
    | .error _ => false
  !yalhel && match decodeSill (tableWord w 0) with
    | .ok i => sillOk i none
    | .error _ => false

/-- The instruction that a number encodes, its bit 0 the lowest bit of the first word. -/
def decodeTableWord (_nbits w : Nat) : Option Instr :=
  if sillFirst w then (decodeSill (tableWord w 0)).toOption
  else match decode (tableWord w 0) (tableWord w 1) (tableWord w 2) (tableWord w 3) (tableWord w 4) with
    | .ok (i, _) => some i
    | .error _ => none

end Sys2Proof
end

