-- ==== Sys2Proof/Config.lean ====
section
/-! DEFINITION. What the spec leaves open: free values without a body, and the figures that fix this part. -/
namespace Sys2Proof.Config

/-- A free value of 64 bits, drawn by the counter State.free (log 5). -/
opaque freeValue : Nat → BitVec 64

/-- The CRC-64 over bytes 0 to 231 of a flit, of which R21 gives no polynomial (log 6). -/
opaque crc64 : List (BitVec 8) → BitVec 64

/-- The sixteen Reed-Solomon parity symbols of a flit's first 240 bytes, first symbol lowest, of which R21 gives no generator (log 6). -/
opaque fecParity : List (BitVec 8) → BitVec 128

/-- The payload of the link control flit that requests replay from a sequence number, of which R22 and R23 give no layout (log 71). -/
opaque replayPayload : BitVec 12 → List (BitVec 8)

/-- The code of the status BUSY_SLOT, which R38 names and gives no number (log 6). -/
opaque busySlot : BitVec 8

/-- The key hash that the fuses hold for a public key (R34, log 6). -/
opaque keyHash : List (BitVec 8) → List (BitVec 8)

/-- The body of an SPDM response but its content, as DMTF SPDM 1.3 lays it out and the spec does not (R36, R37, log 6): request code, request bytes, the signature and hash algorithms that are offered as the masks of SPDM, and the measurements by index. -/
opaque spdmBody : BitVec 8 → List (BitVec 8) → (signatures hashes : BitVec 32) → List (Nat × List (BitVec 8)) → List (BitVec 8)

/-- The boot ROM, which R37 measures and the spec does not give (log 6). -/
opaque bootRom : List (BitVec 8)

/-- The firmware that runs on a stack's base die, by the firmware image that booted (R37, log 6). -/
opaque baseFirmware : List (BitVec 8) → (stack : Nat) → List (BitVec 8)

/-- The Ridge link firmware that runs, by the firmware image that booted (R37, log 6). -/
opaque linkFirmware : List (BitVec 8) → List (BitVec 8)

/-- The reply to the sensor command of R38, whose layout the spec does not give (log 6): junction temperatures, power, and the energy counter of each context. -/
opaque sensorReply : (temps : List Nat) → (power : Nat) → (energies : List (BitVec 8 × Nat)) → List (BitVec 8)

/-- The MCTP transport header of a packet over Ridge or over the sideband, by its place in its message; the spec does not give the endpoint numbers in it (R39, log 34). -/
opaque mctpHeader : (ridge : Bool) → (packet : Nat) → BitVec 32

/-- The estimate of 1/sqrt(a) of R453 before its bound is applied: shape (true for bfloat16) and operand (log 8). -/
opaque rsqrtEstimate : Bool → BitVec 32 → BitVec 32

/-- The estimate of 1/a of R453 before its bound is applied: shape (true for bfloat16) and operand (log 8). -/
opaque rcpEstimate : Bool → BitVec 32 → BitVec 32

/-- The weight of an energy event class, which calibration sets (R284, log 9). -/
opaque energyWeight : Nat → Nat

/-- The measured static energy of a die in one microsecond (R284, log 9). -/
opaque staticEnergy : (die usec : Nat) → Nat

/-- Whether a unit passes its built-in test (R294, log 9): kind, number and the time of the test. -/
opaque selfTest : (kind number time : Nat) → Bool

end Sys2Proof.Config
end

