-- ==== Sys2Proof/Machine/Formats.lean ====
section
/-! DEFINITION. Number formats, rounding and overflow (R234 to R248). -/
namespace Sys2Proof.Machine

/-- An element format (R234), named by its code. -/
inductive Fmt where
  | f32 | f16 | bf16 | f64 | z8e4 | z8e5 | i8 | n8 | b4 | i32 | n32 | i16 | n16 | i64 | n64
deriving DecidableEq, Repr

/-- The format of a 4-bit code; code 15 is reserved (R234). -/
def Fmt.ofCode (c : BitVec 4) : Option Fmt :=
  match c.toNat with
  | 0 => some .f32 | 1 => some .f16 | 2 => some .bf16 | 3 => some .f64 | 4 => some .z8e4
  | 5 => some .z8e5 | 6 => some .i8 | 7 => some .n8 | 8 => some .b4 | 9 => some .i32
  | 10 => some .n32 | 11 => some .i16 | 12 => some .n16 | 13 => some .i64 | 14 => some .n64
  | _ => none

/-- Width of one element in bits (R234). -/
def Fmt.bits : Fmt → Nat
  | .f32 => 32 | .f16 => 16 | .bf16 => 16 | .f64 => 64 | .z8e4 => 8 | .z8e5 => 8 | .i8 => 8
  | .n8 => 8 | .b4 => 4 | .i32 => 32 | .n32 => 32 | .i16 => 16 | .n16 => 16 | .i64 => 64 | .n64 => 64

/-- A value before rounding: NaN, an infinity, or (-1)^neg * m * 2^e, whose sign is kept at zero. -/
inductive Num where
  | nan
  | inf (neg : Bool)
  | fin (neg : Bool) (m : Nat) (e : Int)
deriving DecidableEq, Repr

/-- A floating format: p significand bits, the exponent kmin of its smallest step, the first code magnitude past its largest finite value, its width, and whether it has infinity and NaN (R235, R237). -/
structure FloatFmt where
  p : Nat
  kmin : Int
  top : Nat
  width : Nat
  ieee : Bool
deriving DecidableEq, Repr

def ffF32 : FloatFmt := ⟨24, -149, 0x7F800000, 32, true⟩
def ffF16 : FloatFmt := ⟨11, -24, 0x7C00, 16, true⟩
def ffBF16 : FloatFmt := ⟨8, -133, 0x7F80, 16, true⟩
def ffF64 : FloatFmt := ⟨53, -1074, 0x7FF0000000000000, 64, true⟩
def ffZ8E4 : FloatFmt := ⟨4, -9, 0x80, 8, false⟩
def ffZ8E5 : FloatFmt := ⟨3, -16, 0x80, 8, false⟩

/-- The floating layout of a format, if it has one. -/
def Fmt.float? : Fmt → Option FloatFmt
  | .f32 => some ffF32 | .f16 => some ffF16 | .bf16 => some ffBF16 | .f64 => some ffF64
  | .z8e4 => some ffZ8E4 | .z8e5 => some ffZ8E5 | _ => none

/-- The range of an integer format (R238). -/
def Fmt.intRange : Fmt → Option (Int × Int)
  | .i8 => some (-128, 127) | .n8 => some (0, 255)
  | .i16 => some (-32768, 32767) | .n16 => some (0, 65535)
  | .i32 => some (-2147483648, 2147483647) | .n32 => some (0, 4294967295)
  | .i64 => some (-9223372036854775808, 9223372036854775807) | .n64 => some (0, 18446744073709551615)
  | _ => none

/-- m * 2^k for an exponent that may be negative, as a natural number scaled by 2^-base. -/
def scaleTo (m : Nat) (e base : Int) : Nat := m <<< (e - base).toNat

/-- The canonical quiet NaN of a floating format (R236). -/
def FloatFmt.canonNaN (f : FloatFmt) : Nat := f.top + (1 <<< (f.p - 2))

/-- The value that a code of a floating format stands for (R235, R237). -/
def FloatFmt.decode (f : FloatFmt) (code : Nat) : Num :=
  let neg := code.testBit (f.width - 1)
  let mag := code % 2 ^ (f.width - 1)
  if mag < f.top then
    let ef := mag >>> (f.p - 1)
    let fr := mag % 2 ^ (f.p - 1)
    if ef = 0 then .fin neg fr f.kmin else .fin neg (fr + 2 ^ (f.p - 1)) (f.kmin + ef - 1)
  else if mag = f.top then .inf neg else .nan

/-- The value of an integer read at a signed or unsigned width. -/
def Num.ofInt (i : Int) : Num := .fin (i < 0) i.natAbs 0

/-- The value of an integer code (R238). -/
def intOfCode (lo hi : Int) (bits code : Nat) : Int :=
  if lo < 0 ∧ hi < (code % 2 ^ bits : Nat) then (code % 2 ^ bits : Nat) - (2 ^ bits : Nat) else (code % 2 ^ bits : Nat)

/-- The value of a code in any format but a block (R374). -/
def Fmt.decode (f : Fmt) (code : Nat) : Num :=
  match f.float? with
  | some ff => ff.decode (code % 2 ^ ff.width)
  | none =>
    match f.intRange with
    | some (lo, hi) => .ofInt (intOfCode lo hi f.bits code)
    | none => .nan

/-- Rounding modes (R242). -/
inductive RMode where
  | rn | rna | rz | ru | rd | sr
deriving DecidableEq, Repr

/-- The mode of a 3-bit code; 0b110 and 0b111 are reserved (R242). -/
def RMode.ofCode (c : BitVec 3) : Option RMode :=
  match c.toNat with
  | 0 => some .rn | 1 => some .rna | 2 => some .rz | 3 => some .ru | 4 => some .rd | 5 => some .sr | _ => none

/-- Overflow policies (R245). -/
inductive Ovp where
  | sat | inf | nan | trap
deriving DecidableEq, Repr

def Ovp.ofCode (c : BitVec 2) : Ovp :=
  match c.toNat with
  | 0 => .sat | 1 => .inf | 2 => .nan | _ => .trap

/-- One step of the stochastic-rounding state (R244). -/
def seedStep (x0 : Word) : Word :=
  let x := if x0 = 0#32 then 1#32 else x0
  let x := x ^^^ (x <<< 13)
  let x := x ^^^ (x >>> 17)
  x ^^^ (x <<< 5)

/-- Whether a magnitude x between grid magnitudes a and b goes to b (R243). All three carry one scale; aOdd is the parity of a; r is seed[23:0] after the step. -/
def roundsUp (mode : RMode) (neg : Bool) (x a b : Nat) (aOdd : Bool) (r : Nat) : Bool :=
  match mode with
  | .rn => if 2 * x = a + b then aOdd else decide (a + b < 2 * x)
  | .rna => decide (a + b ≤ 2 * x)
  | .rz => false
  | .ru => !neg
  | .rd => neg
  | .sr => decide (2 ^ 24 ≤ (x - a) * 2 ^ 24 / (b - a) + r)

/-- The magnitude code that m * 2^e rounds to, before the overflow check (R243). The code of q * 2^k is (k - kmin) * 2^(p-1) + q, and it runs on past the largest finite value with the step of the format's last binade or more, so a code at or above top is an overflow. -/
def FloatFmt.roundMag (f : FloatFmt) (mode : RMode) (neg : Bool) (m : Nat) (e : Int) (r : Nat) : Nat :=
  if m = 0 then 0 else
  let k := max f.kmin ((Nat.log2 m : Int) + e - (f.p : Int) + 1)
  let base := min e k
  let x := scaleTo m e base
  let step := scaleTo 1 k base
  let q := x / step
  let up := decide (x % step ≠ 0) && roundsUp mode neg x (q * step) ((q + 1) * step) (q % 2 = 1) r
  (k - f.kmin).toNat * 2 ^ (f.p - 1) + (if up then q + 1 else q)

/-- The sign bit of a floating format set or clear over a magnitude code. -/
def FloatFmt.withSign (f : FloatFmt) (neg : Bool) (mag : Nat) : Nat := (if neg then 2 ^ (f.width - 1) else 0) + mag

/-- What a conversion gives for one element: the code, the conversion flag and whether policy 0b11 traps (R245, R246). -/
structure Conv where
  code : Nat
  flag : Bool := false
  trap : Bool := false
deriving DecidableEq, Repr

/-- An overflow into an IEEE format (R245, and R364 for SR). -/
def FloatFmt.overflowIeee (f : FloatFmt) (mode : RMode) (ovp : Ovp) (neg : Bool) : Conv :=
  match ovp with
  | .sat => ⟨f.withSign neg (f.top - 1), false, false⟩
  | .inf =>
    let toMax := match mode with
      | .rz => true
      | .rd => !neg
      | .ru => neg
      | _ => false
    ⟨f.withSign neg (if toMax then f.top - 1 else f.top), false, false⟩
  | .nan => ⟨f.canonNaN, false, false⟩
  | .trap => ⟨0, false, true⟩

/-- An overflow into a format without infinity and NaN (R245): saturation, reported by the flag under policies 0b01 and 0b10. -/
def overflowPlain (ovp : Ovp) (satCode : Nat) : Conv :=
  match ovp with
  | .sat => ⟨satCode, false, false⟩
  | .inf | .nan => ⟨satCode, true, false⟩
  | .trap => ⟨0, false, true⟩

/-- Rounding of a value into a floating format (R243, R245, R246). -/
def FloatFmt.conv (f : FloatFmt) (mode : RMode) (ovp : Ovp) (x : Num) (r : Nat) : Conv :=
  match x with
  | .nan =>
    if f.ieee then ⟨f.canonNaN, false, false⟩
    else if ovp = .trap then ⟨0, false, true⟩ else ⟨0, true, false⟩
  | .inf neg =>
    if f.ieee then ⟨f.withSign neg f.top, false, false⟩
    else overflowPlain ovp (f.withSign neg (f.top - 1))
  | .fin neg m e =>
    let mag := f.roundMag mode neg m e r
    if mag < f.top then ⟨f.withSign neg mag, false, false⟩
    else if f.ieee then f.overflowIeee mode ovp neg
    else overflowPlain ovp (f.withSign neg (f.top - 1))

/-- The integer that a finite value rounds to, before the range check (R243). -/
def roundInt (mode : RMode) (neg : Bool) (m : Nat) (e : Int) (r : Nat) : Int :=
  let base := min e 0
  let x := scaleTo m e base
  let step := scaleTo 1 0 base
  let q := x / step
  let up := decide (x % step ≠ 0) && roundsUp mode neg x (q * step) ((q + 1) * step) (q % 2 = 1) r
  let y : Nat := if up then q + 1 else q
  if neg then -(y : Int) else y

/-- An integer as a code of the given width. -/
def intCode (bits : Nat) (i : Int) : Nat := (i % (2 ^ bits : Nat)).toNat

/-- Rounding of a value into an integer format (R243, R245, R246). -/
def convInt (bits : Nat) (lo hi : Int) (mode : RMode) (ovp : Ovp) (x : Num) (r : Nat) : Conv :=
  match x with
  | .nan => if ovp = .trap then ⟨0, false, true⟩ else ⟨0, true, false⟩
  | .inf neg => overflowPlain ovp (intCode bits (if neg then lo else hi))
  | .fin neg m e =>
    let y := roundInt mode neg m e r
    if y < lo then overflowPlain ovp (intCode bits lo)
    else if hi < y then overflowPlain ovp (intCode bits hi)
    else ⟨intCode bits y, false, false⟩

/-- Rounding of a value into any format but a block (R374). -/
def Fmt.conv (f : Fmt) (mode : RMode) (ovp : Ovp) (x : Num) (r : Nat) : Conv :=
  match f.float? with
  | some ff => ff.conv mode ovp x r
  | none =>
    match f.intRange with
    | some (lo, hi) => convInt f.bits lo hi mode ovp x r
    | none => ⟨0, false, false⟩

/-- round_rn of R248: mode RN and policy 0b01. -/
def FloatFmt.roundRn (f : FloatFmt) (x : Num) : Nat := (f.conv .rn .inf x 0).code

/-! ### Exact arithmetic (R236, R364) -/

def Num.isNaN : Num → Bool
  | .nan => true
  | _ => false

def Num.neg? : Num → Bool
  | .nan => false
  | .inf n => n
  | .fin n _ _ => n

/-- The value with its sign inverted; a NaN stays NaN. -/
def Num.negate : Num → Num
  | .nan => .nan
  | .inf n => .inf (!n)
  | .fin n m e => .fin (!n) m e

def Num.abs : Num → Num
  | .nan => .nan
  | .inf _ => .inf false
  | .fin _ m e => .fin false m e

def Num.isZero : Num → Bool
  | .fin _ 0 _ => true
  | _ => false

/-- The exact product under IEEE 754-2019 (R236): infinity times zero is NaN. -/
def Num.mul : Num → Num → Num
  | .nan, _ => .nan
  | _, .nan => .nan
  | .inf s, .inf t => .inf (s != t)
  | .inf s, .fin t m _ => if m = 0 then .nan else .inf (s != t)
  | .fin s m _, .inf t => if m = 0 then .nan else .inf (s != t)
  | .fin s m e, .fin t n f => .fin (s != t) (m * n) (e + f)

/-- The exact sum; an exact zero from opposite signs is -0 under RD and +0 otherwise (R364). -/
def Num.add (mode : RMode) : Num → Num → Num
  | .nan, _ => .nan
  | _, .nan => .nan
  | .inf s, .inf t => if s = t then .inf s else .nan
  | .inf s, .fin _ _ _ => .inf s
  | .fin _ _ _, .inf t => .inf t
  | .fin s m e, .fin t n f =>
    let base := min e f
    let x := scaleTo m e base
    let y := scaleTo n f base
    if s = t then .fin s (x + y) base
    else if x = y then .fin (mode = .rd) 0 base
    else if y < x then .fin s (x - y) base
    else .fin t (y - x) base

/-- x * y + z, exact (R365). Infinity times zero gives NaN even when z is NaN. -/
def Num.fma (mode : RMode) (x y z : Num) : Num := Num.add mode (x.mul y) z

/-- x times a power of two. -/
def Num.scale (x : Num) (k : Int) : Num :=
  match x with
  | .fin s m e => .fin s m (e + k)
  | y => y

/-- Comparison of two values that are not NaN, with -0 equal to +0. -/
def Num.cmp : Num → Num → Ordering
  | .inf s, .inf t => if s = t then .eq else if s then .lt else .gt
  | .inf s, _ => if s then .lt else .gt
  | _, .inf t => if t then .gt else .lt
  | .fin s m e, .fin t n f =>
    let base := min e f
    let x : Int := if s then -(scaleTo m e base : Int) else scaleTo m e base
    let y : Int := if t then -(scaleTo n f base : Int) else scaleTo n f base
    compare x y
  | _, _ => .eq

/-- The bits of x + y, x * y or x * y + z rounded once into a floating format by a mode (R364): overflow follows policy 0b01. -/
def FloatFmt.round (f : FloatFmt) (mode : RMode) (x : Num) (r : Nat) : Nat := (f.conv mode .inf x r).code

/-- Lesser or greater of two codes of a floating format under R366: -0 is less than +0, one NaN gives the other operand, two give the canonical NaN. -/
def FloatFmt.minmax (f : FloatFmt) (wantMax : Bool) (a b : Nat) : Nat :=
  let x := f.decode a
  let y := f.decode b
  if x.isNaN then (if y.isNaN then f.canonNaN else b)
  else if y.isNaN then a
  else
    let aLess : Bool := match x.cmp y with
      | .lt => true
      | .gt => false
      | .eq => x.neg?
    if wantMax then (if aLess then b else a) else (if aLess then a else b)

/-- The bits of a floating format with the sign cleared or inverted, a NaN made canonical (R365). -/
def FloatFmt.absCode (f : FloatFmt) (a : Nat) : Nat := if (f.decode a).isNaN then f.canonNaN else a % 2 ^ (f.width - 1)
def FloatFmt.negCode (f : FloatFmt) (a : Nat) : Nat :=
  if (f.decode a).isNaN then f.canonNaN
  else if a.testBit (f.width - 1) then a % 2 ^ (f.width - 1) else a + 2 ^ (f.width - 1)

/-- The comparisons of R367; the sub-operation runs from 0 eq to 7 unordered. -/
def Num.fcmp (sub : Nat) (x y : Num) : Bool :=
  if x.isNaN || y.isNaN then (sub = 1 ∨ sub = 7)
  else match sub with
    | 0 => x.cmp y = .eq
    | 1 => x.cmp y ≠ .eq
    | 2 => x.cmp y = .lt
    | 3 => x.cmp y ≠ .gt
    | 4 => x.cmp y = .gt
    | 5 => x.cmp y ≠ .lt
    | 6 => true
    | _ => false

/-! ### The 4-bit block family (R239 to R241, R247) -/

/-- The code values of a block type before scaling, in units of 2^-unit (R240). -/
def blockMags (ty : Nat) : List Nat × Int :=
  match ty with
  | 0 => ([0, 1, 2, 3, 4, 5, 6, 7, 8], 0)
  | 1 => ([0, 1, 2, 3, 4, 6, 8, 12], -1)
  | 2 => ([0, 1, 2, 4, 8, 16, 32, 64], -6)
  | _ => ([0, 1, 2, 3, 4, 8, 16, 32], -2)

/-- The value of a 4-bit code under a scale byte (R240). -/
def blockValue (scale : BitVec 8) (code : BitVec 4) : Num :=
  let sexp := (scale.extractLsb' 0 6).toNat
  let ty := (scale.extractLsb' 6 2).toNat
  if sexp = 63 then .nan
  else
    let k : Int := (sexp : Int) - 31
    if ty = 0 then
      if code.msb then .fin true (16 - code.toNat) k else .fin false code.toNat k
    else
      let (mags, unit) := blockMags ty
      .fin code.msb (mags.getD (code.toNat % 8) 0) (unit + k)

/-- The factor that a scale byte gives an 8-bit element: none for the block NaN (R241). -/
def scale8 (scale : BitVec 8) : Option Int :=
  if scale.extractLsb' 6 2 ≠ 0#2 then none
  else if (scale.extractLsb' 0 6).toNat = 63 then none
  else some ((scale.extractLsb' 0 6).toNat - 31)

/-- The extended grid magnitudes of a block type for one sign: the code magnitudes with one value beyond the end (R243). -/
def blockGrid (ty : Nat) (neg : Bool) : List Nat :=
  match ty with
  | 0 => if neg then [0, 1, 2, 3, 4, 5, 6, 7, 8, 9] else [0, 1, 2, 3, 4, 5, 6, 7, 8]
  | 1 => [0, 1, 2, 3, 4, 6, 8, 12, 16]
  | 2 => [0, 1, 2, 4, 8, 16, 32, 64, 96]
  | _ => [0, 1, 2, 3, 4, 8, 16, 32, 48]

/-- The index of the greatest grid magnitude at or below x (both scaled by one unit). -/
def gridIndex (grid : List Nat) (unit x : Nat) : Nat :=
  (grid.filter (fun g => g * unit ≤ x)).length - 1

/-- A finite value rounded onto the scaled grid of a block type: the index into blockGrid (R243, R247). -/
def blockRound (ty : Nat) (k : Int) (mode : RMode) (neg : Bool) (m : Nat) (e : Int) (r : Nat) : Nat :=
  let grid := blockGrid ty neg
  let u := (blockMags ty).2 + k
  let base := min e u
  let x := scaleTo m e base
  let unit := scaleTo 1 u base
  let i := gridIndex grid unit x
  if i + 1 < grid.length then
    let a := grid.getD i 0 * unit
    let b := grid.getD (i + 1) 0 * unit
    if x = a then i else if roundsUp mode neg x a b (i % 2 = 1) r then i + 1 else i
  else i

/-- One element of a block: its code and report (R245, R246, R247). Policy 0b10 is decided for the block. -/
structure BlockElem where
  code : BitVec 4
  flag : Bool := false
  overflowed : Bool := false
deriving DecidableEq, Repr

/-- The code of a grid index: its sign and magnitude, or for Q4 its two's complement (R240). -/
def blockCode (ty : Nat) (neg : Bool) (i : Nat) : BitVec 4 :=
  if ty = 0 then (if neg then BitVec.ofNat 4 (16 - i) else BitVec.ofNat 4 i)
  else (if neg then BitVec.ofNat 4 (8 + i) else BitVec.ofNat 4 i)

/-- The largest grid index that has a code. -/
def blockLast (ty : Nat) (neg : Bool) : Nat := if ty = 0 ∧ neg then 8 else 7

def blockElem (ty : Nat) (k : Int) (mode : RMode) (ovp : Ovp) (x : Num) (r : Nat) : BlockElem :=
  let satFlag := ovp = .inf
  match x with
  | .nan => ⟨0#4, ovp ≠ .nan ∧ ovp ≠ .trap, true⟩
  | .inf neg => ⟨blockCode ty neg (blockLast ty neg), satFlag, true⟩
  | .fin neg m e =>
    let i := blockRound ty k mode neg m e r
    if blockLast ty neg < i then ⟨blockCode ty neg (blockLast ty neg), satFlag, true⟩
    else ⟨blockCode ty neg i, false, false⟩

/-- The block maximum Mt of R247 with the unit of its type. -/
def blockMt (ty : Nat) : Nat × Int :=
  match ty with
  | 0 => (7, 0)
  | 1 => (12, -1)
  | 2 => (64, -6)
  | _ => (32, -2)

/-- ceil(log2(x / y)) for positive x = m * 2^e and y = n * 2^f. -/
def ceilLog2 (m : Nat) (e : Int) (n : Nat) (f : Int) : Int :=
  let base := min e f
  let x := scaleTo m e base
  let y := scaleTo n f base
  let d : Int := (Nat.log2 x : Int) - Nat.log2 y
  let le (t : Int) : Bool := if 0 ≤ t then x ≤ y <<< t.toNat else x <<< (-t).toNat ≤ y
  if le (d - 1) then d - 1 else if le d then d else d + 1

/-- The greater of two finite magnitudes, as (m, e). -/
def maxMag (a b : Nat × Int) : Nat × Int :=
  let base := min a.2 b.2
  if scaleTo a.1 a.2 base < scaleTo b.1 b.2 base then b else a

/-- SEXP of a block (R247). -/
def blockSexp (ty : Nat) (xs : List Num) : Nat :=
  let amax := xs.foldl (fun acc x => match x with
    | .fin _ m e => maxMag acc (m, e)
    | _ => acc) ((0 : Nat), (0 : Int))
  if amax.1 = 0 then 0
  else
    let mt := blockMt ty
    let t := ceilLog2 amax.1 amax.2 mt.1 mt.2 + 31
    (max 0 (min 62 t)).toNat

/-- A whole block from 32 values (R247): codes, scale byte, flags, and the elements that overflowed or were not finite. -/
structure Block where
  codes : List (BitVec 4)
  scale : BitVec 8
  flags : List Bool
  overflowed : List Bool
deriving DecidableEq, Repr

/-- The encoding of 32 values with the draws of their lanes (R247). -/
def encodeBlock (ty : Nat) (mode : RMode) (ovp : Ovp) (xs : List Num) (rs : List Nat) : Block :=
  let sexp := blockSexp ty xs
  let es := (xs.zip rs).map fun (x, r) => blockElem ty ((sexp : Int) - 31) mode ovp x r
  let overflowed := es.map (·.overflowed)
  if ovp = .nan ∧ overflowed.any id then
    ⟨es.map fun _ => 0#4, BitVec.ofNat 2 ty ++ 63#6, es.map fun _ => false, overflowed⟩
  else
    ⟨es.map (·.code), BitVec.ofNat 2 ty ++ BitVec.ofNat 6 sexp, es.map (·.flag), overflowed⟩

end Sys2Proof.Machine
end

