-- ==== Sys2Proof/Machine/State.lean ====
section
/-! DEFINITION. The state of one Z9 as plain data, and the state after reset. Field comments name the rule that gives the field; reset values that no rule gives are those of log 2. -/
namespace Sys2Proof.Machine

/-- Memory as sorted (address, byte) pairs; an unlisted address reads as 0 (log 1). -/
abbrev Memory := List Host.Cell

/-! ### Translation and caches -/

/-- A leaf of the page table as a walk found it (R183). -/
structure Leaf where
  base : Nat
  size : Nat
  remote : Option (BitVec 10)
  movable : Bool
  sill : Bool
  exec : Bool
  write : Bool
  read : Bool
deriving DecidableEq, Repr

/-- A cached translation (R186): context, first virtual address, leaf. -/
structure TlbEntry where
  ctx : BitVec 8
  va : Nat
  leaf : Leaf
deriving DecidableEq, Repr

/-- A cached table entry of levels 4 to 1 (R186): its context, level, virtual base and the table it points at. -/
structure WalkEntry where
  ctx : BitVec 8
  level : Nat
  va : Nat
  table : Nat
deriving DecidableEq, Repr

/-- A global line in an L1 (R199, R200, R210): physical line, lease expiry, replacement class, last use, prefetch mark, the copy. -/
structure L1Line where
  line : Nat
  expiry : Nat
  cls : Nat
  used : Nat
  prefetched : Bool
  late : Bool
  data : List Byte
deriving DecidableEq, Repr

/-- A line in an L2 (R200, R202, R204, R211, R212): the context and page it carries, dirty mark, class, last use, lease length, E1 with C1, E2, and the cores granted since the last write. -/
structure L2Line where
  line : Nat
  ctx : BitVec 8
  page : Nat
  dirty : Bool
  cls : Nat
  used : Nat
  len : Nat
  e1 : Nat
  c1 : Option Nat
  e2 : Nat
  fresh : List Nat
deriving DecidableEq, Repr

/-- A line of a constant or instruction cache (R195), by physical line; a line of a peer has the peer's number above bit 48, and the status of a request that a peer refused. -/
structure CacheLine where
  line : Nat
  data : List Byte
  err : BitVec 8
deriving DecidableEq, Repr

/-! ### Groups -/

/-- State of a strand (R126, R127). -/
inductive StrandState where
  | ready | waiting | parked | ended
deriving DecidableEq, Repr

/-- What a parked strand waits for (R127, R165, R157, R168, R198). -/
inductive Park where
  | waitany (set : BitVec 16) (win : Nat) (ofs : Nat) (pc : DWord)
  | barrier (num : Nat) (phase : Bool)
  | recv (mb : Nat) (d : BitVec 8)
  | granule (load : Nat)
deriving DecidableEq, Repr

/-- Scopes (R312, R217). -/
inductive Scope where
  | strand | group | team | core | bent | device | system
deriving DecidableEq, Repr

/-- A release in wait (R218, R220): its scope, the lanes covered, the marks that bound the covered store entries and acknowledgements, the range of a FENCER, and whether it is done. -/
structure RelWait where
  scope : Scope
  lanes : Mask
  entryMark : Nat
  ackMark : Nat
  range : Option (Nat × Nat)
  fence : Bool
  /-- the device time to wait for, once every covered part has reached its point -/
  until_ : Option Nat
  done : Bool
deriving DecidableEq, Repr

/-- The release that an engine's acquire waits for, on behalf of the strand that issued the command (R227). -/
structure AcqWait where
  g : GroupRef
  sid : Nat
  rel : RelWait
deriving DecidableEq, Repr

/-- An entry of the strand table (R126) with the strand's own waits. -/
structure Strand where
  valid : Bool
  pc : DWord
  mask : Mask
  taken : Mask
  order : List (BitVec 2)
  state : StrandState
  arm : Bool
  parent : BitVec 5
  evn : BitVec 5
  folds : Nat
  vset : BitVec 256
  pset : BitVec 8
  priv : Vector DWord 4
  /-- why it is parked -/
  park : Option Park
  /-- KIND and OBJ of the wait of R173 that it is in, as R175 lays them out; 0 for none -/
  why : DWord
  /-- what holds it may have ended: a waiting strand counts as ready until its next instruction is found held again (R127, log 3) -/
  look : Bool
  /-- the last cycle in which it was not ready or issued, moved on by the idle cycles of R148 (R145) -/
  readyAt : Nat
  /-- skips left of the last return: one flag per following instruction (R151, R275) -/
  skips : List Bool
  /-- issue cycles left in which YIELD makes it the latest strand (R356) -/
  yieldFor : Nat
  /-- the release in wait (R220) -/
  rel : Option RelWait
  /-- it has returned from a barrier-spill trap and waits without a second one (R160) -/
  spilled : Bool
  /-- its BARARW has arrived, and executed again after a dead-wait trap it only waits (R173, log 84) -/
  arrived : Bool
  /-- registers and predicates it has sealed while a write to them is in flight (R134) -/
  vseal : BitVec 256
  pseal : BitVec 8
  /-- lanes whose threads a waiting SPAWN has placed (R110), or whose pages a waiting TOUCH has dealt with (R189) -/
  placed : Mask
deriving DecidableEq, Repr

/-- A fold record (R132) with the strand that holds it. -/
structure FoldRec where
  sid : Nat
  jpc : DWord
  tmask : Mask
  nmask : Mask
  phase : Bool
  npc : DWord
  fvset : BitVec 256
  fpset : BitVec 8
deriving DecidableEq, Repr

/-- A slide descriptor (R384). -/
structure Slide where
  bound : Bool
  op : Nat
  uns : Bool
  base : Nat
  cap : Nat
  win : Nat
  n : Nat
  nout : Nat
  head : Nat
  pushes : Word
deriving DecidableEq, Repr

/-- An event binding (R162). -/
structure Binding where
  kind : BitVec 2
  spent : Bool
  obj : BitVec 6
  val : Word
deriving DecidableEq, Repr

/-- Where one lane's access goes, once checked (R176, R179, R185, R197): bytes of device memory (one address per 4-byte word for the stack), a peer, a member's scratch, or a non-resident page. -/
inductive Target where
  | phys (va pa : Nat)
  | stack (words : List Nat)
  | remote (peer : BitVec 10) (va pa : Nat)
  | scratch (member offset : Nat)
  | nonres
deriving DecidableEq, Repr

/-- The operator of an atomic (R403, R404). -/
inductive AtomOp where
  | add | minS | minU | maxS | maxU | and | or | xor | xchg | fadd | cas
deriving DecidableEq, Repr

/-- One lane's part of a store (R141). -/
structure StorePart where
  lane : Nat
  target : Target
  data : List Byte
  released : Bool
deriving DecidableEq, Repr

/-- An entry of the ordered store buffer (R141), which holds its entries in the order of that rule: a vector store has one write for each part, a scalar store one write for all. -/
structure StoreEntry where
  id : Nat
  sid : Nat
  /-- the order position of its strand at its issue, less what collapses took since (R128) -/
  order : List (BitVec 2)
  setFull : Bool
  scalar : Bool
  /-- its parts are those of an atomic, which the load record performs -/
  atomic : Bool
  cache : BitVec 2
  parts : List StorePart
deriving DecidableEq, Repr

/-- A released part whose acknowledgement is outstanding (R219): line by virtual address bits [56:7], completion time, and the tag of a remote write. -/
structure Ack where
  id : Nat
  sid : Nat
  lane : Nat
  entry : Nat
  global : Bool
  line : Nat
  time : Nat
  tag : Option Nat
  /-- lines that a Sill run held when the part was applied, so that the acknowledgement waits for the run (R230) -/
  held : List Nat
  /-- it stands for every lane of its entry: a scalar store or an ATOMAGG (R402, R406) -/
  once : Bool
deriving DecidableEq, Repr

/-- How far one lane of a load or atomic has come (R143, R198). -/
inductive PartState where
  | gated
  | remote (tag : Nat)
  /-- its peer refused it (R185) -/
  | failed
  | done (data : List Byte) (nonres : Bool)
  | returned
deriving DecidableEq, Repr

/-- One lane's part of a load or atomic: for an atomic, its operand and compare value. -/
structure LoadPart where
  lane : Nat
  target : Target
  st : PartState
  operand : Nat
  compare : Nat
  /-- the cycle in which a `.fec` access arrived at an empty granule (R198) -/
  arrived : Option Nat
deriving DecidableEq, Repr

/-- Where a load's data goes (R397). -/
inductive LoadDest where
  | vector (d width : Nat) (sign : Bool)
  | scalar (d : BitVec 8) (width : Nat) (sign : Bool)
  | atomic (d width : Nat)
  /-- an ATOMAGG (R406): its lanes with their operands -/
  | agg (d width : Nat) (xs : List (Nat × Nat))
  /-- the remote parts of a store, which write no register -/
  | store
deriving DecidableEq, Repr

/-- A load or atomic in flight (R143, R149): its strand, window, qualifiers, flag predicate (none for LDK), lanes. -/
structure Load where
  id : Nat
  sid : Nat
  la : Nat
  issuedAfter : Nat
  dest : LoadDest
  fe : Nat
  flag : Option Nat
  acq : Bool
  nc : Bool
  cache : BitVec 2
  op : Option AtomOp
  pc : DWord
  /-- MASK of its strand at its issue -/
  mask : Mask
  parts : List LoadPart
deriving DecidableEq, Repr

/-- A long-latency arithmetic result in flight (R149): registers and values by lane. -/
structure LongOp where
  id : Nat
  sid : Nat
  la : Nat
  issuedAfter : Nat
  mask : Mask
  writes : List (Nat × Lanes)
deriving DecidableEq, Repr

/-- A mark of a matrix pass on a register (R261): pending, or held when not. -/
structure Mark where
  reg : Nat
  pending : Bool
  pass : Nat
deriving DecidableEq, Repr

/-- One strand's entry of the fault record (R271). -/
structure FaultEntry where
  pc : DWord
  cause : BitVec 8
  la : BitVec 4
  shadow : BitVec 15
  lanes : Mask
  faddr : DWord
  lcause : BitVec 128
  detail : DWord
deriving DecidableEq, Repr

/-- An issued instruction that does not pass its fault checks and whose fault has not been raised yet (R151, R272): its strand, how many instructions have issued after it, its destinations, its lanes, and the entry that the record takes. -/
structure Failing where
  id : Nat
  sid : Nat
  issuedAfter : Nat
  wv : List Nat
  wp : List Nat
  ws : List Nat
  mask : Mask
  entry : FaultEntry
  /-- the fault has been raised -/
  raised : Bool
deriving DecidableEq, Repr

/-- A snapshot of a strand-table entry (R271 TREE). -/
structure TreeEntry where
  word : DWord
  mask : Mask
  order : Word
deriving DecidableEq, Repr

/-- The fault record (R271). -/
structure FaultRecord where
  fset : BitVec 16
  gcause : BitVec 8
  primary : BitVec 4
  time : DWord
  faults : Vector FaultEntry 16
  tree : Vector TreeEntry 16
  waits : Vector DWord 16
deriving DecidableEq, Repr

/-- How far the group's trap has come (R272, R273). -/
inductive TrapPhase where
  | none | draining | handling
deriving DecidableEq, Repr

/-- A range-table entry (R219). -/
structure RtEntry where
  valid : Bool
  line : Nat
  time : Nat
deriving DecidableEq, Repr

/-- A group (R120): registers, strand table, memory and event state. -/
structure Group where
  /-- $gidx (R93, R123) -/
  gidx : Nat
  /-- $role (R93) -/
  role : Nat
  /-- vector registers of the role (R121) -/
  vregs : Nat
  /-- stack index (R178) -/
  stackIdx : Nat
  /-- cycle of commit or spawn (R145) -/
  born : Nat
  /-- vector registers v0 to v255, a word per lane (R120, R121) -/
  v : Vector Lanes 256
  /-- $seed of each lane (R125) -/
  seed : Lanes
  /-- scalars s0 to s155 (R122) -/
  s : Vector DWord 156
  /-- predicates p0 to p7 (R124) -/
  p : Vector Mask 8
  /-- the strand table (R126) -/
  strands : Vector Strand 16
  /-- fold records, oldest first (R132) -/
  folds : List FoldRec
  /-- slide descriptors w0 to w7 (R384) -/
  slides : Vector Slide 8
  /-- bindings of the event slots (R162) -/
  events : Vector Binding 16
  /-- pending slots (R162) -/
  pe : BitVec 16
  /-- slots set that have not been offered to parked strands: those of a saved team wait for its return (R166, R108) -/
  offers : BitVec 16
  /-- masked slots (R162) -/
  em : BitVec 16
  /-- the ordered store buffer (R141) -/
  sb : List StoreEntry
  /-- released parts that are not acknowledged, of which UNACK is the number (R219) -/
  acks : List Ack
  /-- WMAX (R219) -/
  wmax : Nat
  /-- RT0 to RT15 (R219) -/
  rt : Vector RtEntry 16
  /-- OMAX (R219) -/
  omax : Nat
  /-- OVF (R219) -/
  ovf : Bool
  /-- loads and atomics in flight (R143, R149) -/
  loads : List Load
  /-- results in flight of long-latency instructions (R149) -/
  longs : List LongOp
  /-- issued accesses whose fault has not been raised (R151, log 41) -/
  failing : List Failing
  /-- pending and held marks of matrix passes (R261) -/
  marks : List Mark
  /-- the model's own: the next number of an entry -/
  nextId : Nat
  /-- the fault record (R271) -/
  record : FaultRecord
  /-- whether a trap is open, and how far (R272, R273) -/
  trap : TrapPhase
  /-- cycle at which it opened (R152) -/
  trapAt : Nat
  /-- strand entries whose PC STRLOAD changed, or that STRLOAD ended (R275, R437) -/
  repc : BitVec 16
  /-- the handler strand (R273) -/
  handler : Option Strand
  /-- supervisor registers s144 to s155 (R273) -/
  sup : Vector DWord 12
  /-- base of the handler image (R273) -/
  hbase : Nat
  /-- its size (R273) -/
  hsize : Nat
  /-- lanes that have left (R136) -/
  gone : Mask
  /-- the fairness timer (R146) -/
  fair : Nat
  /-- issue cycles left of a priority (R146) -/
  fairFor : Nat
  /-- the strand that has it (R146) -/
  fairSid : Nat
  /-- the strand of the last issue that the timer counted (R146) -/
  fairLast : Nat
  /-- ticks that the watchdog has counted (R174) -/
  watch : Nat
  /-- a debug stop has been requested (R283) -/
  dbg : Bool
  /-- every lane has left (R136) -/
  ended : Bool
deriving DecidableEq, Repr

/-! ### Teams, bents, grids -/

/-- A role of the launch packet (R59). -/
structure Role where
  groups : Nat
  vregs : Nat
  spawn : Bool
deriving DecidableEq, Repr

/-- A constant window (R59): last word index, base address, VALID. -/
structure Window where
  len : Nat
  base : Nat
  valid : Bool
deriving DecidableEq, Repr

/-- A receiver that parked on a mailbox (R168). -/
structure Waiter where
  mb : Nat
  gidx : Nat
  sid : Nat
deriving DecidableEq, Repr

/-- The parts a signature supplies (R430), with the group that signed. -/
structure Signature where
  gidx : Nat
  g : Nat
  pa : Option Nat
  pb : Option Nat
  pd : Option Nat
deriving DecidableEq, Repr

/-- A physical convergence register in use (R170, R171): team, name, set size, descriptor, signatures. -/
structure ConvReg where
  ctx : BitVec 8
  vteam : BitVec 16
  name : Nat
  size : Nat
  desc : DWord
  sigs : List Signature
deriving DecidableEq, Repr

/-- A spawn bin in use (R110): key, waiting arguments oldest first, and the cycle in which each arrived. -/
structure SpawnBin where
  ctx : BitVec 8
  vteam : BitVec 16
  role : Nat
  entry : Nat
  times : List Nat
  args : List DWord
deriving DecidableEq, Repr

/-- A weight plane (R262): valid, tag, format, scales, K, N and the latched elements as element and scale codes by column. -/
structure Plane where
  vteam : BitVec 16
  wtag : BitVec 16
  bfmt : Fmt
  bsc : Bool
  k : Nat
  n : Nat
  cols : List (List Nat × List (BitVec 8))
deriving DecidableEq, Repr

/-- A pass in a reservation table (R263): identity, team, core, priority, descriptor, signatures, entry cycle. -/
structure Pass where
  id : Nat
  ctx : BitVec 8
  vteam : BitVec 16
  core : Nat
  prio : Nat
  desc : DWord
  sigs : List Signature
  entered : Nat
  /-- the acquire of R258, while it waits -/
  acqw : Option AcqWait
  /-- it was frozen, and goes before the other entries (R268, R439) -/
  first : Bool
  /-- the plane it was computing on when it was scanned out (R267) -/
  plane : Option Plane
deriving DecidableEq, Repr

/-- A team (R89, R96): identity, launch data, scratch, mailboxes, tokens, groups. -/
structure Team where
  /-- context (R40) -/
  ctx : BitVec 8
  /-- virtual team id (R96) -/
  vteam : BitVec 16
  /-- the model's number of its bent -/
  bent : Nat
  /-- $bpos (R93) -/
  bpos : Nat
  /-- core (R90) -/
  core : Nat
  /-- virtual team ids of the member teams by $bpos -/
  members : List (BitVec 16)
  /-- $bx (R93) -/
  bx : Nat
  /-- $by (R93) -/
  bY : Nat
  /-- $bz (R93) -/
  bz : Nat
  /-- $gx (R93) -/
  gx : Nat
  /-- $gy (R93) -/
  gy : Nat
  /-- $gz (R93) -/
  gz : Nat
  /-- the bent is fused, on one die (R217) -/
  fused : Bool
  /-- LEGACY (R60, R153) -/
  legacy : Bool
  /-- STREAMER (R60) -/
  streamer : Bool
  /-- MATERR (R60, R265) -/
  materr : Bool
  /-- launch priority (R60) -/
  prio : Nat
  /-- role table (R60) -/
  roles : List Role
  /-- its length (R60) -/
  nroles : Nat
  /-- constant windows (R60, R195) -/
  windows : Vector Window 8
  /-- base of the bound image (R85, R86) -/
  base : Nat
  /-- its size (R85, R86) -/
  size : Nat
  /-- scratch units of 32 KiB (R60, R196) -/
  units : Nat
  /-- scratch bytes, as memory is held (R196) -/
  scratch : Memory
  /-- granules that are full (R198) -/
  full : List Nat
  /-- granules whose code word is uncorrectable, as injected data (R285) -/
  poison : List Nat
  /-- mailboxes, oldest value first (R167) -/
  mbs : Vector (List DWord) 8
  /-- receivers in the order in which they parked (R168) -/
  waiters : List Waiter
  /-- tk0 to tk63 (R169) -/
  tokens : Vector Word 64
  /-- SPILLBASE (R276) -/
  spillbase : DWord
  /-- stack index of each `$gidx`, reserved spawn indices among them (R178) -/
  stackIdx : List Nat
  /-- barriers initialised since commit (R158) -/
  inited : BitVec 32
  /-- home table of each barrier (R281) -/
  home : Vector (Option Nat) 32
  /-- bins, convergence registers and matrix passes of a saved team (R112, R172, R267), the running pass apart -/
  keptBins : List SpawnBin
  keptConvs : List ConvReg
  keptRun : Option Pass
  keptPasses : List Pass
  /-- live grids that the team launched (R114), by record address -/
  children : List Nat
  /-- the greatest completion time of stores of its groups that have ended (R217, R227) -/
  leftMax : Nat
  /-- groups whose handlers hold the engine against the team by MFREEZE (R439) -/
  frozen : List Nat
  /-- its groups (R120) -/
  groups : List Group
deriving DecidableEq, Repr

/-- States of a bent (R97). -/
inductive BentState where
  | wait | req | rsv | cmt | run | saving | saved | done | failed
deriving DecidableEq, Repr

/-- A bent that has left WAIT for the first time, or waits again: its record, index, entry address in the record area, state and relaunch count as its entry was last written, request moment, place, and the image of a saved bent: its first unit in the save area, its teams, and its bytes as they were written. -/
structure Bent where
  id : Nat
  record : Nat
  index : Nat
  entry : Option Nat
  st : BentState
  relaunch : Nat
  reqAt : Nat
  die : Nat
  anchor : Nat
  committedAt : Nat
  image : Option Nat
  saved : List Team
  shot : List Byte
  /-- a saved bent that yield saved, not yet let back (R114) -/
  yielded : Bool
  /-- killed while it committed (R103, R291): the cause, and whether it may be relaunched -/
  doomed : Option (BitVec 8 × Bool)
deriving DecidableEq, Repr

/-- Where a launch came from, to report its end (R57, R117). -/
inductive Origin where
  | queue (work : Nat)
  | node (graph node : Nat)
deriving DecidableEq, Repr

/-- A released store part of a killed team that is not acknowledged (R57): whether a peer still has to answer, and the lines that a Sill run held. -/
structure GridPart where
  id : Nat
  out : Bool
  held : List Nat
deriving DecidableEq, Repr

/-- A killed team some of whose released parts are not acknowledged: its core, id and stack indices are not used again before they are (R282), and on the core of a fused bent the lines of the L1 stay until then (R233). -/
structure LeftTeam where
  core : Nat
  vteam : BitVec 16
  stackIdx : List Nat
  fused : Bool
deriving DecidableEq, Repr

/-- A live launch record (R61): its address in the record area, context, origin, the parent team of a device-side launch, the greatest completion time of its ended teams, and what killed teams left unacknowledged (R57, R282). -/
structure Grid where
  record : Nat
  ctx : BitVec 8
  prio : Nat
  origin : Origin
  parent : Option (BitVec 16)
  wmax : Nat
  parts : List GridPart
  left : List LeftTeam
  ended : Bool
  failed : Bool
deriving DecidableEq, Repr

/-- A barrier-table entry (R154). -/
structure BarEntry where
  bentScope : Bool
  phase : Bool
  num : Nat
  ctx : BitVec 8
  vteam : BitVec 16
  expect : Nat
  arrive : Nat
  agents : Nat
  status : DWord
deriving DecidableEq, Repr
/-- A streamer copy in flight (R412 to R419). op: none for a plain copy; else 0 add, 1 min, 2 max with its format. dteam: the team whose token and barrier it names (R417). -/
structure Copy where
  id : Nat
  ctx : BitVec 8
  vteam : BitVec 16
  dteam : BitVec 16
  src : DWord
  dst : DWord
  len : Nat
  op : Option (Nat × Fmt)
  scope : Scope
  rel : Bool
  acqw : Option AcqWait
  bar : Option Nat
  tok : Option (Nat × Nat)
  /-- the issuer's team has ended: only the writes stand (R419) -/
  orphan : Bool
  /-- it has started -/
  moved : Bool
  /-- pieces still to be performed: offset and length -/
  rest : List (Nat × Nat)
  out : Nat
  /-- greatest completion time of its writes (R227) -/
  wmax : Nat
  /-- lowest failing page with its code, if one failed (R418) -/
  fail : Option (Nat × Nat)
  /-- lines it wrote that a Sill run held (R230) -/
  held : List Nat
deriving DecidableEq, Repr

/-- A core (R14). -/
structure Core where
  /-- the barrier table (R154) -/
  bars : Vector (Option BarEntry) 64
  /-- convergence registers (R170) -/
  convs : Vector (Option ConvReg) 16
  /-- spawn bins (R110) -/
  bins : Vector (Option SpawnBin) 16
  /-- FAIRINT (R276) -/
  fairint : Nat
  /-- WDLOG (R276) -/
  wdlog : Nat
  /-- BSPILL as it reads (R276) -/
  bspill : DWord
  /-- PFFETCH (R276) -/
  pffetch : DWord
  /-- PFUSED (R276) -/
  pfused : DWord
  /-- PFTIMELY (R276) -/
  pftimely : DWord
  /-- SBSTALL (R276) -/
  sbstall : DWord
  /-- COISSUE (R276) -/
  coissue : DWord
  /-- starvation queues of the four quadrants (R145) -/
  starve : Vector (List (GroupRef × Nat)) 4
  /-- lines of the L1 with their leases (R199, R200, R210) -/
  l1 : List L1Line
  /-- lines of the constant cache (R195) -/
  kcache : List CacheLine
  /-- lines of the instruction cache (R195) -/
  icache : List CacheLine
  /-- the L1 TLB (R186) -/
  tlb : List TlbEntry
  /-- copies that the streamer has accepted (R412) -/
  copies : List Copy
  /-- L1 misses since the last sample (R207) -/
  sampled : Nat
  /-- dynamic energy event counts by context and class not yet folded (R284) -/
  energy : List ((BitVec 8 × Nat) × Nat)
  /-- the microsecond of device time up to which static energy has been accumulated (R284) -/
  staticAt : Nat
deriving DecidableEq, Repr

/-! ### Host queues -/

/-- A packet in hand that waits (R65, R66): a signal packet or a mailbox post. -/
inductive QWait where
  | signal (waddr : Nat) (val : DWord) (cond : Nat) (lastRead : Nat)
  | mailbox (vteam : BitVec 16) (mb : Nat) (val : DWord)
deriving DecidableEq, Repr

/-- A queue (R41 to R48, R55): the descriptor values last read, the slot while mapped, counters while mapped, status, and the packet in hand. -/
structure Queue where
  ring : Nat
  logsize : Nat
  kind : Nat
  latched : Bool
  slot : Option Nat
  tail : Word
  progress : Word
  error : Bool
  consumed : Bool
  errcode : BitVec 8
  errcount : Word
  wait : Option QWait
  /-- device-side packets not yet consumed, by counter, with the team that launched them (R114) -/
  parents : List (Word × BitVec 16)
deriving DecidableEq, Repr

/-- A code-table entry as the Z9 holds it (R84). -/
structure CodeEntry where
  base : Nat
  size : Nat
  ver : BitVec 16
  note : BitVec 8
  pbase : Nat
  psize : Nat
  pver : BitVec 16
  pnote : BitVec 8
  live : Nat
  plive : Nat
deriving DecidableEq, Repr

/-- A context (R40). -/
structure Ctx where
  num : BitVec 8
  desc : Nat
  ptroot : Nat
  stkbase : Nat
  stkbound : Nat
  owner : BitVec 10
  cprio : Nat
  queues : Vector Queue 16
  code : Vector CodeEntry 48
  energy : Nat
  sticky : Bool
deriving DecidableEq, Repr

/-- What kind of work a consumed packet started (R46, R57). -/
inductive WorkKind where
  | launch | graph | sill | copy | signal | mailbox | control
deriving DecidableEq, Repr

/-- How far a completion signal has come (R57, R58): one at a peer is out until the peer answers. -/
inductive SigStage where
  | todo | out | done | failed
deriving DecidableEq, Repr

/-- The work of a consumed packet that has not signalled (R46, R57). -/
structure Work where
  id : Nat
  ctx : BitVec 8
  q : BitVec 4
  counter : Word
  kind : WorkKind
  sigaddr : Nat
  sigval : DWord
  rel : Nat
  /-- the work itself has ended -/
  ended : Bool
  /-- a packet status code other than OK when it failed -/
  code : BitVec 8
  /-- its release has passed at this time -/
  relTime : Nat
  /-- a void Sill run performs no signal (R454) -/
  noSignal : Bool
  sig : SigStage
deriving DecidableEq, Repr

/-- A node of a running task graph (R115, R117): its kind, scopes, body and successors as read, predecessors left, its body's signal, and how it stands. -/
structure Node where
  kind : Nat
  acq : Nat
  rel : Nat
  body : Nat
  succ : List Nat
  left : Nat
  sigaddr : Nat
  sigval : DWord
  started : Bool
  ended : Bool
  code : BitVec 8
  relTime : Nat
  sig : SigStage
  completed : Bool
deriving DecidableEq, Repr

/-- A running task graph (R117, R118). -/
structure Graph where
  id : Nat
  ctx : BitVec 8
  work : Nat
  addr : Nat
  nodes : List Node
  failed : Option (BitVec 8)
deriving DecidableEq, Repr

/-- A system-streamer copy (R64). -/
structure SysCopy where
  id : Nat
  ctx : BitVec 8
  work : Nat
  die : Nat
  src : Nat
  dst : Nat
  len : Nat
  remote : Option (BitVec 10)
  moved : Bool
  /-- pieces still to be moved: offset and length -/
  rest : List (Nat × Nat)
  out : Nat
  failed : Bool
  wmax : Nat
  /-- lines it wrote that a Sill run held (R230) -/
  held : List Nat
deriving DecidableEq, Repr

/-! ### Distributor, memory control, engines, Sill -/

/-- The distributor control block (R104) but PREQ and PREL, which are write-only commands. -/
structure Dcb where
  busy : Bool
  done : Bool
  short : Bool
  nospace : Bool
  lost : Bool
  badreq : Bool
  vacated : Nat
  savebase : Nat
  savelen : Nat
  sbtime : Nat
  lrbase : Nat
  lrlen : Nat
deriving DecidableEq, Repr

/-- A pre-emption in progress (R105, R106): the bents selected, and the cores that they held. -/
structure Preempt where
  ctx : BitVec 8
  ncore : Nat
  diemask : BitVec 4
  hprio : Nat
  selected : List Nat
  vacated : List Nat
deriving DecidableEq, Repr

/-- A ring of the memory control block (R191): base, log2 of its entries, TAIL, HEAD. -/
structure Ring where
  base : Nat
  logn : Nat
  tail : Word
  head : Word
deriving DecidableEq, Repr

/-- The memory control block (R191). -/
structure Mcb where
  pr : Ring
  ft : Vector Ring 4
  rel : Ring
  smp : Ring
  mode : BitVec 2
  migen : Bool
  logn : Nat
  interval : Nat
  hotbase : Nat
  smpdrop : Nat
  miglim : Nat
  ftlow : Nat
deriving DecidableEq, Repr

/-- A pending-touch entry (R189): whether its page request has been appended (R191). -/
structure Touch where
  ctx : BitVec 8
  page : Nat
  vteam : BitVec 16
  tok : Nat
  amount : Word
  first : Bool
  appended : Bool
  at_ : Nat
deriving DecidableEq, Repr

/-- A page of a controller's top list (R204). -/
structure HotPage where
  key : Nat
  est : Nat
  die : Vector Nat 4
deriving DecidableEq, Repr

/-- The hotness measurement of one stack (R204 to R206). -/
structure Hot where
  rows : List ((Nat × Nat) × Nat)
  list : List HotPage
  moved : Nat
  /-- the list of the last boundary, which the migration engines examine (R208) -/
  last : List HotPage
  /-- the header still to be written: sequence number, pages, and the time its release waits for (R205) -/
  header : Option (Nat × Nat × Nat)
deriving DecidableEq, Repr

/-- A migration in progress (R208): the page, its old and new frame. -/
structure Migration where
  die : Nat
  ctx : BitVec 8
  va : Nat
  pte : Nat
  oldFrame : Nat
  newFrame : Nat
deriving DecidableEq, Repr

/-- An old frame that waits for its last lease (R208). -/
structure OldFrame where
  frame : Nat
  until_ : Nat
deriving DecidableEq, Repr

/-- A matrix engine (R255, R262, R263, R266, R439). -/
structure Engine where
  active : Option Plane
  loading : Option Plane
  table : List Pass
  running : Option Pass
  freeze : Option Pass
  quarantined : Bool
  /-- residue mismatches that its next pass meets, as injected data (R266) -/
  miss : Nat
deriving DecidableEq, Repr

/-- Who issued a Sill run (R63, R115, R434). -/
inductive SillOrigin where
  | packet (work : Nat)
  | node (graph node : Nat)
  | team (ctx : BitVec 8) (vteam : BitVec 16) (tok : Option (Nat × Nat))
  /-- its team has ended (R434) -/
  | gone
deriving DecidableEq, Repr

/-- How a Sill run stands. -/
inductive SillStage where
  | queued | running | void | aborted
  /-- its waves are over, or it has been aborted, and it holds its lines until its signal (R229) -/
  | ending
deriving DecidableEq, Repr

/-- A Sill run (R434, R442 to R456): program words, range, parameters, translated 64 KiB pieces (virtual, physical), scopes, signal. -/
structure SillRun where
  id : Nat
  ctx : BitVec 8
  origin : SillOrigin
  words : List Word
  rbase : Nat
  rlen : Nat
  pages : List (Nat × Nat)
  q : Vector Word 16
  acqsc : Nat
  relsc : Nat
  acqw : Option AcqWait
  sigaddr : Nat
  sigval : DWord
  /-- its context was destroyed: token addition and signal are discarded (R67) -/
  muted : Bool
  stage : SillStage
  startAt : Nat
deriving DecidableEq, Repr

/-- The Sill unit that executes in a wave (R442, R445, R449): its bank, home atoms left by virtual address, the word pointer, the registers, and the buffered stores of the step. -/
structure SillUnit where
  run : Nat
  wave : Nat
  bank : Nat
  atoms : List Nat
  inPrologue : Bool
  pc : Nat
  z : Vector (BitVec 256) 8
  zStart : Vector (BitVec 256) 8
  buf : List (Nat × BitVec 256)
  /-- units of the wave still to run: bank numbers -/
  rest : List Nat
  /-- residue mismatches that its next results meet, as injected data (R449, R456), and whether this step has been replayed -/
  miss : Nat
  replayed : Bool
deriving DecidableEq, Repr

/-- A stack controller's Sill state (R434, R447): queue of runs, waves done of the first, the unit at work. -/
structure StackCtl where
  queue : List Nat
  wavesDone : Nat
  unit : Option SillUnit
deriving DecidableEq, Repr

/-- A write held at the L2 while a Sill run holds its line (R230). -/
structure HeldWrite where
  pa : Nat
  data : List Byte
  /-- the operation and format of CPYRED elements, which are applied to what stands there then -/
  op : Option (Nat × Fmt)
deriving DecidableEq, Repr

/-! ### Root controller and links -/

/-- Phases of the device (R33, R35, R297). -/
inductive RootPhase where
  | inReset | running | recoveryOnly | shutDown | linkFailed
deriving DecidableEq, Repr

/-- An error-log entry (R300). -/
structure LogEntry where
  time : Nat
  level : Nat
  struct : Nat
  sev : Nat
  die : Nat
  bin : Nat
  count : Nat
  ctx : BitVec 8
  cause : BitVec 8
  loc : Nat
  detail : DWord
deriving DecidableEq, Repr

/-- The scrub setting of a level (R298, R303). -/
structure Scrub where
  profile : Nat
  logce : Bool
  cethr : Nat
  period : Nat
deriving DecidableEq, Repr

/-- A message the device has sent. -/
inductive Sent where
  | ridge (t : Txn)
  /-- a message on the sideband: a reply (R36, R39) -/
  | reply (bytes : List Byte)
  /-- an I3C in-band interrupt with its message (R277) -/
  | interrupt (bytes : List Byte)
  | flit (port : Nat) (bytes : List Byte)
  | replayRequest (port : Nat) (seq : BitVec 12)
  | shutdownReport (die : Nat)
deriving DecidableEq, Repr

/-- The root controller (R34 to R39, R277, R291 to R303). -/
structure Root where
  phase : RootPhase
  slotA : FlashSlot
  slotB : FlashSlot
  booted : Option Bool
  fuseVersion : Nat
  fuseKeyHash : List Byte
  vpen : Word
  idset : Bool
  devNum : BitVec 10
  hostNum : BitVec 10
  i3cAddr : BitVec 7
  /-- the SPDM request in progress (R36) -/
  spdmBusy : Option MgmtReq
  scrub : Vector Scrub 3
  scrubNext : Vector (Option Scrub) 3
  logs : List LogEntry
  dropped : List ((Nat × Nat) × Nat)
  lifetime : List ((Nat × Bool × Nat) × Nat)
  lifetimeSaved : List ((Nat × Bool × Nat) × Nat)
  corrected : List ((Nat × Nat) × Nat)
  quarCores : List Nat
  quarSill : List Nat
  lastIrq : List ((Nat × Nat) × Nat)
  temps : Vector Nat 4
  /-- the package's power in watts, averaged over 100 ms (R32, R38) -/
  power : Nat
  /-- stacks marked failed (R35) -/
  failedStacks : List Nat
  /-- when the lifetime counts were last written to flash (R302) -/
  lifeAt : Nat
deriving DecidableEq, Repr

/-- A Ridge port (R19 to R24, R29). -/
structure Port where
  up : Bool
  /-- it retrains (R24) -/
  training : Bool
  peer : Option PeerKind
  rxExpect : BitVec 12
  rxFailed : Bool
  replays : Nat
  retrains : Nat
  txSeq : BitVec 12
  /-- the last 512 flits sent, oldest first -/
  replay : List (BitVec 12 × List Byte)
  /-- slots received for each virtual channel whose credits have not been returned -/
  owed : Vector Nat 8
  /-- slots of a transaction that has not arrived whole -/
  slots : List (List Byte)
  /-- slots sent for each virtual channel whose credits have not come back (R22) -/
  used : Vector Nat 8
  /-- transactions sent that the other end has not acknowledged, by the flit in which each ends (R22, R24) -/
  unacked : List (BitVec 12 × Txn)
  /-- transactions that wait while it retrains (R24, R27) -/
  held : List Txn
deriving DecidableEq, Repr

/-- A die-to-die link (R13, R297). -/
structure DieLink where
  up : Bool
  replays : Nat
  retrains : Nat
deriving DecidableEq, Repr

/-- A strand that may issue: a strand-table entry or the handler strand (R273). -/
structure StrandRef where
  g : GroupRef
  sid : Nat
  handler : Bool
deriving DecidableEq, Repr

/-- What a Ridge request of this device waits for (R185, R216, R64). -/
inductive Await where
  | loadPart (g : GroupRef) (load lane : Nat)
  | storeAck (g : GroupRef) (ack : Nat)
  /-- a piece of a streamer copy: its offset and length -/
  | copy (core copy ofs len : Nat) (write : Bool)
  | line (core line : Nat) (code : Bool)
  | sysCopy (id : Nat) (ofs len : Nat) (write : Bool)
  /-- a completion signal on a peer: the work or node whose signal it is, none for a run of NMRUN (R57, R58, R117) -/
  | signal (o : Option Origin)
  /-- a message of the root controller (R39, R277) -/
  | message
  /-- a piece of a Ridge request whose page lies at another peer: its completion in the making (R52, R185) -/
  | forward (reply : Nat)
  /-- a packet that a strand launches to the ring of a queue at a peer (R70) -/
  | launch (r : StrandRef) (q : Nat)
  /-- a released store part of a killed team: its grid's record and its number there (R57) -/
  | gridPart (record id : Nat)
  /-- an access whose team is gone, or a write that nothing waits for -/
  | stray
deriving DecidableEq, Repr

/-- An outstanding Ridge request (R26). -/
structure Request where
  tag : Nat
  /-- this device's number when it was sent (R39) -/
  self : BitVec 10
  peer : BitVec 10
  want : Await
deriving DecidableEq, Repr

/-- A completion that waits for the completion time of what it answers (R216), for the lines that a Sill run holds (R230), and for the pieces that lie at other peers (R52, R185). -/
structure Reply where
  id : Nat
  after_ : Nat
  lines : List Nat
  out : Nat
  t : Txn
deriving DecidableEq, Repr

/-- Where an injected error lies (R285): a lane of a vector register, a scalar, the strand table or fold stack of a group, its store buffer and ordering state, the objects of a team, a global line of an L1, a granule of scratch, a line of the constant or instruction cache, a translation of an L1 TLB, tag or body of an entry of a reservation table, of spawn bins or of a barrier table, a request in a queue of a stack, a plane, and the registers of a stack's Sill unit. -/
inductive FlawAt where
  | vector (g : GroupRef) (reg lane : Nat)
  | scalar (g : GroupRef) (code : Nat)
  | strands (g : GroupRef)
  | stores (g : GroupRef)
  | objects (ctx : BitVec 8) (vteam : BitVec 16)
  | l1 (core line : Nat)
  | scratch (core granule : Nat)
  | cached (core line : Nat) (code : Bool)
  | tlb (core va : Nat)
  | table (engine slot : Nat) (tag : Bool)
  | bin (core slot : Nat) (tag : Bool)
  | bar (core slot : Nat) (tag : Bool)
  | request (stack : Nat)
  | plane (engine : Nat)
  | sill (stack : Nat)
deriving DecidableEq, Repr

/-- An injected error: its place, and whether its code cannot correct it (R285). -/
structure Flaw where
  at_ : FlawAt
  hard : Bool
deriving DecidableEq, Repr

/-- A CINV that waits (R440): its strand, and the accesses that used what it dropped, by group and number. -/
structure CinvWait where
  r : StrandRef
  uses : List (GroupRef × Nat)
deriving DecidableEq, Repr

/-- Who moves in a step (log 3). -/
inductive Turn where
  | event (i : Instr) (o : Operand)
  | issue (r : StrandRef)
  | sill (stack : Nat)
  | elapse (cycles : Nat)
deriving DecidableEq, Repr

/-- The Z9. -/
structure State where
  /-- device time of die 0 in ticks (R7, R31) -/
  time : Nat
  /-- twelfths of a tick that have passed: 12 core cycles are 5 ticks (R7) -/
  frac : Nat
  /-- core cycles that have passed (R7) -/
  cycle : Nat
  /-- the offset of each die's counter from the master's (R31) -/
  dieOff : Vector Int 4
  /-- the counters hold during a resynchronisation (R31) -/
  timeHeld : Bool
  /-- dies that insert idle issue cycles (R33) -/
  throttled : Vector Bool 4
  /-- the root controller (R34 to R39, R277, R293, R298 to R303) -/
  root : Root
  /-- what the device has sent, oldest first: completions, requests, flits, interrupts, management replies (R26, R51, R277, R303) -/
  sent : List Sent
  /-- the Ridge ports (R19 to R29) -/
  ports : Vector Port 24
  /-- the die-to-die links (R13, R297) -/
  dieLinks : Vector DieLink 4
  /-- Ridge requests that await a completion (R26) -/
  outstanding : List Request
  /-- completions that wait for their time (R216, R230) -/
  replies : List Reply
  /-- requests taken that wait for a frame, a move or a Sill run (R194, R208, R230) -/
  waiting : List Txn
  /-- messages of the root controller for the system host adapter that have not gone out (R39, R277) -/
  outbox : List (List Byte)
  /-- protocol errors counted (R26) -/
  ridgeErrors : Nat
  /-- discarded transactions counted (R39) -/
  ridgeDiscards : Nat
  /-- device memory, byte addressed (R180) -/
  mem : Memory
  /-- codewords that hold uncorrectable data (R285, R287) -/
  poison : List Nat
  /-- codewords with an error that a visit or read will correct (R285, R299) -/
  corrupt : List Nat
  /-- codewords of lines of the L2 that hold uncorrectable data, as injected data (R285, R287) -/
  l2bad : List Nat
  /-- errors injected into the other structures, none from reset (R285) -/
  flaws : List Flaw
  /-- the identity block (R72) -/
  ident : List Byte
  /-- the distributor control block (R104) -/
  dcb : Dcb
  /-- the pre-emption in progress (R105, R106) -/
  preempt : Option Preempt
  /-- the memory control block (R191) -/
  mcb : Mcb
  /-- the contexts with their queues, code table and energy counter (R40 to R48, R71, R84) -/
  ctxs : List Ctx
  /-- consumed packets whose work has not completed (R46, R57) -/
  works : List Work
  /-- task graphs under way (R115 to R118) -/
  graphs : List Graph
  /-- grids whose launch record stands (R57, R61) -/
  grids : List Grid
  /-- bents with their states of R97 -/
  bents : List Bent
  /-- the model's own: the next number of an object -/
  nextId : Nat
  /-- the next grid number (R61, log 42) -/
  gridCount : Nat
  /-- at most one hold for each die (R101) -/
  dieHolds : Vector (Option Nat) 4
  /-- pre-emption holds: core and priority (R106) -/
  preHolds : List (Nat × Nat)
  /-- runs of the save area in use (R107, R279) -/
  saveRuns : List (Nat × Nat)
  /-- the cores (R8 to R10, R154, R170, R110, R276) -/
  cores : Vector Core 256
  /-- lines of the L2s (R202, R211, R212) -/
  l2 : List L2Line
  /-- the E_S of each L2 set (R212) -/
  l2es : List (Nat × Nat)
  /-- the L2 TLB of each die (R186) -/
  l2tlb : Vector (List TlbEntry) 4
  /-- the walk cache of each die (R186) -/
  walkCache : Vector (List WalkEntry) 4
  /-- the pending-touch table of each die (R189) -/
  touches : Vector (List Touch) 4
  /-- the hotness measurement of each stack (R204 to R206) -/
  hot : Vector Hot 12
  /-- the number of the hotness interval (R206) -/
  hotSeq : Nat
  /-- the time at which the interval began (R205) -/
  hotAt : Nat
  /-- the memory-service interrupt for an absent request ring has been raised (R192) -/
  prTold : Bool
  /-- migrations under way (R208) -/
  migrations : List Migration
  /-- frames that wait for release (R208, R209) -/
  oldFrames : List OldFrame
  /-- Sill runs queued or under way (R229, R434, R447) -/
  runs : List SillRun
  /-- the stack controllers (R434, R442, R447) -/
  stackCtls : Vector StackCtl 12
  /-- writes that a Sill run holds at the home (R230) -/
  heldWrites : List HeldWrite
  /-- the matrix engines (R255, R262 to R268) -/
  engines : Vector Engine 64
  /-- copies of the system streamers (R64) -/
  sysCopies : List SysCopy
  /-- CINVs that wait (R440) -/
  cinvs : List CinvWait
  /-- the resident teams with their groups (R120 to R178) -/
  teams : List Team
  /-- the model's own: who moves in the steps to come (log 3) -/
  agenda : List Turn
  /-- the model's own: the operands of the event that is taken -/
  operand : Operand
  /-- the model's own: the strand whose turn it is -/
  cur : Option StrandRef
  /-- the model's own: the stack whose Sill unit's turn it is -/
  curSill : Option Nat
  /-- the model's own: how many free values have been drawn (log 5) -/
  free : Nat
  /-- mismatches that the next checked results of the cores meet: injected data (R289) -/
  residueMiss : Nat
deriving DecidableEq, Repr

/-- Why the machine stops. -/
inductive Fault where
  /-- A Yalhel instruction is to be executed and no strand issues it: raised by every Yalhel meaning. Safe: the spec gives an instruction an effect only in a strand. -/
  | noStrand
  /-- A Sill word is to be executed and no Sill unit is at work: raised by every Sill meaning. Safe: the spec gives a Sill word an effect only in a unit. -/
  | noSillUnit
deriving DecidableEq, Repr

/-- Why an operation has no meaning. -/
inductive Refusal where
  /-- The operation is not modelled: raised by its arm of exec. Safe: the machine stops. -/
  | notModelled (mnemonic : String)
deriving DecidableEq, Repr

/-! ### Reset -/

def Strand.free : Strand :=
  ⟨false, 0, 0, 0, [], .ready, false, 0x1F#5, 16#5, 0, 0, 0, Vector.replicate 4 0, none, 0, false, 0, [], 0, none, false, false, 0, 0, 0⟩

def Slide.unbound : Slide := ⟨false, 0, false, 0, 0, 0, 0, 0, 0, 0⟩
def Binding.unbound : Binding := ⟨0, false, 0, 0⟩
def FaultEntry.zero : FaultEntry := ⟨0, 0, 0, 0, 0, 0, 0, 0⟩
def FaultRecord.zero : FaultRecord :=
  ⟨0, 0, 0, 0, Vector.replicate 16 .zero, Vector.replicate 16 ⟨0, 0, 0⟩, Vector.replicate 16 0⟩

def BSPILL_RESET : DWord := 0xC0000000#64

/-- A core after reset: no objects, and the control registers of R276. -/
def Core.reset : Core where
  bars := Vector.replicate 64 none
  convs := Vector.replicate 16 none
  bins := Vector.replicate 16 none
  fairint := 512
  wdlog := 30
  bspill := BSPILL_RESET
  pffetch := 0
  pfused := 0
  pftimely := 0
  sbstall := 0
  coissue := 0
  starve := Vector.replicate 4 []
  l1 := []
  kcache := []
  icache := []
  tlb := []
  copies := []
  sampled := 0
  energy := []
  staticAt := 0

def Queue.absent : Queue := ⟨0, 0, 0, false, none, 0, 0, false, false, 0, 0, none, []⟩

def CodeEntry.empty : CodeEntry := ⟨0, 0, 0, 0, 0, 0, 0, 0, 0, 0⟩

/-- Context 0 from the end of boot (R44): its page reads as zero and its bootstrap queue is mapped to slot 0. -/
def Ctx.system : Ctx where
  num := 0
  desc := 0x4000
  ptroot := 0
  stkbase := 0
  stkbound := 0
  owner := 0
  cprio := 3
  queues := (Vector.replicate 16 Queue.absent).setIfInBounds 0 { Queue.absent with slot := some 0 }
  code := Vector.replicate 48 .empty
  energy := 0
  sticky := false

def Ring.absent : Ring := ⟨0, 0, 0, 0⟩

/-- The memory control block after reset (R191, R192). -/
def Mcb.reset : Mcb := ⟨.absent, Vector.replicate 4 .absent, .absent, .absent, 1#2, true, 10, 1000, 0, 0, 64, 16⟩

/-- The distributor control block after reset (R104). -/
def Dcb.reset : Dcb := ⟨false, false, false, false, false, false, 0, 0, 0, 2048, 0, 0⟩

def FlashSlot.blank : FlashSlot := ⟨[], 0, [], [], []⟩

/-- The default scrub settings of HBM, L2, and L1 with scratch (R298, R303). -/
def scrubDefault : Vector Scrub 3 := #v[⟨0, true, 0, 28800⟩, ⟨0, true, 0, 600⟩, ⟨0, true, 0, 60⟩]

def Root.reset : Root where
  phase := .inReset
  slotA := FlashSlot.blank
  slotB := FlashSlot.blank
  booted := none
  fuseVersion := 0
  fuseKeyHash := []
  vpen := 0
  idset := false
  devNum := 0
  hostNum := 0
  i3cAddr := 0x5A#7
  spdmBusy := none
  scrub := scrubDefault
  scrubNext := Vector.replicate 3 none
  logs := []
  dropped := []
  lifetime := []
  lifetimeSaved := []
  corrected := []
  quarCores := []
  quarSill := []
  lastIrq := []
  temps := Vector.replicate 4 0
  power := 0
  failedStacks := []
  lifeAt := 0

def Port.reset : Port := ⟨false, false, none, 0, false, 0, 0, 0, [], Vector.replicate 8 0, [], Vector.replicate 8 0, [], []⟩

def Engine.reset : Engine := ⟨none, none, [], none, none, false, 0⟩

/-- The machine right after reset: nothing has booted, memory lists nothing, and the first step boots (R35, log 10). -/
def State.reset : State where
  time := 0
  frac := 0
  cycle := 0
  dieOff := Vector.replicate 4 0
  timeHeld := false
  throttled := Vector.replicate 4 false
  root := .reset
  sent := []
  ports := Vector.replicate 24 .reset
  dieLinks := Vector.replicate 4 ⟨false, 0, 0⟩
  outstanding := []
  replies := []
  waiting := []
  outbox := []
  ridgeErrors := 0
  ridgeDiscards := 0
  mem := []
  poison := []
  corrupt := []
  l2bad := []
  flaws := []
  ident := List.replicate 16 0
  dcb := .reset
  preempt := none
  mcb := .reset
  ctxs := [.system]
  works := []
  graphs := []
  grids := []
  bents := []
  nextId := 0
  gridCount := 1
  dieHolds := Vector.replicate 4 none
  preHolds := []
  saveRuns := []
  cores := Vector.replicate 256 .reset
  l2 := []
  l2es := []
  l2tlb := Vector.replicate 4 []
  walkCache := Vector.replicate 4 []
  touches := Vector.replicate 4 []
  hot := Vector.replicate 12 ⟨[], [], 0, [], none⟩
  hotSeq := 0
  hotAt := 0
  prTold := false
  migrations := []
  oldFrames := []
  runs := []
  stackCtls := Vector.replicate 12 ⟨[], 0, none⟩
  heldWrites := []
  engines := Vector.replicate 64 .reset
  sysCopies := []
  cinvs := []
  teams := []
  agenda := []
  operand := {}
  cur := none
  curSill := none
  free := 0
  residueMiss := 0

end Sys2Proof.Machine
end

