-- ==== Sys2Proof/Machine/Memory.lean ====
section
/-! DEFINITION. Reads and writes of memory bytes, in the canonical form of log 1 and in the byte order of R4, and plain helpers on lists, vectors and numbers. -/
namespace Sys2Proof.Machine

/-- What an address that memory does not list reads as (log 1). -/
def unlisted : Byte := 0#8

/-- One byte of memory. -/
def memGet : Memory → Nat → Byte
  | [], _ => unlisted
  | (k, b) :: r, a => if k = a then b else memGet r a

/-- A byte put in its place by address; no entry for its address is left. -/
def memIns : Memory → Nat → Byte → Memory
  | [], a, b => [(a, b)]
  | (k, c) :: r, a, b => if a < k then (a, b) :: (k, c) :: r else (k, c) :: memIns r a b

/-- One byte written: memory in canonical form stays so. -/
def memSet (m : Memory) (a : Nat) (b : Byte) : Memory :=
  let rest := m.filter fun c => decide (c.1 ≠ a)
  if b = unlisted then rest else memIns rest a b

/-- Addresses above lo rise strictly and no entry holds what an unlisted address reads as. -/
def memWfFrom : Memory → Nat → Bool
  | [], _ => true
  | (k, b) :: r, lo => decide (lo ≤ k) && decide (b ≠ unlisted) && memWfFrom r (k + 1)

/-- The canonical form of memory (log 1). -/
def Memory.wf (m : Memory) : Bool := memWfFrom m 0

/-- n bytes from an address, lowest first. -/
def memRead (m : Memory) (a : Nat) : Nat → List Byte
  | 0 => []
  | n + 1 => memGet m a :: memRead m (a + 1) n

/-- Bytes written from an address up. -/
def memWrite (m : Memory) (a : Nat) : List Byte → Memory
  | [] => m
  | b :: r => memWrite (memSet m a b) (a + 1) r

/-- The number that bytes stand for, lowest first (R4). -/
def leNat : List Byte → Nat
  | [] => 0
  | b :: r => b.toNat + 256 * leNat r

/-- The n low bytes of a number, lowest first (R4). -/
def leBytes (v : Nat) : Nat → List Byte
  | 0 => []
  | n + 1 => BitVec.ofNat 8 v :: leBytes (v / 256) n

/-! ### Helpers -/

/-- A vector with element i replaced; an index outside changes nothing. -/
def vmod {α : Type} {n : Nat} (v : Vector α n) (i : Nat) (f : α → α) : Vector α n :=
  if h : i < n then v.set i (f v[i]) else v

/-- Elements of a list that meet p replaced. -/
def lmod {α : Type} (l : List α) (p : α → Bool) (f : α → α) : List α := l.map fun x => if p x then f x else x

/-- Element i of a list replaced. -/
def lset {α : Type} (l : List α) (i : Nat) (x : α) : List α := l.set i x

/-- Adds n to the count of a key, saturating. -/
def bump {α : Type} [DecidableEq α] (l : List (α × Nat)) (k : α) (n top : Nat) : List (α × Nat) :=
  if l.any (·.1 = k) then l.map fun (a, c) => if a = k then (a, min top (c + n)) else (a, c)
  else l ++ [(k, min top n)]

/-- The count of a key. -/
def countOf {α : Type} [DecidableEq α] (l : List (α × Nat)) (k : α) : Nat :=
  match l.find? (·.1 = k) with
  | some (_, c) => c
  | none => 0

/-- Bits lo to lo + w - 1 of a number. -/
def bitsOf (v lo w : Nat) : Nat := v / 2 ^ lo % 2 ^ w

/-- The least of the naturals below n that does not meet p. -/
def leastNot (p : Nat → Bool) : Nat → Nat → Option Nat
  | 0, _ => none
  | n + 1, i => if p i then leastNot p n (i + 1) else some i

/-- The numbers from lo, n of them. -/
def upFrom (lo n : Nat) : List Nat := (List.range n).map (lo + ·)

/-- The lowest set lane of a mask. -/
def lowLane (m : Mask) : Option Nat := (List.range 32).find? fun l => m.getLsbD l

/-- The lanes of a mask, lowest first. -/
def lanesOf (m : Mask) : List Nat := (List.range 32).filter fun l => m.getLsbD l

/-- One lane as a mask. -/
def laneBit (l : Nat) : Mask := 1#32 <<< l

/-- A mask from a predicate on lanes. -/
def maskOf (p : Nat → Bool) : Mask := (List.range 32).foldl (fun m l => if p l then m ||| laneBit l else m) 0#32

/-- A vector register from a value per lane. -/
def lanesFn (f : Nat → Word) : Lanes := Vector.ofFn fun i => f i.val

/-- A vector register rewritten in the lanes of a mask. -/
def lanesMerge (old : Lanes) (m : Mask) (new : Lanes) : Lanes :=
  Vector.ofFn fun i => if m.getLsbD i.val then new[i] else old[i]

/-- One 128-byte line holds an address (R199). -/
def lineOf (pa : Nat) : Nat := pa / 128

/-- Popcount of a mask. -/
def popMask (m : Mask) : Nat := (lanesOf m).length

end Sys2Proof.Machine
end

