-- ==== Sys2Proof/Machine/Ops.lean ====
section
/-! DEFINITION. Named operations over the state: lookups, time, error logs and interrupts (R277, R300 to R303), launch records (R61, R62), the end of teams and grids (R97, R282, R291), the taking of a trap (R272, R273) and the return from one (R275). -/
namespace Sys2Proof.Machine

abbrev Out := Host.Outcome State Fault Refusal

/-! ### Time and places -/

/-- Device time of a die in ticks (R7, R31). It counts on past 2^64 - 1, of which the spec says nothing, and only what shows it takes its low 64 bits (log 72). -/
def State.timeOf (s : State) (die : Nat) : Nat := ((s.time : Int) + s.dieOff.getD die 0).toNat

/-- The earliest device time of the dies. -/
def State.earliestTime (s : State) : Nat := (List.range 4).foldl (fun m d => min m (s.timeOf d)) (s.timeOf 0)

def dieOfCore (c : Nat) : Nat := c / 64

/-- The die whose stack holds a physical address (R180). -/
def dieOfPa (pa : Nat) : Nat := pa / (48 * 2 ^ 30) / 3

def stackOfPa (pa : Nat) : Nat := pa / (48 * 2 ^ 30)

/-- Bytes of device memory: 576 GiB (R180). -/
def memTop : Nat := 576 * 2 ^ 30

/-- A free value is drawn: the counter advances (log 5). -/
def State.draw (s : State) : State × DWord := ({ s with free := s.free + 1 }, Config.freeValue s.free)

/-! ### Lookups -/

def State.core (s : State) (c : Nat) : Core := s.cores.getD c Core.reset
def State.modCore (s : State) (c : Nat) (f : Core → Core) : State := { s with cores := vmod s.cores c f }

def Team.is (t : Team) (ctx : BitVec 8) (v : BitVec 16) : Bool := t.ctx = ctx && t.vteam = v

def State.team? (s : State) (ctx : BitVec 8) (v : BitVec 16) : Option Team := s.teams.find? (·.is ctx v)

/-- A team, resident or saved (R96, R108). -/
def State.anyTeam? (s : State) (ctx : BitVec 8) (v : BitVec 16) : Option Team :=
  match s.team? ctx v with
  | some t => some t
  | none => (s.bents.flatMap (·.saved)).find? (·.is ctx v)

def State.modTeam (s : State) (ctx : BitVec 8) (v : BitVec 16) (f : Team → Team) : State :=
  { s with teams := lmod s.teams (·.is ctx v) f }

/-- A team changed wherever it stands (R108). -/
def State.modAnyTeam (s : State) (ctx : BitVec 8) (v : BitVec 16) (f : Team → Team) : State :=
  { s with teams := lmod s.teams (·.is ctx v) f,
           bents := s.bents.map (fun b => { b with saved := lmod b.saved (·.is ctx v) f }) }

def Team.group? (t : Team) (g : Nat) : Option Group := t.groups.find? (·.gidx = g)
def Team.modGroup (t : Team) (g : Nat) (f : Group → Group) : Team := { t with groups := lmod t.groups (·.gidx = g) f }

def State.group? (s : State) (r : GroupRef) : Option Group :=
  match s.team? r.ctx r.vteam with
  | some t => t.group? r.gidx
  | none => none

def State.modGroup (s : State) (r : GroupRef) (f : Group → Group) : State :=
  s.modTeam r.ctx r.vteam (·.modGroup r.gidx f)

/-- The number by which the model names the handler strand, which stands outside the strand table (R273). -/
def handlerSid : Nat := 16

/-- A strand by its strand-table number, or the handler strand. -/
def Group.strand (g : Group) (sid : Nat) : Strand :=
  if sid = handlerSid then g.handler.getD Strand.free else g.strands.getD sid Strand.free

def Group.modStrand (g : Group) (sid : Nat) (f : Strand → Strand) : Group :=
  if sid = handlerSid then { g with handler := g.handler.map f } else { g with strands := vmod g.strands sid f }

/-- The number of the strand of a reference. -/
def StrandRef.num (r : StrandRef) : Nat := if r.handler then handlerSid else r.sid

/-- The reference of a strand of a group. -/
def strandAt (g : GroupRef) (sid : Nat) : StrandRef := ⟨g, if sid = handlerSid then 0 else sid, sid = handlerSid⟩

/-- The strand of a reference changed. -/
def State.modStrand (s : State) (r : StrandRef) (f : Strand → Strand) : State := s.modGroup r.g (·.modStrand r.num f)

def State.ctx? (s : State) (c : BitVec 8) : Option Ctx := s.ctxs.find? (·.num = c)
def State.modCtx (s : State) (c : BitVec 8) (f : Ctx → Ctx) : State := { s with ctxs := lmod s.ctxs (·.num = c) f }

def State.bent? (s : State) (id : Nat) : Option Bent := s.bents.find? (·.id = id)
def State.modBent (s : State) (id : Nat) (f : Bent → Bent) : State := { s with bents := lmod s.bents (·.id = id) f }

def State.grid? (s : State) (rec : Nat) : Option Grid := s.grids.find? (·.record = rec)
def State.modGrid (s : State) (rec : Nat) (f : Grid → Grid) : State := { s with grids := lmod s.grids (·.record = rec) f }

def State.teamsOf (s : State) (bent : Nat) : List Team := s.teams.filter (·.bent = bent)

/-- The member team of a bent with a given `$bpos` (R94). -/
def State.member? (s : State) (bent bpos : Nat) : Option Team := s.teams.find? fun t => t.bent = bent && t.bpos = bpos

/-- A fresh number for an object of the model. -/
def State.fresh (s : State) : State × Nat := ({ s with nextId := s.nextId + 1 }, s.nextId)

/-! ### Device memory as the Z9 itself reads and writes it -/

/-- The number at a physical address, n bytes long. -/
def State.ld (s : State) (pa n : Nat) : Nat := leNat (memRead s.mem pa n)

/-- Whether the Sill run holds the line of a physical address (R229): one of its translated pieces, within its range, has a byte of the line. -/
def SillRun.holds (r : SillRun) (pa : Nat) : Bool :=
  (r.stage = .running || r.stage = .aborted || r.stage = .ending) && r.pages.any fun (va, p) =>
    let line := lineOf pa * 128
    decide (p ≤ line ∧ line < p + 65536) &&
      decide (va + (line - p) < r.rbase + r.rlen ∧ r.rbase < va + (line - p) + 128)

def State.held (s : State) (pa : Nat) : Bool := s.runs.any (·.holds pa)

/-- The 32-byte codewords that n bytes at pa touch (R285). -/
def codewords (pa n : Nat) : List Nat := upFrom (pa / 32) ((pa + n + 31) / 32 - pa / 32)

/-- Whether an uncorrectable codeword of the L2 stands in a dirty line, so that no good copy of it is left (R285). -/
def State.lostInL2 (s : State) (w : Nat) : Bool := s.l2bad.contains w && s.l2.any fun x => x.dirty && x.line = w / 4

/-- Whether a read of n bytes meets uncorrectable data (R286). -/
def State.bad (s : State) (pa n : Nat) : Bool := (codewords pa n).any fun w => s.poison.contains w || s.lostInL2 w

/-- Where the uncorrectable data lies that a read of n bytes meets. -/
def State.badAt (s : State) (pa n : Nat) : Nat := 32 * (((codewords pa n).find? fun w => s.poison.contains w || s.lostInL2 w).getD (pa / 32))

/-- Level and structure of the uncorrectable data that an access to n bytes meets: the L2 where it holds the codeword, else HBM (R285, R300). -/
def State.badCode (s : State) (pa n : Nat) : Nat × Nat := if (codewords pa n).any s.lostInL2 then (2, 0x08) else (3, 0x09)

/-- A write of whole codewords replaces those in error (R286). -/
def State.cleanse (s : State) (pa n : Nat) : State :=
  let whole (w : Nat) : Bool := decide (pa ≤ 32 * w ∧ 32 * w + 32 ≤ pa + n)
  { s with poison := s.poison.filter (!whole ·), corrupt := s.corrupt.filter (!whole ·), l2bad := s.l2bad.filter (!whole ·) }

/-- Whether a write merges into uncorrectable data (R286). -/
def State.badWrite (s : State) (pa n : Nat) : Bool := (s.cleanse pa n).bad pa n

/-- Bytes written to device memory, held at the L2 while a Sill run holds a line (R230). -/
def State.sto (s : State) (pa : Nat) (bytes : List Byte) : State :=
  if s.held pa then { s with heldWrites := s.heldWrites ++ [⟨pa, bytes, none⟩] }
  else { (s.cleanse pa bytes.length) with mem := memWrite s.mem pa bytes }

/-- A number written, n bytes long. -/
def State.stoN (s : State) (pa n v : Nat) : State := s.sto pa (leBytes v n)

/-! ### Errors (R300 to R303) and interrupts (R277) -/

/-- The temperature bin of a die's junction (R302). -/
def tempBin (t : Nat) : Nat :=
  if t < 40 then 0 else if t < 55 then 1 else if t < 70 then 2 else if t < 80 then 3
  else if t < 90 then 4 else if t < 100 then 5 else if t < 110 then 6 else 7

/-- An MCTP message of the root controller after its transport header: type, for a vendor-defined one the IANA number most significant byte first, and body (R39, log 34). -/
def Root.message (r : Root) (vendor : Bool) (body : List Byte) : List Byte :=
  (if vendor then 0x7F#8 :: (leBytes r.vpen.toNat 4).reverse else [0x05#8]) ++ body

/-- A message behind the transport header of a packet (R39). -/
def mctpPacket (ridge : Bool) (k : Nat) (b : List Byte) : List Byte := leBytes (Config.mctpHeader ridge k).toNat 4 ++ b

/-- The payload of an interrupt (R277). -/
def interruptBytes (kind die : Nat) (ctx cause : BitVec 8) (grid : Nat) : List Byte :=
  leBytes kind 1 ++ leBytes die 1 ++ [ctx, cause] ++ List.replicate 4 0 ++ leBytes grid 8

/-- An interrupt message to the sideband and, once an identity is set, to the system host adapter, unless one of its kind went for the die less than 10,000 ticks ago (R39, R277). -/
def State.interrupt (s : State) (kind die : Nat) (ctx cause : BitVec 8) (grid : Nat) : State :=
  let recent := s.root.lastIrq.any fun (k, t) => k = (kind, die) && decide (s.time < t + 10000)
  if recent then s
  else { s with
    sent := s.sent ++ [.interrupt (mctpPacket false 0 (s.root.message true (interruptBytes kind die ctx cause grid)))]
    outbox := if s.root.idset then s.outbox ++ [s.root.message true (interruptBytes kind die ctx cause grid)] else s.outbox
    root := { s.root with lastIrq := (s.root.lastIrq.filter (·.1 ≠ (kind, die))) ++ [((kind, die), s.time)] } }

/-- The scrub setting of a level 1, 2 or 3 (R303, log 24). -/
def Root.scrubOf (r : Root) (level : Nat) : Scrub := r.scrub.getD (3 - level) ⟨0, true, 0, 0⟩

/-- The entries of one log, oldest first (R300). -/
def Root.log (r : Root) (die level : Nat) : List LogEntry := r.logs.filter fun e => e.die = die && e.level = level

/-- Puts an entry into its log (R301). -/
def Root.addLog (r : Root) (e : LogEntry) : Root :=
  let mine := r.log e.die e.level
  let same := (mine.filter (·.sev = e.sev)).getLast?
  let merged := match same with
    | some n => e.sev ≤ 2 && n.struct = e.struct && n.loc = e.loc
    | none => false
  if merged then
    { r with logs := r.logs.map fun n => if some n = same then { n with count := min 65535 (n.count + 1) } else n }
  else if mine.length < 256 then { r with logs := r.logs ++ [e] }
  else if e.sev ≤ 2 then { r with dropped := bump r.dropped (e.die, e.level) 1 (2 ^ 32 - 1) }
  else match mine.find? (·.sev ≤ 2) with
    | some old => { r with logs := (r.logs.erase old) ++ [e] }
    | none => { r with dropped := bump r.dropped (e.die, e.level) 1 (2 ^ 32 - 1) }

/-- An error counted (R302), logged (R300, R301), and reported when a corrected count reaches its threshold (R303). -/
def State.logErr (s : State) (level struct sev die : Nat) (ctx cause : BitVec 8) (loc : Nat) (detail : DWord) : State :=
  let bin := tempBin (s.root.temps.getD die 0)
  let sc := s.root.scrubOf level
  let quiet := decide (1 ≤ level ∧ level ≤ 3 ∧ sev ≤ 2) && !sc.logce
  let e : LogEntry := ⟨s.timeOf die, level, struct, sev, die, bin, 1, ctx, cause, loc, detail⟩
  let r := { s.root with lifetime := bump s.root.lifetime (struct, decide (sev ≤ 2), bin) 1 (2 ^ 32 - 1) }
  let r := if quiet then r else r.addLog e
  let counts := decide (1 ≤ level ∧ level ≤ 3 ∧ sev ≤ 2)
  let r := if counts then { r with corrected := bump r.corrected (level, die) 1 (2 ^ 64) } else r
  let due := counts && sc.cethr ≠ 0 && decide (2 ^ sc.cethr ≤ countOf r.corrected (level, die))
  let r := if due then { r with corrected := r.corrected.filter (·.1 ≠ (level, die)) } else r
  let s := { s with root := r }
  if due then s.interrupt 2 die ctx cause 0 else s

/-- A codeword of HBM with a single error is corrected where it is read (R285). -/
def State.correctWord (s : State) (w : Nat) : State :=
  if s.corrupt.contains w then
    State.logErr { s with corrupt := s.corrupt.filter (· ≠ w) } 3 0x09 0 (dieOfPa (32 * w)) 0 0 (32 * w) 0
  else s

/-- The die of an entry's place (R300). -/
def dieOfLoc (level loc : Nat) : Nat :=
  match level with
  | 0 | 1 => dieOfCore (loc / 64)
  | 2 | 3 | 7 => dieOfPa loc
  | 6 => loc / 16 % 4
  | _ => 0

/-- Where uncorrectable data stands, as its log entry names it: log, structure code and LOC (R285, R300). -/
structure Spot where
  level : Nat
  struct : Nat
  loc : Nat
deriving DecidableEq, Repr

/-- Uncorrectable data among bytes of memory. -/
def State.spot (s : State) (pa n : Nat) : Spot := ⟨(s.badCode pa n).1, (s.badCode pa n).2, s.badAt pa n⟩

/-- Uncorrectable data of a core's scratch. -/
def scratchSpot (core : Nat) : Spot := ⟨1, 0x07, 64 * core⟩

/-- What a peer could not read (R53): the log of the links takes it. -/
def peerSpot : Spot := ⟨4, 0x10, 0⟩

/-- Uncorrectable data consumed by a Ridge request, the packet processor, the system streamer, a signal or another part of the Z9 that acts for no team: logged and reported (R286). -/
def State.lose (s : State) (ctx : BitVec 8) (x : Spot) : State :=
  (s.logErr x.level x.struct 3 (dieOfLoc x.level x.loc) ctx 0x31#8 x.loc 0).interrupt 2 (dieOfLoc x.level x.loc) ctx 0x31#8 0

/-- As lose, for data at a physical address. -/
def State.consumed (s : State) (ctx : BitVec 8) (pa n : Nat) : State := s.lose ctx (s.spot pa n)

/-! ### Launch records and bent entries (R61, R62) -/

/-- Fields of a launch packet at an address (R59). -/
structure LaunchPkt where
  at_ : Nat
deriving DecidableEq, Repr

def State.pk (s : State) (p : LaunchPkt) (off n : Nat) : Nat := s.ld (p.at_ + off) n

def recGX (s : State) (rec : Nat) : Nat := s.ld (rec + 32) 2
def recGY (s : State) (rec : Nat) : Nat := s.ld (rec + 34) 2
def recGZ (s : State) (rec : Nat) : Nat := s.ld (rec + 36) 2
def recBW (s : State) (rec : Nat) : Nat := s.ld (rec + 38) 1
def recBH (s : State) (rec : Nat) : Nat := s.ld (rec + 39) 1
def recScratch (s : State) (rec : Nat) : Nat := s.ld (rec + 40) 1 % 16
def recFlags (s : State) (rec : Nat) : BitVec 8 := BitVec.ofNat 8 (s.ld (rec + 41) 1)
def recRlim (s : State) (rec : Nat) : Nat := ((recFlags s rec).extractLsb' 4 2).toNat
def recNroles (s : State) (rec : Nat) : Nat := s.ld (rec + 42) 1
def recRole (s : State) (rec k : Nat) : Role :=
  let w := s.ld (rec + 44 + 4 * k) 4
  ⟨w % 256, 8 * (w / 256 % 256), w / 65536 % 2 = 1⟩
def recRoles (s : State) (rec : Nat) : List Role := (List.range (recNroles s rec)).map (recRole s rec)
def recWindow (s : State) (rec k : Nat) : Window :=
  let w := s.ld (rec + 64 + 8 * k) 8
  ⟨bitsOf w 47 17, bitsOf w 2 45 * 4096, w % 2 = 1⟩
def recEntry (s : State) (rec : Nat) : Nat := s.ld (rec + 24) 8
def recBase (s : State) (rec : Nat) : Nat := s.ld (rec + 128) 8
def recSize (s : State) (rec : Nat) : Nat := s.ld (rec + 136) 4
def recVer (s : State) (rec : Nat) : Nat := s.ld (rec + 140) 2
def recCode (s : State) (rec : Nat) : Nat := s.ld (rec + 142) 1
def recGrid (s : State) (rec : Nat) : Nat := s.ld (rec + 144) 8
def recNext (s : State) (rec : Nat) : Nat := s.ld (rec + 184) 8
def recNdone (s : State) (rec : Nat) : Nat := s.ld (rec + 192) 8
def recNbent (s : State) (rec : Nat) : Nat := s.ld (rec + 200) 8

def recSetStat (s : State) (rec : Nat) (code : BitVec 8) (done failed : Bool) : State :=
  s.stoN (rec + 152) 8 (code.toNat + (if done then 256 else 0) + (if failed then 512 else 0))

/-- The code of a bent state in its entry (R62). -/
def BentState.code : BentState → Nat
  | .wait => 0 | .req => 1 | .rsv => 2 | .cmt => 3 | .run => 4 | .saving => 5 | .saved => 6 | .done => 7 | .failed => 8

/-- Writes a bent's entry (R62). -/
def State.writeEntry (s : State) (b : Bent) : State :=
  match b.entry with
  | none => s
  | some a => (s.stoN a 8 (b.index % 2 ^ 48 + b.relaunch % 4 * 2 ^ 48 + b.st.code * 2 ^ 50)).stoN (a + 8) 8 b.record

/-- A state by its code in an entry (R62). -/
def BentState.ofCode (c : Nat) : Option BentState :=
  [BentState.wait, .req, .rsv, .cmt, .run, .saving, .saved].find? (·.code = c)

/-- A bent as the bytes of its entry give it: index, relaunch count and state (R61). A line that a Sill run holds has not taken the last write yet (R230). -/
def Bent.asWritten (s : State) (b : Bent) : Bent :=
  match b.entry with
  | none => b
  | some a =>
    if s.held a then b
    else
      let w := s.ld a 8
      { b with index := w % 2 ^ 48, relaunch := bitsOf w 48 2, st := (BentState.ofCode (bitsOf w 50 4)).getD b.st }

/-- The distributor acts on the entries as their bytes stand (R61). -/
def State.readEntries (s : State) : State := { s with bents := s.bents.map (·.asWritten s) }

/-- Replaces a bent and rewrites its entry. -/
def State.setBent (s : State) (id : Nat) (f : Bent → Bent) : State :=
  match s.bent? id with
  | none => s
  | some b => (s.modBent id f).writeEntry (f b)

/-- Whether a 512-byte slot of the launch-record area is in use (R62). -/
def State.slotUsed (s : State) (slot : Nat) : Bool :=
  let a := s.dcb.lrbase + 512 * slot
  s.grids.any (·.record = a) || s.bents.any fun b => match b.entry with
    | some e => decide (a ≤ e ∧ e < a + 512)
    | none => false

/-- Slots of the launch-record area (R62, R104). -/
def State.slots (s : State) : Nat := s.dcb.lrlen * 128

/-- The lowest free slot (R62). -/
def State.freeSlot (s : State) : Option Nat := (leastNot s.slotUsed s.slots 0).map fun k => s.dcb.lrbase + 512 * k

/-- The lowest free bent entry: in a slot already used for entries, else in a new slot (R62). -/
def State.freeEntry (s : State) : Option Nat :=
  let bases := (s.bents.filterMap (·.entry)).map fun e => e - (e - s.dcb.lrbase) % 512
  let inUse := (bases.flatMap fun b => (List.range 32).map fun k => b + 16 * k).filter fun a => !(s.bents.any (·.entry = some a))
  match inUse with
  | [] => s.freeSlot
  | a :: r => some (r.foldl min a)

/-! ### The energy of a core (R284) -/

/-- Adds to a context's counter, saturating (R284). -/
def Ctx.addEnergy (c : Ctx) (e : Nat) : Ctx :=
  if c.energy + e < 2 ^ 48 then { c with energy := c.energy + e } else { c with energy := 2 ^ 48 - 1, sticky := true }

/-- Register rows that a team holds, in registers of its groups and reserved indices. -/
def Team.rows (t : Team) : Nat := t.roles.foldl (fun n r => n + r.groups * r.vregs) 0

/-- The static energy of the microseconds that have passed, shared among the contexts resident on a core by the rows they hold (R284, log 9). -/
def State.countStatic (s : State) (core : Nat) : State :=
  let die := dieOfCore core
  let now := s.timeOf die / 1000
  let c := s.core core
  let ts := s.teams.filter (·.core = core)
  let total := ts.foldl (fun n t => n + t.rows) 0
  let e := (upFrom c.staticAt (now - c.staticAt)).foldl (fun a u => a + Config.staticEnergy die u / 64) 0
  s.modCore core fun c =>
    { c with staticAt := max c.staticAt now
             energy := ts.foldl (fun l t => bump l (t.ctx, 7) (e * t.rows / max total 1) (2 ^ 64)) c.energy }

/-- The weight of an event class; class 7 stands for static energy, which has none (R284). -/
def energyScale (cls : Nat) : Nat := if cls = 7 then 1 else Config.energyWeight cls

/-- Folds what a core has accumulated for a context (R284). -/
def State.foldEnergy (s : State) (core : Nat) (ctx : BitVec 8) : State :=
  let s := s.countStatic core
  let mine := (s.core core).energy.filter (·.1.1 = ctx)
  let e := mine.foldl (fun acc x => acc + x.2 * energyScale x.1.2) 0
  (s.modCtx ctx (·.addEnergy e)).modCore core fun c => { c with energy := c.energy.filter (·.1.1 ≠ ctx) }

/-- An event of an energy class counted on a core for a context (R284). -/
def State.useEnergy (s : State) (core : Nat) (ctx : BitVec 8) (cls n : Nat) : State :=
  s.modCore core fun c => { c with energy := bump c.energy (ctx, cls) n (2 ^ 64) }

/-! ### Code swaps (R87) -/

def codeAddr (desc i : Nat) : Nat := desc + 1024 + 64 * i

/-- LIVE and PLIVE of a code-table entry written into the page, and no other field of the Z9 (R84). -/
def State.writeLive (s : State) (desc i : Nat) (e : CodeEntry) : State := s.sto (codeAddr desc i + 48) (leBytes e.live 4 ++ leBytes e.plive 4)

/-- Writes the Z9's fields of a code-table entry into the page, SWAP clear when told (R84). -/
def State.writeCode (s : State) (desc i : Nat) (e : CodeEntry) (clearSwap : Bool) : State :=
  let a := codeAddr desc i
  let flags := if clearSwap then 0 else s.ld (a + 15) 1
  let s := s.sto a (leBytes e.base 8 ++ leBytes e.size 4 ++ leBytes e.ver.toNat 2 ++ [e.note, BitVec.ofNat 8 flags])
  let s := s.sto (a + 16) (leBytes e.pbase 8 ++ leBytes e.psize 4 ++ leBytes e.pver.toNat 2 ++ [e.pnote])
  s.sto (a + 48) (leBytes e.live 4 ++ leBytes e.plive 4)

/-- Examines one entry and swaps it if SWAP is set and PLIVE is zero (R87); an entry that holds uncorrectable data is left (R286). -/
def State.swapEntry (s : State) (ctx : BitVec 8) (i : Nat) : State :=
  match s.ctx? ctx with
  | none => s
  | some c =>
    let a := codeAddr c.desc i
    let e := c.code.getD i CodeEntry.empty
    if s.bad a 64 then s.consumed ctx a 64
    else if s.ld (a + 15) 1 % 2 = 1 ∧ e.plive = 0 then
      let e' : CodeEntry := ⟨s.ld (a + 32) 8, s.ld (a + 40) 4, BitVec.ofNat 16 (s.ld (a + 44) 2), BitVec.ofNat 8 (s.ld (a + 46) 1),
        e.base, e.size, e.ver, e.note, 0, e.live⟩
      (s.modCtx ctx fun c => { c with code := vmod c.code i fun _ => e' }).writeCode c.desc i e' true
    else s

/-- Every entry of a context examined (R87). -/
def State.swapAll (s : State) (ctx : BitVec 8) : State := (List.range 48).foldl (fun s i => s.swapEntry ctx i) s

/-- A grid's binding released: LIVE or PLIVE falls, and the table is examined when a count reaches zero (R87). -/
def State.unbind (s : State) (ctx : BitVec 8) (rec : Nat) : State :=
  match s.ctx? ctx with
  | none => s
  | some c =>
    let i := recCode s rec
    let e := c.code.getD i CodeEntry.empty
    let cur := decide (e.base = recBase s rec ∧ e.ver.toNat = recVer s rec)
    let e' := if cur then { e with live := e.live - 1 } else { e with plive := e.plive - 1 }
    let s := (s.modCtx ctx fun c => { c with code := vmod c.code i fun _ => e' }).writeLive c.desc i e'
    if (if cur then e'.live else e'.plive) = 0 then s.swapAll ctx else s

/-! ### The end of teams, bents and grids -/

/-- Whether a generic address names the scratch of a member (R176, R197). -/
def scratchMember (a : DWord) (bpos : Nat) : Bool :=
  a.extractLsb' 57 7 = 0x7F#7 && (a.extractLsb' 20 4).toNat = bpos

/-- Whether a copy reads or writes a team's scratch. -/
def State.copyTouches (s : State) (t : Team) (c : Copy) : Bool :=
  match s.team? c.ctx c.vteam with
  | some o => o.bent = t.bent && (scratchMember c.src t.bpos || scratchMember c.dst t.bpos)
  | none => false

/-! ### Weight planes (R262) -/

/-- Bits of a pass descriptor (R256). -/
def Pass.fld (p : Pass) (lo n : Nat) : Nat := bitsOf p.desc.toNat lo n

def Pass.loadw (p : Pass) : Bool := p.desc.getLsbD 18

/-- Whether a plane carries the tag of a pass: virtual team id and WTAG (R262, R263). -/
def Plane.tagged (x : Plane) (p : Pass) : Bool := x.vteam = p.vteam && x.wtag = p.desc.extractLsb' 32 16

/-- A running pass as it is scanned out (R267, R439): with the plane it computes on, unless it loads its own again from its held fragments. -/
def Pass.scanned (p : Pass) (active : Option Plane) : Pass :=
  { p with plane := if p.loadw then none else active.filter (·.tagged p) }

/-- Pending touches of ended teams leave; a page request that one of them stood for passes to the next touch of its page (R189, R190). -/
def dropTouches (gone : Touch → Bool) (l : List Touch) : List Touch :=
  let kept := l.filter fun p => !gone p
  kept.map fun p =>
    let same (q : Touch) : Bool := q.ctx = p.ctx && q.page = p.page
    match l.find? fun q => same q && q.first with
    | some q => if gone q && kept.find? same = some p then { p with first := true, appended := q.appended, at_ := q.at_ } else p
    | none => p

/-- The acknowledgements that a team has outstanding where it ends: those that wait for a peer or for a Sill run, by group (R57). -/
def Team.partsLeft (t : Team) : List (Nat × Ack) := t.groups.flatMap fun g => (g.acks.filter fun a => a.tag.isSome || !a.held.isEmpty).map fun a => (g.gidx, a)

/-- Released parts of a killed team stay with its grid until they are acknowledged (R57); its other requests are answered to nobody. -/
def State.keepParts (s : State) (t : Team) : State :=
  let left := t.partsLeft.zipIdx s.nextId
  let rec_ := match s.bent? t.bent with
    | some b => b.record
    | none => 0
  let want (r : Request) : Await := match r.want with
    | .storeAck g e =>
      if g.ctx = t.ctx ∧ g.vteam = t.vteam then
        match left.find? fun x => x.1.1 = g.gidx && x.1.2.entry = e && x.1.2.tag = some r.tag with
        | some x => .gridPart rec_ x.2
        | none => .stray
      else r.want
    | .loadPart g _ _ => if g.ctx = t.ctx ∧ g.vteam = t.vteam then .stray else r.want
    | w => w
  { s with nextId := s.nextId + left.length
           outstanding := s.outstanding.map fun r => { r with want := want r }
           grids := lmod s.grids (·.record = rec_) fun g =>
             { g with parts := g.parts ++ left.map (fun x => ⟨x.2, x.1.2.tag.isSome, x.1.2.held⟩)
                      left := if left.isEmpty then g.left else g.left ++ [⟨t.core, t.vteam, t.stackIdx, t.fused⟩] } }

/-- Whether released parts of killed teams of a grid are not acknowledged (R57). -/
def Grid.waits (s : State) (g : Grid) : Bool := g.parts.any fun p => p.out || p.held.any s.held

/-- As Grid.waits, for the grid of an origin. -/
def State.partsOut (s : State) (o : Origin) : Bool := s.grids.any fun g => g.origin = o && g.waits s

/-- What killed teams left is free once the parts of their grid are acknowledged, and the fused lines of their cores are dropped (R233, R282). -/
def State.freeLeft (s : State) : State :=
  let quiet := s.grids.filter fun g => !g.left.isEmpty && !g.waits s
  if quiet.isEmpty then s
  else
    let s := (quiet.flatMap (·.left)).foldl (fun s x => if x.fused then s.modCore x.core fun c => { c with l1 := [] } else s) s
    { s with grids := s.grids.map fun g => if g.waits s then g else { g with left := [] } }

/-- The steps of R282 for one team, which ends or is killed. -/
def State.cleanTeam (s : State) (t : Team) : State :=
  let s := s.foldEnergy t.core t.ctx
  let touch := s.copyTouches t
  let mine (c : BitVec 8) (v : BitVec 16) : Bool := c = t.ctx && v = t.vteam
  let copies (c : Core) : Core :=
    { c with copies := (c.copies.filter fun k => !touch k).map fun k =>
        if k.ctx = t.ctx && k.vteam = t.vteam then { k with orphan := true } else k }
  let engines := s.engines.map fun e =>
    { e with table := e.table.filter (fun p => !mine p.ctx p.vteam),
             running := if e.running.any (fun p => mine p.ctx p.vteam) then none else e.running,
             freeze := if e.freeze.any (fun p => mine p.ctx p.vteam) then none else e.freeze }
  let s := { s with cores := s.cores.map copies, engines := engines }
  let s := if t.fused && t.partsLeft.isEmpty then s.modCore t.core fun c => { c with l1 := [] } else s
  let bars (c : Core) : Core :=
    { c with bars := c.bars.map (fun b => b.filter fun e => !mine e.ctx e.vteam),
             convs := c.convs.map (fun b => b.filter fun e => !mine e.ctx e.vteam),
             bins := c.bins.map (fun b => b.filter fun e => !mine e.ctx e.vteam) }
  let s := s.keepParts t
  { s with cores := s.cores.map bars,
           touches := s.touches.map (dropTouches fun p => mine p.ctx p.vteam),
           cinvs := s.cinvs.filter (fun w => !mine w.r.g.ctx w.r.g.vteam),
           runs := s.runs.map (fun r => match r.origin with
             | .team c v _ => if mine c v then { r with origin := .gone } else r
             | _ => r),
           teams := s.teams.filter (fun u => !mine u.ctx u.vteam) }

/-- The greatest completion time of a team's stores, released parts included (R57). -/
def Team.wmax (t : Team) : Nat := t.groups.foldl (fun m g => g.acks.foldl (fun m a => max m a.time) (max m g.wmax)) 0

/-- The work of a consumed packet has ended, with a packet status (R57). -/
def State.endWork (s : State) (id : Nat) (code : BitVec 8) (t : Nat) : State :=
  let f (w : Work) : Work := { w with ended := true, code := (if w.code = 0 then code else w.code), relTime := max w.relTime t }
  { s with works := lmod s.works (·.id = id) f }

/-- A node of a graph has ended its body's work (R117). -/
def State.endNode (s : State) (graph node : Nat) (code : BitVec 8) (t : Nat) : State :=
  let f (n : Node) : Node := { n with ended := true, code := (if n.code = 0 then code else n.code), relTime := max n.relTime t }
  { s with graphs := lmod s.graphs (·.id = graph) fun g => { g with nodes := g.nodes.modify node f } }

/-- A grid has ended or failed: its status, its binding, its parent team and its origin are told (R57, R61, R87, R114, R117). -/
def State.endGrid (s : State) (rec : Nat) (failed : Bool) : State :=
  match s.grid? rec with
  | none => s
  | some g =>
    if g.ended then s
    else
      let code : BitVec 8 := if failed then 8#8 else 0#8
      let s := recSetStat s rec code (!failed) failed
      let s := s.unbind g.ctx rec
      let s := s.modGrid rec fun g => { g with ended := true, failed := failed }
      let drop (t : Team) : Team := { t with children := t.children.filter (· ≠ rec) }
      let dropB (b : Bent) : Bent := { b with saved := b.saved.map drop }
      let s : State := { s with teams := s.teams.map drop, bents := s.bents.map dropB }
      match g.origin with
      | .queue w => s.endWork w code g.wmax
      | .node gr n => s.endNode gr n code g.wmax

/-! ### Rectangles and pre-emption -/

/-- The cores of a rectangle in `$bpos` order from its anchor (R94). -/
def rectCores (anchor bw bh : Nat) : List Nat :=
  (List.range bh).flatMap fun y => (List.range bw).map fun x => anchor + 8 * y + x

def Bent.cores (s : State) (b : Bent) : List Nat := rectCores b.anchor (recBW s b.record) (recBH s b.record)

/-- Whether another bent commits on a core of a bent: nothing is saved from it meanwhile (R103). -/
def State.commitNear (s : State) (b : Bent) : Bool := s.bents.any fun o => o.id ≠ b.id && o.st = .cmt && (o.cores s).any (b.cores s).contains

/-- Whether a bent is of a context. -/
def State.ofContext (s : State) (ctx : BitVec 8) (b : Bent) : Bool := match s.grid? b.record with
  | some g => g.ctx = ctx
  | none => false

def Preempt.searches (p : Preempt) (die : Nat) : Bool := p.diemask.getLsbD die

/-- Cores that the selected bents held and that hold no team of the victim context once those being saved have left (R105). -/
def State.vacatedBy (s : State) (p : Preempt) : List Nat :=
  let leaves (t : Team) : Bool := p.selected.contains t.bent && s.bents.any fun b => b.id = t.bent && b.st = .saving
  (p.vacated.filter fun c => !(s.teams.any fun t => t.core = c && t.ctx = p.ctx && !leaves t)).eraseDups

/-- Whether a pre-emption waits for a commit: of a bent of the victim context, or one that keeps such a bent from being saved (R103, R105). -/
def State.preemptWaits (s : State) (p : Preempt) : Bool :=
  s.bents.any fun b => s.ofContext p.ctx b && p.searches b.die && (b.st = .cmt || (b.st = .run && s.commitNear b))

/-- The pre-emption ends when its saves have ended and nothing is waited for (R105, R106). -/
def State.endPreempt (s : State) : State :=
  match s.preempt with
  | none => s
  | some p =>
    let vac := s.vacatedBy p
    let busy := s.bents.any fun b => p.selected.contains b.id && b.st = .saving
    let more := decide (vac.length < p.ncore) && !s.dcb.nospace && s.preemptWaits p
    if busy ∨ more then s
    else { s with
      dcb := { s.dcb with busy := false, done := true, short := decide (vac.length < p.ncore), vacated := vac.length }
      preHolds := (s.preHolds.filter fun (c, _) => !vac.contains c) ++ vac.map fun c => (c, p.hprio)
      preempt := none }

/-- Every team of a bent cleaned up, and its image freed (R107, R282): copies on the scratch of any member are cancelled first. -/
def State.cleanBent (s : State) (b : Bent) : State :=
  let ts := s.teamsOf b.id ++ b.saved
  let w := ts.foldl (fun m t => max m t.wmax) 0
  let touch (k : Copy) : Bool := ts.any fun t => s.copyTouches t k
  let s : State := { s with cores := s.cores.map fun c => { c with copies := c.copies.filter fun k => !touch k } }
  let s := ts.foldl (fun s t => s.cleanTeam t) s
  let s := s.modGrid b.record fun g => { g with wmax := max g.wmax w }
  { s with saveRuns := s.saveRuns.filter (fun r => some r.1 ≠ b.image),
           dieHolds := s.dieHolds.map (fun h => if h = some b.id then none else h),
           preempt := s.preempt.map (fun p => { p with selected := p.selected.filter (· ≠ b.id) }) }

/-- Bents that are DONE or FAILED leave: their entries are free, and a free entry is zero (R61, log 40). -/
def State.dropBents (s : State) (gone : Bent → Bool) : State :=
  let s := ((s.bents.filter gone).filterMap (·.entry)).foldl (fun s e => s.sto e (List.replicate 16 0)) s
  { s with bents := s.bents.filter (!gone ·) }

/-- A failed grid ends once none of its bents is left: those in CMT finish their commit first (R97, R103). -/
def State.endFailed (s : State) (rec : Nat) : State := if s.bents.any (·.record = rec) then s else s.endGrid rec true

/-- Bents that leave for good: cleaned up and gone (R97, R282). -/
def State.leaveBents (s : State) (gone : Bent → Bool) : State := ((s.bents.filter gone).foldl (fun s b => s.cleanBent b) s).dropBents gone

/-- The grid fails: its bents are killed or leave, and the failure is reported with a die and a cause (R97, R277, R291). -/
def State.failGrid (s : State) (rec die : Nat) (cause : BitVec 8) : State :=
  match s.grid? rec with
  | none => s
  | some g =>
    if g.ended ∨ g.failed then s
    else
      let s := (s.modGrid rec fun g => { g with failed := true }).leaveBents fun b => b.record = rec && b.st ≠ .cmt
      let s : State := { s with bents := s.bents.map fun b => if b.record = rec then { b with doomed := some (cause, false) } else b }
      let s := s.endFailed rec
      (s.interrupt 3 die g.ctx cause (recGrid s rec)).endPreempt

/-- What a kill does to its bent (R61, R275, R291): its teams are cleaned up, and it is relaunched or its grid fails; a bent of a grid that has failed leaves. -/
def State.fallBent (s : State) (b : Bent) (cause : BitVec 8) (again : Bool) : State :=
  let n := (b.asWritten s).relaunch
  if (s.grid? b.record).any (·.failed) then (s.leaveBents (·.id = b.id)).endFailed b.record
  else if again && decide (n < recRlim s b.record) then
    ((s.cleanBent b).setBent b.id fun b => { b with st := .wait, relaunch := n + 1, image := none, saved := [], shot := [], yielded := false, doomed := none }).endPreempt
  else (s.modBent b.id fun b => { b with st := .run }).failGrid b.record b.die cause

/-- A kill applies to its bent, after its commit if one is in progress (R103, R291). -/
def State.applyKill (s : State) (b : Bent) (cause : BitVec 8) (mayRelaunch : Bool) : State :=
  if b.st = .cmt then s.modBent b.id fun b => { b with doomed := some (cause, mayRelaunch) } else s.fallBent b cause mayRelaunch

/-- A bent is killed (R291): the cause is logged and reported, and its kill applies, after its commit if one is in progress (R103). A grid that must fail takes no relaunch (R275). A further error of a bent that is being killed or is gone is logged and changes nothing else (R292). -/
def State.killBent (s : State) (id : Nat) (cause : BitVec 8) (level struct sev loc : Nat) (mayRelaunch : Bool) : State :=
  match s.bent? id with
  | none => s.logErr level struct sev (dieOfLoc level loc) 0 cause loc 0
  | some b =>
    match s.grid? b.record with
    | none => s.logErr level struct sev b.die 0 cause loc 0
    | some g =>
      let gridNo := recGrid s b.record
      let s := s.logErr level struct sev b.die g.ctx cause loc ((BitVec.ofNat 32 gridNo) ++ 0#32)
      if b.doomed.isSome then s
      else
        (s.interrupt 2 b.die g.ctx cause gridNo).applyKill b cause mayRelaunch

/-- Uncorrectable data is consumed by a team's instruction or engine: cause ABORT (R286, R291); for a team that is gone it is logged (R292). -/
def State.abortTeam (s : State) (ctx : BitVec 8) (v : BitVec 16) (x : Spot) : State :=
  match s.anyTeam? ctx v with
  | none => s.logErr x.level x.struct 3 (dieOfLoc x.level x.loc) ctx 0x31#8 x.loc 0
  | some t => s.killBent t.bent 0x31#8 x.level x.struct 3 x.loc true

/-- As abortTeam, for data at a physical address (R285). -/
def State.abortAt (s : State) (ctx : BitVec 8) (v : BitVec 16) (pa n : Nat) : State := s.abortTeam ctx v (s.spot pa n)

/-- A group has left when it has ended and nothing of it is in flight. -/
def Group.gone? (g : Group) : Bool := g.ended && g.sb.isEmpty && g.acks.isEmpty && g.loads.isEmpty && g.longs.isEmpty && g.failing.isEmpty

/-- A bent in RUN whose groups have all left is DONE (R97); the grid ends with its last bent. -/
def State.settleBent (s : State) (id : Nat) : State :=
  match s.bent? id with
  | none => s
  | some b =>
    let ts := s.teamsOf id
    if b.st = .run && !ts.isEmpty && ts.all (·.groups.all (·.gone?)) then
      let s := s.cleanBent b
      let s := s.dropBents (·.id = id)
      let n := recNdone s b.record + 1
      let s := s.stoN (b.record + 192) 8 n
      if n = recNbent s b.record then s.endGrid b.record false else s
    else s

/-! ### Order of strands (R128) -/

/-- Lexicographic order of positions (R9, R128). -/
def orderBefore : List (BitVec 2) → List (BitVec 2) → Bool
  | a :: x, b :: y => if a = b then orderBefore x y else decide (a.toNat < b.toNat)
  | _, _ => false

/-- The live strands of a group with their numbers (R127). -/
def Group.live (g : Group) : List (Nat × Strand) :=
  ((List.range 16).map fun k => (k, g.strand k)).filter (·.2.valid)

/-- Every strand that may wait in a group: the handler strand, and the live ones of the table (R127, R273). -/
def Group.everyone (g : Group) : List (Nat × Strand) := (g.handler.toList.map fun h => (handlerSid, h)) ++ g.live

/-- Whether the group has a strand in a wait of R173, the handler strand among them. -/
def Group.deadWaits (g : Group) : Bool := g.everyone.any fun x => x.2.why ≠ 0

/-- The lanes that a strand holds back from later ones: those of its MASK and of the arms that it has folded (R132, R137, R141). -/
def Group.lanesOfStrand (g : Group) (k : Nat) (st : Strand) : Mask :=
  g.folds.foldl (fun m f => if f.sid = k then m ||| f.tmask ||| f.nmask else m) st.mask

/-- Lanes of the live strands earlier than a position (R128). -/
def Group.lanesBefore (g : Group) (pos : List (BitVec 2)) : Mask :=
  g.live.foldl (fun m (k, o) => if orderBefore o.order pos then m ||| g.lanesOfStrand k o else m) 0#32

/-- Lanes in the live strands earlier than a strand: the lanes that are held or gated (R141, R143). -/
def Group.earlierLanes (g : Group) (st : Strand) : Mask := g.lanesBefore st.order

/-- Whether a live earlier strand shares a lane with the strand (R138, R144). -/
def Group.sharesEarlier (g : Group) (st : Strand) : Bool := (g.earlierLanes st &&& st.mask) != 0#32

/-- Whether the strand is the earliest live one of its group (R129). -/
def Group.earliest (g : Group) (st : Strand) : Bool := !(g.live.any fun (_, o) => orderBefore o.order st.order)

/-- Whether a strand is ready, as far as it has been looked at (R127): a waiting one whose hold may have ended counts. -/
def Strand.isReady (st : Strand) : Bool := st.state = .ready || (st.state = .waiting && st.look)

/-- Waiting strands are to look again at what holds them (R127, log 3). -/
def Group.wake (g : Group) : Group :=
  let one (k : Nat) (st : Strand) : Strand :=
    if st.state = .waiting && !g.record.fset.getLsbD k && !st.rel.any (!·.fence) then { st with look := true } else st
  { g with strands := Vector.ofFn fun i => one i.val g.strands[i] }

/-- What time does to a strand (R145, R148): one that is not ready stands in its last unready cycle, and idle cycles do not count for a ready one. -/
def Strand.passTime (st : Strand) (cycle idle : Nat) : Strand := { st with readyAt := if st.isReady then st.readyAt + idle else cycle }

/-- What time does to a group (R145, R148, R174): its watchdog counts the ticks in which it runs and a strand is in a wait of R173. -/
def Group.passTime (g : Group) (runs : Bool) (cycle idle ticks : Nat) : Group :=
  { g with watch := if runs && g.deadWaits then g.watch + ticks else g.watch
           strands := g.strands.map (·.passTime cycle idle), handler := g.handler.map (·.passTime cycle idle) }

/-- Live strands of a group whose state is one of some, in order position. -/
def Group.inOrder (g : Group) (sel : Strand → Bool) : List (Nat × Strand) :=
  (g.live.filter fun x => sel x.2).foldl (fun l d =>
    (l.takeWhile fun x => orderBefore x.2.order d.2.order) ++ [d] ++ (l.dropWhile fun x => orderBefore x.2.order d.2.order)) []

/-- Ready strands of a group in order position (R127). -/
def Group.readyOrder (g : Group) : List (Nat × Strand) := g.inOrder (·.state = .ready)

/-- What an issue counts for the choice of strands: the fairness timer where the earliest ready strand issues before another (R146), and the cycles left of a priority or a YIELD (R146, R356). -/
def Group.countIssue (g : Group) (sid : Nat) : Group :=
  let others := g.readyOrder.filter (·.1 ≠ sid)
  let first := !others.isEmpty && others.all fun x => orderBefore (g.strand sid).order x.2.order
  { g with
    fair := if first then g.fair + 1 else g.fair
    fairLast := if first then sid else g.fairLast
    fairFor := g.fairFor - 1
    strands := g.strands.map fun st => { st with yieldFor := st.yieldFor - 1 } }

/-- The digit 2 at place k after prefix q removed. -/
def dropDigit (q : List (BitVec 2)) (o : List (BitVec 2)) : List (BitVec 2) :=
  if q ++ [2#2] = o.take (q.length + 1) then q ++ o.drop (q.length + 1) else o

/-- Whether a position begins with a prefix. -/
def beginsWith (q o : List (BitVec 2)) : Bool := o.take q.length = q

/-- A prefix at which R128 collapses, if one is left. -/
def collapseAt (os : List (List (BitVec 2))) : Option (List (BitVec 2)) :=
  let cands := os.flatMap fun o => (List.range o.length).filterMap fun k => if o[k]? = some 2#2 then some (o.take k) else none
  cands.find? fun q => !(os.any fun o => beginsWith (q ++ [0#2]) o || beginsWith (q ++ [1#2]) o)

/-- Collapses of R128 until none applies. Each takes a digit away, so fuel bounds them. -/
def Group.collapse : Nat → Group → Group
  | 0, g => g
  | n + 1, g =>
    match collapseAt (g.live.map (·.2.order)) with
    | none => g
    | some q => Group.collapse n { g with
        strands := g.strands.map fun st => if st.valid then { st with order := dropDigit q st.order } else st
        sb := g.sb.map fun e => { e with order := dropDigit q e.order } }

/-! ### Traps (R269 to R275) -/

/-- A fault or trap about to be taken: its cause and what its fault entry records (R271). -/
structure Trap where
  cause : BitVec 8
  lanes : Mask := 0
  faddr : DWord := 0
  lcause : BitVec 128 := 0
  detail : Nat := 0
  /-- the address that could not be fetched (R271 FETCHRANGE) -/
  pc : Option DWord := none
  la : BitVec 4 := 0
  /-- the wait of a dead-wait trap (R175) -/
  why : DWord := 0
deriving DecidableEq, Repr

/-- Entry 47 of the code table of a context: the handler image (R273). -/
def State.handlerCode (s : State) (ctx : BitVec 8) : CodeEntry :=
  match s.ctx? ctx with
  | some c => c.code.getD 47 CodeEntry.empty
  | none => CodeEntry.empty

/-- The bent ends with cause DOUBLE and its grid fails (R275). -/
def State.doubleTrap (s : State) (r : GroupRef) : State :=
  match s.team? r.ctx r.vteam with
  | none => s
  | some t => s.killBent t.bent 0x32#8 0 0 3 (64 * t.core) false

/-- Kind of a cause (R269): whether return executes the instruction again, goes past it, or names none. -/
inductive TrapKind where
  | f | a | x | g | k
deriving DecidableEq, Repr

def trapKind (cause : BitVec 8) : TrapKind :=
  match cause.toNat with
  | 0x20 | 0x21 => .x
  | 0x22 | 0x23 => .a
  | 0x24 => .g
  | 0x30 | 0x31 | 0x32 => .k
  | _ => .f

/-- The first entry opens the group's trap (R272). -/
def FaultRecord.open (rec : FaultRecord) (cause : BitVec 8) (primary : Nat) (time : Nat) : FaultRecord :=
  { rec with gcause := cause, primary := BitVec.ofNat 4 primary, time := BitVec.ofNat 64 time }

/-- How many of the instructions that a strand has issued its skips stand before, since a raised fault took it back to its instruction. -/
def Group.takenBack (g : Group) (sid : Nat) : Nat :=
  g.failing.foldl (fun m f => if f.sid = sid && f.raised then max m (f.issuedAfter + 1) else m) 0

/-- Whether the strand need not execute again the instruction that stands k + 1 after one after which n have issued (R151): it has issued and not failed its own checks, or a flag of an earlier return still stands for it. -/
def Group.performed (g : Group) (sid n k : Nat) : Bool :=
  let front := n - g.takenBack sid
  if k < front then !(g.failing.any fun f => f.sid = sid && decide (n - f.issuedAfter = k + 1))
  else (g.strand sid).skips.getD (k - front) false

/-- The shadow mask of an instruction after which n instructions have issued (R151). -/
def Group.shadowOf (g : Group) (sid n la : Nat) : BitVec 15 :=
  BitVec.ofNat 15 ((List.range la).foldl (fun m k => if g.performed sid n k then m + 2 ^ k else m) 0)

/-- The skips of a strand taken back to an instruction after which n have issued: none for it, those of its window, and what an earlier return left beyond (R151). -/
def Group.skipsFrom (g : Group) (sid n la : Nat) : List Bool :=
  let front := n - g.takenBack sid
  false :: ((List.range la).map (g.performed sid n)) ++ List.replicate (front - la) false ++ (g.strand sid).skips.drop (la - front)

/-- The shadow mask of the instruction at which a strand stands: flags of an earlier return (R151). -/
def Strand.shadowHere (st : Strand) (la : Nat) : BitVec 15 :=
  BitVec.ofNat 15 ((List.range la).foldl (fun m k => if st.skips.getD (k + 1) false then m + 2 ^ k else m) 0)

/-- The earliest issued instruction of a strand that has failed its checks and whose fault has not been raised. -/
def Group.firstFailing (g : Group) (sid : Nat) : Option Failing :=
  (g.failing.filter fun f => f.sid = sid && !f.raised).foldl (fun o f => match o with
    | some x => if x.issuedAfter < f.issuedAfter then some f else some x
    | none => some f) none

/-- The entry that a fault at an address gives its strand, with the skips from its instruction on: that of the earliest issued instruction that has failed its checks, if one stands at or before the address (R151, R272). -/
def Group.firstEntry (g : Group) (sid : Nat) (e : FaultEntry) : FaultEntry × List Bool :=
  match g.firstFailing sid with
  | some f =>
    if f.entry.pc.toNat ≤ e.pc.toNat then
      ({ f.entry with shadow := g.shadowOf sid f.issuedAfter f.entry.la.toNat }, g.skipsFrom sid f.issuedAfter f.entry.la.toNat)
    else (e, (g.strand sid).skips)
  | none => (e, (g.strand sid).skips)

/-- A fault or trap of a strand: TAKING AN EXCEPTION (R272, R275). The handler strand's own, and one without a handler image, end the bent as DOUBLE. Otherwise the strand stops with its fault entry written, the earlier address winning, and the group's trap opens and drains unless it is open already. -/
def State.takeTrap (s : State) (r : StrandRef) (t : Trap) : State :=
  if r.handler || (s.handlerCode r.g.ctx).base = 0 then s.doubleTrap r.g
  else
    let now := match s.team? r.g.ctx r.g.vteam with
      | some tm => s.timeOf (dieOfCore tm.core)
      | none => s.time
    s.modGroup r.g fun g =>
      let st := g.strand r.sid
      let own : FaultEntry := ⟨t.pc.getD st.pc, t.cause, t.la, st.shadowHere t.la.toNat, t.lanes, t.faddr, t.lcause, BitVec.ofNat 64 t.detail⟩
      let (e, skips) := g.firstEntry r.sid own
      let late := t.pc.isSome && t.cause ≠ 0x08#8 || decide (e ≠ own)
      let old := g.record.fset.getLsbD r.sid
      let keep := old && decide ((g.record.faults.getD r.sid FaultEntry.zero).pc.toNat ≤ e.pc.toNat)
      let rec1 := if keep then g.record
        else { g.record with fset := g.record.fset ||| (1#16 <<< r.sid), faults := vmod g.record.faults r.sid fun _ => e }
      let rec2 := if g.trap = .none then rec1.open e.cause r.sid now else rec1
      let g := g.modStrand r.sid fun st =>
        { st with state := match st.state with
                    | .ended => .ended
                    | .waiting => if late then .waiting else .ready
                    | .ready | .parked => .ready
                  pc := if keep || e.cause = 0x08#8 then st.pc else e.pc
                  skips := if keep then st.skips else skips
                  park := none, rel := none, why := t.why }
      { g with record := rec2
               failing := g.failing.map fun f => if f.sid = r.sid then { f with raised := true } else f
               trap := if g.trap = .none then .draining else g.trap
               trapAt := if g.trap = .none then s.cycle else g.trapAt }

/-- A trap of the whole group, kind G (R272): no entry is written and the drain starts at once. -/
def State.takeGroupTrap (s : State) (r : GroupRef) (cause : BitVec 8) : State :=
  if (s.handlerCode r.ctx).base = 0 then s.doubleTrap r
  else
    let now := match s.team? r.ctx r.vteam with
      | some tm => s.timeOf (dieOfCore tm.core)
      | none => s.time
    s.modGroup r fun g =>
      if g.trap = .none then { g with record := g.record.open cause 0 now, trap := .draining, trapAt := s.cycle } else g

/-- STATE codes of R126. -/
def StrandState.code : StrandState → Nat
  | .ready => 0 | .waiting => 1 | .parked => 2 | .ended => 3

/-- ORDER of a strand as R126 packs its digits. -/
def packOrder (o : List (BitVec 2)) : Word :=
  (o.zipIdx 1).foldl (fun w (d, i) => w ||| ((d.zeroExtend 32) <<< (30 - 2 * i))) 0#32

/-- A snapshot of a strand-table entry (R271 TREE). -/
def Strand.tree (st : Strand) : TreeEntry :=
  if st.valid then
    ⟨BitVec.ofNat 64 (st.pc.toNat % 2 ^ 57 + st.order.length * 2 ^ 57 + st.state.code * 2 ^ 61 + 2 ^ 63), st.mask, packOrder st.order⟩
  else ⟨0, 0, 0⟩

/-- The granule that a parked load waits for: that of its lowest lane not yet performed (R175, R198). -/
def Group.awaited (g : Group) (st : Strand) : Nat :=
  match st.park with
  | some (.granule id) => match (g.loads.find? (·.id = id)).bind fun l => l.parts.find? (·.st = .gated) with
    | some p => match p.target with
      | .scratch m o => m * 2 ^ 20 + o / 16 * 16
      | _ => 0
    | none => 0
  | _ => 0

/-- A dead-wait descriptor with its strand number and, for an event set, EM (R175). -/
def Group.waitWord (g : Group) (sid : Nat) (st : Strand) : Option DWord :=
  if st.why = 0 then none
  else
    let em := if st.why.extractLsb' 60 4 = 2#4 then (g.em.zeroExtend 64) <<< 16 else 0
    some (st.why ||| em ||| BitVec.ofNat 64 (g.awaited st) ||| (BitVec.ofNat 64 sid <<< 56))

/-- Handler entry (R271, R273): TREE and WAIT are taken, and the handler strand starts at BASE of entry 47 with every lane that has not left. -/
def Group.enterHandler (g : Group) (base : Nat) (size : Nat) (all : Mask) : Group :=
  let waits := g.live.filterMap fun (k, st) => g.waitWord k st
  { g with
    record := { g.record with
      tree := Vector.ofFn fun i => (g.strands[i]).tree
      waits := Vector.ofFn fun i => waits.getD i.val 0 }
    trap := .handling
    failing := g.failing.filter (!·.raised)
    repc := 0
    handler := some { Strand.free with valid := true, pc := BitVec.ofNat 64 base, mask := all &&& ~~~g.gone }
    sup := Vector.replicate 12 0
    hbase := base
    hsize := size }

/-- The skips that a kind-F return gives (R151): none for the instruction itself, LA flags, and beyond them what an earlier return has left. -/
def FaultEntry.skips (e : FaultEntry) (left : List Bool) : List Bool :=
  if e.shadow = 0 ∧ left = [] then [] else false :: ((List.range e.la.toNat).map fun i => e.shadow.getLsbD i) ++ left.drop (e.la.toNat + 1)

/-- One strand of a resumed group (R275): by its entry, unless STRLOAD has given it a new PC. len is the length of its instruction in bytes. -/
def Group.resumeStrand (g : Group) (sid : Nat) (len : DWord) : Group :=
  if !g.record.fset.getLsbD sid then g
  else
    let e := g.record.faults.getD sid FaultEntry.zero
    g.modStrand sid fun st =>
      let st := { st with why := 0 }
      if g.repc.getLsbD sid then { st with pc := e.pc, skips := [], arrived := false, placed := 0 }
      else match trapKind e.cause with
        | .a => { st with pc := st.pc + len, skips := st.skips.drop 1 }
        | .f => { st with pc := if e.cause = 0x08#8 then st.pc else e.pc, skips := e.skips st.skips }
        | _ => { st with pc := e.pc, spilled := e.cause = 0x20#8 }

/-- RETURN FROM AN EXCEPTION, the form resume (R275): every strand with an entry resumes, every stop is cleared, the record is zeroed and supervisor mode ends. A kind-A instruction is one word long. -/
def Group.resume (g : Group) : Group :=
  let g := (List.range 16).foldl (fun g k => g.resumeStrand k 4) g
  { g with record := FaultRecord.zero, trap := .none, repc := 0, handler := none, sup := Vector.replicate 12 0 }

end Sys2Proof.Machine
end

