-- ==== Sys2Proof/Machine/Links.lean ====
section
/-! DEFINITION. Ridge transactions as slots (R25) and flits (R21, R22), and their sending. How transactions are laid into flits and which port carries them is the model's choice (log 39); credits never hold a flit back, because R22 gives no credits to begin with (log 71). -/
namespace Sys2Proof.Machine

def Txn.zero : Txn := ⟨0, 0, 0, 0, 0, 0, 0, 0, 0, 0, 0, 0, []⟩

/-! ### Slots (R25) -/

/-- The header slot of a transaction. -/
def txnHeader (t : Txn) : List Byte :=
  leBytes (t.dst ++ t.src ++ t.vc ++ t.op ++ t.tag ++ t.ndata ++ t.rsv0).toNat 8 ++ leBytes (t.ctx ++ t.rsv1 ++ t.addr).toNat 8
    ++ leBytes t.dw2.toNat 8 ++ leBytes t.dw3.toNat 8

/-- A transaction from its header slot and its data. -/
def txnOf (h : List Byte) (data : List Byte) : Txn :=
  let a : DWord := BitVec.ofNat 64 (leNat (h.take 8))
  let b : DWord := BitVec.ofNat 64 (leNat ((h.drop 8).take 8))
  ⟨a.extractLsb' 54 10, a.extractLsb' 44 10, a.extractLsb' 41 3, a.extractLsb' 35 6, a.extractLsb' 23 12, a.extractLsb' 19 4, a.extractLsb' 0 19,
   b.extractLsb' 56 8, b.extractLsb' 48 8, b.extractLsb' 0 48, BitVec.ofNat 64 (leNat ((h.drop 16).take 8)), BitVec.ofNat 64 (leNat ((h.drop 24).take 8)), data⟩

/-- Bytes in slots of 32, the last one filled with zeros. -/
def slotsOf : Nat → List Byte → List (List Byte)
  | 0, _ => []
  | n + 1, b => if b.isEmpty then [] else (b ++ List.replicate 31 0).take 32 :: slotsOf n (b.drop 32)

def txnSlots (t : Txn) : List (List Byte) := txnHeader t :: slotsOf t.data.length t.data

/-- Flits that a transaction takes, of seven slots each (R21, R25). -/
def txnFlits (t : Txn) : Nat := ((txnSlots t).length + 6) / 7

/-! ### Flits (R21, R22) -/

/-- The header doubleword of a flit. -/
def flitHeader (seq ack : BitVec 12) (kind : BitVec 2) (cvc : BitVec 3) (cred : BitVec 8) : List Byte :=
  leBytes (seq ++ ack ++ kind ++ cvc ++ cred ++ 0#27).toNat 8

/-- A whole flit from its header and at most seven slots. -/
def flitOf (header : List Byte) (slots : List (List Byte)) : List Byte :=
  let body := header ++ ((slots.flatten) ++ List.replicate 224 0).take 224
  let checked := body ++ leBytes (Config.crc64 body).toNat 8
  checked ++ leBytes (Config.fecParity checked).toNat 16

/-- Whether 256 bytes are a flit whose parity is right. -/
def fecWhole (b : List Byte) : Bool := b.length = 256 && b.drop 240 = leBytes (Config.fecParity (b.take 240)).toNat 16

/-- A flit whose parity is right that differs from some bytes in at most e of them, the fewest first. -/
def fecSearch : (e : Nat) → List Byte → Option (List Byte)
  | 0, b => if fecWhole b then some b else none
  | e + 1, b => (fecSearch e b).or ((List.range 256).findSome? fun i => (List.range 256).findSome? fun x => fecSearch e (b.set i (BitVec.ofNat 8 x)))

/-- The forward error correction: up to eight byte errors (R21). -/
def fecCorrect (b : List Byte) : Option (List Byte) := fecSearch 8 b

/-- The kinds of flit (R22): KIND 0b00, 0b01 and 0b10. -/
inductive FlitKind where
  | transaction | control | idle
deriving DecidableEq, Repr

def FlitKind.code : FlitKind → BitVec 2
  | .transaction => 0
  | .control => 1
  | .idle => 2

/-- The virtual channel whose credits the next flit returns, with their number (R22). -/
def Port.credit (p : Port) : Nat × Nat :=
  match (List.range 8).find? fun v => decide (0 < p.owed.getD v 0) with
  | some v => (v, min 255 (p.owed.getD v 0))
  | none => (0, 0)

/-- One flit sent on a port (R22, R23): it acknowledges what came in order and returns credits. -/
def State.sendFlit (s : State) (k : Nat) (kind : FlitKind) (slots : List (List Byte)) : State :=
  let p := s.ports.getD k Port.reset
  let (vc, n) := p.credit
  let b := flitOf (flitHeader p.txSeq (p.rxExpect - 1) kind.code (BitVec.ofNat 3 vc) (BitVec.ofNat 8 n)) slots
  let q : Port := { p with txSeq := p.txSeq + 1, owed := vmod p.owed vc (· - n), replay := (p.replay ++ [(p.txSeq, b)]).drop (p.replay.length - 511) }
  { s with ports := vmod s.ports k fun _ => q, sent := s.sent ++ [.flit k b] }

/-- Slots sent in flits of seven. -/
def State.sendSlots (k : Nat) : Nat → List (List Byte) → State → State
  | 0, _, s => s
  | n + 1, l, s => if l.isEmpty then s else State.sendSlots k n (l.drop 7) (s.sendFlit k .transaction (l.take 7))

/-- The port that a transaction leaves by: the lowest that is up, so that one that retrains keeps its order (R24, R27). -/
def State.outPort (s : State) : Option Nat := (List.range 24).find? fun k => (s.ports.getD k Port.reset).up

/-- The flits of a transaction sent on a port, which notes what the other end owes it: the credits of its slots, and an acknowledgement of the flit in which it ends (R22). -/
def State.sendOn (s : State) (k : Nat) (t : Txn) : State :=
  let l := txnSlots t
  let s := State.sendSlots k l.length l s
  { s with ports := vmod s.ports k fun p => { p with used := vmod p.used t.vc.toNat (· + l.length), unacked := p.unacked ++ [(p.txSeq - 1, t)] } }

/-- A transaction sent: one that finds its port retraining leaves when the port is ready again (R24, R27), and with no port up it is lost. -/
def State.sendTxn (s : State) (t : Txn) : State :=
  match s.outPort with
  | none => s
  | some k =>
    let s : State := { s with sent := s.sent ++ [.ridge t] }
    if (s.ports.getD k Port.reset).training then { s with ports := vmod s.ports k fun p => { p with held := p.held ++ [t] } } else s.sendOn k t

/-- What a port held while it retrained goes out (R24, R27). -/
def State.sendHeld (s : State) (k : Nat) : State :=
  (s.ports.getD k Port.reset).held.foldl (fun s t => s.sendOn k t) { s with ports := vmod s.ports k fun p => { p with held := [] } }

/-- Whether a sequence number is not above another, modulo 4,096 (R22). -/
def seqLe (a b : BitVec 12) : Bool := decide ((b - a).toNat < 2048)

/-- The header of a received flit: what it acknowledges has arrived, and its credits come back (R22). -/
def Port.acknowledge (p : Port) (ack : BitVec 12) (cvc cred : Nat) : Port :=
  { p with unacked := p.unacked.filter fun x => !seqLe x.1 ack, used := vmod p.used cvc (· - cred) }

end Sys2Proof.Machine
end

