-- ==== Sys2Proof/Machine/Caches.lean ====
section
/-! DEFINITION. Leases and lines of the L1 and the L2 (R199 to R203, R210 to R216), the hotness measurement that the L2 misses feed (R204), and the sampling of L1 misses (R207). -/
namespace Sys2Proof.Machine

/-- Who makes an access: its context, its core, the die it walks on when it has no core (R466), and the launch record of its grid (R99). -/
structure Who where
  ctx : BitVec 8
  core : Option Nat := none
  die : Option Nat := none
  record : Option Nat := none
deriving DecidableEq, Repr

/-- Replacement class of a cache hint: evict-first, normal, evict-last (R200, R312). -/
def hintClass (h : BitVec 2) : Nat :=
  match h.toNat with
  | 1 => 0 | 2 => 2 | _ => 1

/-- The victim of a set: least recently used of the weakest class (R200). -/
def victimOf (ways : List (Nat × Nat × Nat)) : Option Nat :=
  let cls := ways.foldl (fun m w => min m w.2.1) 3
  let weak := ways.filter (·.2.1 = cls)
  match weak with
  | [] => none
  | w :: r => some (r.foldl (fun b x => if x.2.2 < b.2.2 then x else b) w).1

/-! ### Hotness (R204) -/

def hashMul (j : Nat) : Nat :=
  match j with
  | 0 => 0x9E3779B1 | 1 => 0x85EBCA77 | 2 => 0xC2B2AE3D | _ => 0x27D4EB2F

/-- h_j of R204. -/
def sketchSlot (j f : Nat) : Nat := bitsOf (f * hashMul j % 2 ^ 32) 21 11

/-- Key of a page (R204). -/
def pageKey (ctx : BitVec 8) (page : Nat) : Nat := ctx.toNat * 2 ^ 41 + page

/-- The smallest listed page: least estimate, lowest key among equals (R204). -/
def smallestHot (l : List HotPage) : Option HotPage :=
  match l with
  | [] => none
  | p :: r => some (r.foldl (fun b x => if x.est < b.est ∨ (x.est = b.est ∧ x.key < b.key) then x else b) p)

/-- One counted request of a page (R204). -/
def Hot.count (h : Hot) (f die : Nat) : Hot :=
  let rows := (List.range 4).foldl (fun r j => bump r (j, sketchSlot j f) 1 65535) h.rows
  let e := (List.range 4).foldl (fun m j => min m (countOf rows (j, sketchSlot j f))) 65535
  let fresh : HotPage := ⟨f, e, Vector.replicate 4 0⟩
  let list :=
    if h.list.any (·.key = f) then lmod h.list (·.key = f) fun p => { p with est := e }
    else if h.list.length < 256 then h.list ++ [fresh]
    else match smallestHot h.list with
      | some p => if p.est < e then (h.list.erase p) ++ [fresh] else h.list
      | none => h.list
  { h with rows := rows, list := lmod list (·.key = f) fun p => { p with die := vmod p.die die fun c => min 65535 (c + 1) } }

/-- A request that reaches a stack controller is counted with MODE bit 0 set (R204), and raises the grid's affinity (R99). -/
def State.stackRequest (s : State) (ctx : BitVec 8) (page die pa : Nat) (rec : Option Nat) : State :=
  let k := stackOfPa pa
  let s := if s.mcb.mode.getLsbD 0 then { s with hot := vmod s.hot k fun h => h.count (pageKey ctx page) die } else s
  match rec with
  | none => s
  | some r => s.stoN (r + 160 + 2 * k) 2 (min 65535 (s.ld (r + 160 + 2 * k) 2 + 1))

/-! ### The L2 -/

/-- Home slice of a line (R202). -/
def sliceOf (pa : Nat) : Nat :=
  (bitsOf pa 7 5) ^^^ (bitsOf pa 12 5) ^^^ (bitsOf pa 17 5) ^^^ (bitsOf pa 22 5) ^^^ (bitsOf pa 27 5) ^^^ (bitsOf pa 32 5) ^^^ (bitsOf pa 37 3)

/-- The set of a line among all dies and slices (R202). -/
def l2Set (pa : Nat) : Nat := (dieOfPa pa * 32 + sliceOf pa) * 1024 + bitsOf pa 7 10

def State.l2Line? (s : State) (pa : Nat) : Option L2Line := s.l2.find? (·.line = lineOf pa)

def State.modL2 (s : State) (pa : Nat) (f : L2Line → L2Line) : State := { s with l2 := lmod s.l2 (·.line = lineOf pa) f }

/-- The folded lease maximum of a set (R212). -/
def State.es (s : State) (pa : Nat) : Nat := countOf s.l2es (l2Set pa)

/-- The uncorrectable codewords of a line of the L2. -/
def State.badOf (s : State) (x : L2Line) : List Nat := s.l2bad.filter fun w => w / 4 = x.line

/-- Uncorrectable codewords of a dirty line that is written back: DRAM takes a check pattern that every read detects, and the error is reported (R287). -/
def State.spoil (s : State) (x : L2Line) : State :=
  (s.badOf x).foldl (fun s w => (s.logErr 2 0x08 4 (dieOfPa (32 * w)) x.ctx 0 (32 * w) 0).interrupt 2 (dieOfPa (32 * w)) x.ctx 0 0)
    { s with l2bad := s.l2bad.filter fun w => w / 4 ≠ x.line, poison := s.poison ++ s.badOf x }

/-- A clean line with an uncorrectable codeword is dropped and read again (R285). -/
def State.renewL2 (s : State) (x : L2Line) : State :=
  if x.dirty ∨ (s.badOf x).isEmpty then s
  else State.stackRequest (State.logErr { s with l2bad := s.l2bad.filter fun w => w / 4 ≠ x.line } 2 0x08 1 (dieOfPa (128 * x.line)) x.ctx 0 (128 * x.line) 0)
    x.ctx x.page (dieOfPa (128 * x.line)) (128 * x.line) none

/-- A line leaves the L2: an unexpired lease folds into ES, and a dirty line is written back (R204, R212, R287). -/
def State.dropL2 (s : State) (x : L2Line) : State :=
  let s := if x.dirty then s.spoil x else { s with l2bad := s.l2bad.filter fun w => w / 4 ≠ x.line }
  let pa := x.line * 128
  let e := max x.e1 x.e2
  let s := { s with l2 := s.l2.filter (·.line ≠ x.line) }
  let s := if s.timeOf (dieOfPa pa) < e then
      { s with l2es := (s.l2es.filter (·.1 ≠ l2Set pa)) ++ [(l2Set pa, max e (s.es pa))] }
    else s
  if x.dirty then s.stackRequest x.ctx x.page (dieOfPa pa) pa none else s

/-- Room made in the set of a line that is about to enter (R200, R202). -/
def State.roomL2 (s : State) (pa : Nat) : State :=
  let mine := s.l2.filter fun x => l2Set (x.line * 128) = l2Set pa
  if mine.length < 16 then s
  else match victimOf (mine.map fun x => (x.line, x.cls, x.used)) with
    | none => s
    | some v => match mine.find? (·.line = v) with
      | some x => s.dropL2 x
      | none => s

/-- A line is used at its home slice: it enters on a miss, which the stack controller sees (R202, R204, R211). -/
def State.useL2 (s : State) (w : Who) (pa va : Nat) (cls : Nat) : State :=
  match s.l2Line? pa with
  | some x => (s.renewL2 x).modL2 pa fun y => { y with used := s.cycle, cls := max x.cls cls, ctx := w.ctx, page := va / 65536 }
  | none =>
    let s := (upFrom (4 * lineOf pa) 4).foldl State.correctWord (s.roomL2 pa)
    let die := match w.core with
      | some c => dieOfCore c
      | none => w.die.getD (dieOfPa pa)
    let s := s.stackRequest w.ctx (va / 65536) die pa w.record
    let s := match w.core with
      | some c => s.useEnergy c w.ctx 5 1
      | none => s
    let e := s.es pa
    { s with l2 := s.l2 ++ [⟨lineOf pa, w.ctx, va / 65536, false, cls, s.cycle, 256, e, none, e, []⟩] }

/-- A grant of the line to a core at device time t (R210, R211, R212): the expiry. A core that holds the newest data renews, which doubles the length first (log 25). -/
def State.grant (s : State) (core pa t : Nat) : State × Nat :=
  match s.l2Line? pa with
  | none => (s, t + 256)
  | some x =>
    let len := if x.fresh.contains core then min 2048 (2 * x.len) else x.len
    let e := t + len
    let y : L2Line :=
      if x.c1 = some core then { x with e1 := max x.e1 e }
      else if x.e1 ≤ e then { x with e1 := e, c1 := some core, e2 := max x.e1 x.e2 }
      else { x with e2 := max x.e2 e }
    (s.modL2 pa fun _ => { y with len := len, fresh := if x.fresh.contains core then x.fresh else core :: x.fresh }, e)

/-- Completion time of a store part from a core, or of a write from elsewhere, applied at device time t (R212). -/
def State.completion (s : State) (core : Option Nat) (pa t : Nat) : Nat :=
  match s.l2Line? pa with
  | none => max t (s.es pa)
  | some x => max (max t (if x.c1.isSome && x.c1 = core then x.e2 else x.e1)) (s.es pa)

/-- A store or atomic that finds an unexpired lease of another core halves the lease length (R211). -/
def L2Line.halve (x : L2Line) (core : Option Nat) (t : Nat) : L2Line :=
  let e := if x.c1.isSome && x.c1 = core then x.e2 else x.e1
  { x with len := if t < e then max 32 (x.len / 2) else x.len }

/-- What a store or atomic does to the lease length and the grants of its line (R211). -/
def State.storeLine (s : State) (core : Option Nat) (pa t : Nat) : State :=
  s.modL2 pa fun x => { x.halve core t with dirty := true, fresh := [] }

/-- An atomic that changes nothing takes its place at the home slice (R211, R224). -/
def State.touchHome (s : State) (w : Who) (core : Option Nat) (pa va cls : Nat) : State :=
  (s.useL2 w pa va cls).modL2 pa (·.halve core (s.timeOf (dieOfPa pa)))

/-- A write applied at the home slice of its line: the completion time W (R212, R215). A line that a Sill run holds is not cached (R229). -/
def State.writeHome (s : State) (w : Who) (core : Option Nat) (pa va : Nat) (bytes : List Byte) (cls : Nat) : State × Nat :=
  let t := s.timeOf (dieOfPa pa)
  if s.held pa then (s.sto pa bytes, t)
  else
    let s := s.useL2 w pa va cls
    let wt := s.completion core pa t
    ((s.storeLine core pa t).sto pa bytes, wt)

/-- The latest lease expiry on a line (R208, R229). -/
def State.lastLease (s : State) (pa : Nat) : Nat :=
  match s.l2Line? pa with
  | some x => max (max x.e1 x.e2) (s.es pa)
  | none => s.es pa

/-! ### The L1 -/

/-- The core whose L1 caches a line for a team: its own, or for a fused bent the member that R201 names. -/
def State.l1Core (s : State) (t : Team) (pa : Nat) : Nat :=
  if t.fused then
    let n := t.members.length
    match s.member? t.bent (((bitsOf pa 7 16) ^^^ (bitsOf pa 23 16)) % max n 1) with
    | some m => m.core
    | none => t.core
  else t.core

def Core.l1? (c : Core) (pa : Nat) : Option L1Line := c.l1.find? (·.line = lineOf pa)

/-- Whether a copy may serve a load at a core's device time (R210). -/
def L1Line.live (l : L1Line) (now : Nat) : Bool := decide (now + 4 < l.expiry)

/-- Ways of the L1 that scratch pins on a core (R196). -/
def State.pinned (s : State) (core : Nat) : Nat := (s.teams.filter (·.core = core)).foldl (fun n t => n + t.units) 0

/-- Global lines of an L1 dropped until a set holds fewer than so many: each time the victim (R200). -/
def evictTo (set ways : Nat) : Nat → List L1Line → List L1Line
  | 0, l => l
  | n + 1, l =>
    let mine := l.filter fun x => x.line % 256 = set
    if mine.length ≤ ways then l
    else match victimOf (mine.map fun x => (x.line, x.cls, x.used)) with
      | some v => evictTo set ways n (l.filter (·.line ≠ v))
      | none => l

/-- Scratch takes the ways that its allocation pins: in every set the lines over the ways left are dropped (R196). -/
def State.pinL1 (s : State) (core : Nat) : State :=
  let ways := 16 - s.pinned core
  s.modCore core fun c => { c with l1 := ((c.l1.map fun x => x.line % 256).eraseDups).foldl (fun l k => evictTo k ways 16 l) c.l1 }

/-- A line enters an L1, taking the victim's way when the set is full (R199, R200). -/
def State.fillL1 (s : State) (core pa expiry cls : Nat) (pref : Bool) : State :=
  let ways := 16 - s.pinned core
  let data := memRead s.mem (lineOf pa * 128) 128
  s.modCore core fun c =>
    let others := c.l1.filter (·.line ≠ lineOf pa)
    if ways = 0 then { c with l1 := others }
    else { c with l1 := evictTo (lineOf pa % 256) (ways - 1) 16 others ++ [⟨lineOf pa, expiry, cls, s.cycle, pref, false, data⟩] }

/-- A record in the sampling ring (R191, R192, R207). kind: 0 load, 1 store, 2 atomic, 3 fetch, 4 streamer read, 5 streamer write. -/
def State.sample (s : State) (core : Nat) (ctx : BitVec 8) (va kind : Nat) : State :=
  if !s.mcb.mode.getLsbD 1 then s
  else
    let n := (s.core core).sampled + 1
    let s := s.modCore core fun c => { c with sampled := n }
    if n % 2 ^ s.mcb.logn ≠ 0 then s
    else
      let r := s.mcb.smp
      let used := (r.tail - r.head).toNat
      if r.base = 0 ∨ used ≥ 2 ^ r.logn then { s with mcb := { s.mcb with smpdrop := (s.mcb.smpdrop + 1) % 2 ^ 64 } }
      else
        let a := r.base + 16 * (r.tail.toNat % 2 ^ r.logn)
        let t := s.timeOf (dieOfCore core) % 2 ^ 44
        let s := s.sto a (leBytes (va % 2 ^ 57) 8 ++ leBytes (core + ctx.toNat * 2 ^ 8 + kind * 2 ^ 16 + t * 2 ^ 20) 8)
        let s := { s with mcb := { s.mcb with smp := { r with tail := r.tail + 1 } } }
        if used + 1 = 2 ^ (r.logn - 1) then s.interrupt 1 (dieOfCore core) ctx 0 0 else s

/-- Whether a released store to a line is still unacknowledged, of the groups for whose teams the core is the storing one (R213). -/
def State.unackedLine (s : State) (mine : Team → Bool) (va : Nat) : Bool :=
  s.teams.any fun t => mine t && t.groups.any fun g => g.acks.any fun a => a.global && a.line = va % 2 ^ 57 / 128

/-- The bytes that a load of a global address reads, through the L1 (R210, R213, R216, R230); none while an unacknowledged store of the core to the line holds a miss back. A kind above 5 is not sampled. -/
def State.loadGlobal (s : State) (w : Who) (t : Team) (va pa n cls kind : Nat) : Option (State × List Byte) :=
  let k := s.l1Core t pa
  match (s.core k).l1? pa with
  | some l =>
    if l.live (s.timeOf (dieOfCore k)) then
      let s := s.modCore k fun c =>
        { c with l1 := lmod c.l1 (·.line = lineOf pa) fun l => { l with used := s.cycle, cls := max l.cls cls, prefetched := false }
                 pfused := if l.prefetched then c.pfused + 1 else c.pfused
                 pftimely := if l.prefetched && !l.late then c.pftimely + 1 else c.pftimely }
      some (s.useEnergy k w.ctx 3 1, (l.data.drop (pa % 128)).take n)
    else miss k s
  | none => miss k s
where
  miss (k : Nat) (s : State) : Option (State × List Byte) :=
    if s.unackedLine (fun u => s.l1Core u pa = k) va then none
    else
      let s := (if kind ≤ 5 then s.sample k w.ctx va kind else s).useEnergy k w.ctx 4 1
      let bytes := memRead s.mem pa n
      if s.held pa then some (s, bytes)
      else
        let s := s.useL2 w pa va cls
        let (s, e) := s.grant k pa (s.timeOf (dieOfPa pa))
        some (s.fillL1 k pa e cls false, bytes)

/-- A released store part updates the issuing core's copy of its line, whose class its hint may raise (R200, R213). -/
def State.updateL1 (s : State) (core pa : Nat) (bytes : List Byte) (cls : Nat) : State :=
  s.modCore core fun c => { c with l1 := lmod c.l1 (·.line = lineOf pa) fun l =>
    { l with used := s.cycle, cls := max l.cls cls, data := l.data.take (pa % 128) ++ bytes ++ l.data.drop (pa % 128 + bytes.length) } }

/-- The issuing core's copy of a line dropped, as a global atomic does (R224). -/
def State.dropL1 (s : State) (core pa : Nat) : State := s.modCore core fun c => { c with l1 := c.l1.filter (·.line ≠ lineOf pa) }

end Sys2Proof.Machine
end

