-- ==== Sys2Proof/Machine/Translate.lean ====
section
/-! DEFINITION. Translation of the global window (R182 to R188), the first-touch unit (R193, R194, R466), the control region as it reads (R180, R191), requests to peers (R185), and reads of constant windows and of code (R86, R195). -/
namespace Sys2Proof.Machine

/-- What an operation comes to: a value, a wait with its dead-wait descriptor (R175, 0 for none), a trap to take, or uncorrectable data consumed. -/
inductive Res (α : Type) where
  | ok (s : State) (a : α)
  | hold (s : State) (why : DWord)
  | trap (s : State) (t : Trap)
  | gone (s : State) (x : Spot)

def Res.bind {α β : Type} (r : Res α) (f : State → α → Res β) : Res β :=
  match r with
  | .ok s a => f s a
  | .hold s w => .hold s w
  | .trap s t => .trap s t
  | .gone s x => .gone s x

/-! ### The control region (R180) -/

/-- Bytes 0 to 51 of the distributor control block as they read (R104); PREQ and PREL are commands and read as zero. -/
def State.dcbBytes (s : State) : List Byte :=
  let d := s.dcb
  let b (x : Bool) (k : Nat) : Nat := if x then 2 ^ k else 0
  leBytes 0 8
    ++ leBytes (b d.busy 0 + b d.done 1 + b d.short 2 + b d.nospace 3 + b d.lost 4 + b d.badreq 5 + d.vacated * 256) 8
    ++ leBytes 0 8 ++ leBytes d.savebase 8 ++ leBytes d.savelen 4 ++ leBytes d.sbtime 4 ++ leBytes d.lrbase 8 ++ leBytes d.lrlen 4

def Ring.descBytes (r : Ring) : List Byte := leBytes (r.base + r.logn) 8
def Ring.countBytes (r : Ring) : List Byte := leBytes r.tail.toNat 4 ++ leBytes r.head.toNat 4

/-- Bytes 0 to 159 of the memory control block as they read (R191); RESOLVE reads as zero. -/
def State.mcbBytes (s : State) : List Byte :=
  let m := s.mcb
  m.pr.descBytes ++ m.pr.countBytes ++ leBytes 0 8
    ++ (List.range 4).flatMap (fun d => (m.ft.getD d Ring.absent).descBytes ++ (m.ft.getD d Ring.absent).countBytes)
    ++ m.rel.descBytes ++ m.rel.countBytes
    ++ leBytes (m.mode.toNat + (if m.migen then 4 else 0) + m.logn * 256 + m.interval * 65536) 8
    ++ leBytes m.hotbase 8 ++ m.smp.descBytes ++ m.smp.countBytes ++ leBytes m.smpdrop 8 ++ leBytes m.miglim 8 ++ leBytes m.ftlow 8

/-- One byte of the control region as context 0 reads it (R44, R72, R104, R180, R191). -/
def State.ctlByte (s : State) (a : Nat) : Byte :=
  if 0x1000 ≤ a ∧ a < 0x1010 then s.ident.getD (a - 0x1000) 0
  else if 0x2000 ≤ a ∧ a < 0x2034 then s.dcbBytes.getD (a - 0x2000) 0
  else if 0x3000 ≤ a ∧ a < 0x30A0 then s.mcbBytes.getD (a - 0x3000) 0
  else if 0x4000 ≤ a ∧ a < 0x5000 then memGet s.mem a
  else 0

/-- n bytes at a physical address as context 0 reads them. -/
def State.physBytes (s : State) (a n : Nat) : List Byte :=
  if a < 0x10000 then (upFrom a n).map s.ctlByte else memRead s.mem a n

/-! ### The first-touch unit -/

/-- Whether a frame may enter a die's pool (R194). -/
def frameOk (die f : Nat) : Bool := decide (f % 65536 = 0 ∧ 65536 ≤ f ∧ f < memTop ∧ dieOfPa f = die)

/-- The next good frame of a die's free-frame ring; bad ones are discarded and logged (R194), and so is an entry that cannot be read (R286, log 91). Fuel is the number of entries. -/
def State.takeFrame (die : Nat) (ctx : BitVec 8) : Nat → State → State × Option Nat
  | 0, s => (s, none)
  | n + 1, s =>
    let r := s.mcb.ft.getD die Ring.absent
    if r.base = 0 ∨ r.tail = r.head then (if 0 < s.mcb.ftlow then s.interrupt 1 die ctx 0 0 else s, none)
    else
      let a := r.base + 8 * (r.head.toNat % 2 ^ r.logn)
      let f := s.ld a 8
      let lost := s.bad a 8
      let s := { s with mcb := { s.mcb with ft := vmod s.mcb.ft die fun r => { r with head := r.head + 1 } } }
      let left := (r.tail - (r.head + 1)).toNat
      let s := if left < s.mcb.ftlow then s.interrupt 1 die ctx 0 0 else s
      if lost then State.takeFrame die ctx n (s.consumed ctx a 8)
      else if frameOk die f then (s, some f)
      else State.takeFrame die ctx n (s.logErr 7 0x20 4 die 0 0 f 0)

/-- No L1 keeps a copy of a line of a frame, so that no new owner reads the old one's data from it (R194, R209). -/
def Core.dropFrame (f : Nat) (c : Core) : Core := { c with l1 := c.l1.filter fun l => !(decide (f ≤ 128 * l.line ∧ 128 * l.line < f + 65536)) }

/-- A frame zeroed (R194, R209). -/
def zeroFrame (s : State) (f : Nat) : State :=
  let s := { s with cores := s.cores.map (Core.dropFrame f) }
  if s.held f then s.sto f (List.replicate 65536 0)
  else { s with mem := s.mem.filter fun c => !(decide (f ≤ c.1 ∧ c.1 < f + 65536)), poison := s.poison.filter fun w => !(decide (f ≤ 32 * w ∧ 32 * w < f + 65536)) }

/-- An anonymous entry backed by the unit of a die (R193): the new entry; none while the pool is empty or a Sill run holds the entry's line (R194, R230). -/
def State.backPage (s : State) (die : Nat) (ctx : BitVec 8) (ea entry : Nat) : State × Option Nat :=
  if s.held ea then (s, none)
  else
    let r := s.mcb.ft.getD die Ring.absent
    match State.takeFrame die ctx ((r.tail - r.head).toNat + 1) s with
    | (s, none) => (s, none)
    | (s, some f) =>
      let e := bitsOf entry 3 5 * 8 + f + 2
      ((zeroFrame s f).stoN ea 8 e, some e)

/-! ### The walk -/

/-- How a walk or a translated access ends (R184, R185). -/
inductive Xl where
  | leaf (l : Leaf)
  | prot
  | nonres
  | hold
  | abort (x : Spot)
deriving DecidableEq, Repr

/-- First address bit of a level's index (R182). -/
def levelShift (level : Nat) : Nat := if level = 0 then 16 else 12 + 9 * level

/-- Address of the entry that a virtual address selects in a table (R182). -/
def entryAddr (level table va : Nat) : Nat := table + 8 * bitsOf va (levelShift level) (if level = 0 then 5 else 9)

def leafOf (e size : Nat) : Leaf :=
  ⟨bitsOf e 8 40 * 256, size, if e.testBit 63 then some (BitVec.ofNat 10 (bitsOf e 53 10)) else none,
   e.testBit 7, e.testBit 6, e.testBit 5, e.testBit 4, e.testBit 3⟩

/-- Whether the migration engine is moving the page of an entry (R184, R208). -/
def State.moving (s : State) (ea : Nat) : Bool := s.migrations.any (·.pte = ea)

/-- The alignment of ADDR in a non-resident entry (R183): that of a page at levels 1 and 0, above them that of a table (log 87). -/
def coverOf (level : Nat) : Nat := match level with
  | 0 => 65536
  | 1 => 2 ^ 21
  | _ => 4096

/-- A leaf or an absent page by its entry (R184): page size, TYPE. Level-7 logging of a stray TYPE 5 entry. -/
def State.leafEntry (s : State) (w : Who) (va ea e size : Nat) (level : Nat) (die : Nat) : State × Xl :=
  let addr := bitsOf e 8 40 * 256
  match e % 8 with
  | 2 => if addr % size ≠ 0 then (s, .prot) else (s, .leaf (leafOf e size))
  | 3 => (s, if addr % size ≠ 0 then .prot else .nonres)
  | 4 =>
    if level ≠ 0 ∨ addr % size ≠ 0 then (s, .prot)
    else match s.backPage die w.ctx ea e with
      | (s, none) => (s, .hold)
      | (s, some e) => (s, .leaf (leafOf e size))
  | 5 =>
    if addr % size ≠ 0 then (s, .prot)
    else if s.moving ea then (s, .hold) else (s.logErr 7 0x0A 4 (dieOfPa ea) w.ctx 0x06#8 va 0, .prot)
  | _ => (s, .prot)

/-- The die whose walkers and walk cache a requester uses, if it is known before the walk (R186, R466). -/
def Who.walkDie (w : Who) : Option Nat :=
  match w.core with
  | some c => some (dieOfCore c)
  | none => w.die

/-- A table entry of levels 4 to 1 that the walk cache of the die holds: the next table (R186). -/
def State.cachedTable (s : State) (w : Who) (level va : Nat) : Option Nat :=
  match w.walkDie with
  | none => none
  | some d =>
    ((s.walkCache.getD d []).find? fun e =>
      e.ctx = w.ctx && e.level = level && e.va = va / 2 ^ levelShift level).map (·.table)

/-- An entry of TYPE 1 kept by the walk cache (R186). -/
def State.keepTable (s : State) (w : Who) (level va table : Nat) : State :=
  match w.walkDie with
  | none => s
  | some d => { s with walkCache := vmod s.walkCache d fun l => (⟨w.ctx, level, va / 2 ^ levelShift level, table⟩ :: l).take 512 }

/-- An entry is read through the L2 of its die (R184), where a miss counts for the page that is walked (R204, log 86). -/
def State.readEntry (s : State) (w : Who) (va ea : Nat) : State := if s.held ea then s else s.useL2 w ea va 1

/-- A walk from a table down (R182 to R184). -/
def State.walkFrom (s : State) (w : Who) (va : Nat) : Nat → Nat → State × Xl
  | 0, table =>
    let ea := entryAddr 0 table va
    if ea < 65536 ∨ memTop < ea + 8 then (s, .prot)
    else if s.bad ea 8 then (s, .abort (s.spot ea 8))
    else
      let e := s.ld ea 8
      let s := s.readEntry w va ea
      if bitsOf e 48 5 ≠ 0 then (s, .prot)
      else
        let die := match w.core with
          | some c => dieOfCore c
          | none => w.die.getD (dieOfPa ea)
        s.leafEntry w va ea e 65536 0 die
  | n + 1, table =>
    let level := n + 1
    let ea := entryAddr level table va
    match s.cachedTable w level va with
    | some next => s.walkFrom w va n next
    | none =>
    if ea < 65536 ∨ memTop < ea + 8 then (s, .prot)
    else if s.bad ea 8 then (s, .abort (s.spot ea 8))
    else
      let e := s.ld ea 8
      let s := s.readEntry w va ea
      let addr := bitsOf e 8 40 * 256
      if bitsOf e 48 5 ≠ 0 then (s, .prot)
      else match e % 8 with
        | 1 => if addr % (if level = 1 then 256 else 4096) ≠ 0 then (s, .prot) else (s.keepTable w level va addr).walkFrom w va n addr
        | 3 => (s, if addr % coverOf level ≠ 0 then .prot else .nonres)
        | 2 | 5 => if level = 1 then s.leafEntry w va ea e (2 ^ 21) 1 0 else (s, .prot)
        | _ => (s, .prot)

/-- Whether a cached entry is for a page (R186). -/
def TlbEntry.hit (t : TlbEntry) (ctx : BitVec 8) (va : Nat) : Bool := t.ctx = ctx && t.va = va / t.leaf.size * t.leaf.size

/-- The set of the L2 TLB in which a translation stands, by its page number (R186, log 88). -/
def TlbEntry.set (t : TlbEntry) : Nat := t.va / t.leaf.size % 2048

/-- A translation enters its set of 8 ways, in which it takes the place of the oldest (R186, log 88). -/
def enterSet (t : TlbEntry) (ts : List TlbEntry) : List TlbEntry :=
  let mine := (ts.filter (·.set = t.set)).take 7
  t :: ts.filter fun u => u.set ≠ t.set || mine.contains u

/-- A translation for a requester (R186): a core looks in its L1 TLB and its die's L2 TLB first, and keeps what a walk finds (log 11). -/
def State.lookup (s : State) (w : Who) (va : Nat) : State × Xl :=
  match s.ctx? w.ctx with
  | none => (s, .prot)
  | some c =>
    match w.core with
    | none => s.walkFrom w va 4 c.ptroot
    | some k =>
      let die := dieOfCore k
      let keep (s : State) (t : TlbEntry) : State := s.modCore k fun c => { c with tlb := (t :: c.tlb.filter (fun u => !u.hit w.ctx va)).take 128 }
      match (s.core k).tlb.find? (·.hit w.ctx va) with
      | some t => (s, .leaf t.leaf)
      | none =>
        match (s.l2tlb.getD die []).find? (·.hit w.ctx va) with
        | some t => (keep s t, .leaf t.leaf)
        | none =>
          match s.walkFrom w va 4 c.ptroot with
          | (s, .leaf l) =>
            let t : TlbEntry := ⟨w.ctx, va / l.size * l.size, l⟩
            let s := keep s t
            ({ s with l2tlb := vmod s.l2tlb die (enterSet t) }, .leaf l)
          | r => r

/-- What an access needs of its page (R185). -/
inductive Need where
  | read | write | both | exec
deriving DecidableEq, Repr

def Leaf.allows (l : Leaf) : Need → Bool
  | .read => l.read
  | .write => l.write
  | .both => l.read && l.write
  | .exec => l.exec

/-- Where a translated byte lies (R180, R185). -/
inductive Place where
  | here (pa : Nat) (sill : Bool)
  | peer (dev : BitVec 10) (pa : Nat)
  | prot | nonres | hold
  /-- its walk has met uncorrectable data -/
  | abort (x : Spot)
deriving DecidableEq, Repr

/-- A translation that leaves the caches aside, as an access whose cached one would not do takes it: before an invalidation either translation may be used (R187, log 11). -/
def State.lookAgain (s : State) (w : Who) (va : Nat) : State × Xl :=
  match w.core with
  | none => s.lookup w va
  | some k =>
    let s := s.modCore k fun c => { c with tlb := c.tlb.filter (!·.hit w.ctx va) }
    State.lookup { s with l2tlb := vmod s.l2tlb (dieOfCore k) fun ts => ts.filter (!·.hit w.ctx va)
                          walkCache := vmod s.walkCache (dieOfCore k) fun es => es.filter (·.ctx ≠ w.ctx) } w va

/-- The translation for an access that needs something of its page. -/
def State.lookupFor (s : State) (w : Who) (va : Nat) (need : Need) : State × Xl :=
  match s.lookup w va with
  | (s, .leaf l) => if l.allows need then (s, .leaf l) else s.lookAgain w va
  | r => r

/-- The place of a global virtual address for a requester (R52, R180, R185). Addresses of context 0 are physical. -/
def State.place (s : State) (w : Who) (va : Nat) (need : Need) : State × Place :=
  if w.ctx = 0 then (s, if va < memTop then .here va false else .prot)
  else
    match s.lookupFor w va need with
    | (s, .leaf l) =>
      let pa := l.base + va % l.size
      if !l.allows need then (s, .prot)
      else match l.remote with
        | some p => (s, .peer p pa)
        | none => (s, if 65536 ≤ pa ∧ pa < memTop then .here pa l.sill else .prot)
    | (s, .prot) => (s, .prot)
    | (s, .nonres) => (s, .nonres)
    | (s, .hold) => (s, .hold)
    | (s, .abort x) => (s, .abort x)

/-! ### Requests to peers (R25, R26, R185) -/

/-- Whether some port can carry a transaction (R24). -/
def State.anyPort (s : State) : Bool := s.root.idset && s.ports.any (·.up)

/-- What becomes of a request: it goes out, no port can deliver it (R24), or it must wait for a tag (R26) or for an entry of its core (R203). -/
inductive Sending where
  | sent (s : State)
  | noPort
  | full

/-- The core whose loads, stores and atomics, or whose streamer, a request is of (R203): false for the streamer. -/
def State.requester (s : State) : Await → Option (Nat × Bool)
  | .loadPart g _ _ | .storeAck g _ => (s.team? g.ctx g.vteam).map fun t => (t.core, true)
  | .copy core _ _ _ _ => some (core, false)
  | _ => none

/-- The flits of a request of a core counted for its context (R284, log 9). -/
def State.flitEnergy (s : State) (want : Await) (t : Txn) : State :=
  match s.requester want with
  | some (k, _) => s.useEnergy k t.ctx 6 (txnFlits t)
  | none => s

/-- Whether the limits of R203 leave no entry for a request. -/
def State.requestsFull (s : State) (want : Await) : Bool :=
  decide (393216 ≤ s.outstanding.length) || match s.requester want with
    | none => false
    | some (k, own) => decide ((if own then 512 else 1024) ≤ (s.outstanding.filter fun r => s.requester r.want = some (k, own)).length)

/-- Sends a request that waits for a completion (R24, R26, R39). -/
def State.request (s : State) (peer : BitVec 10) (t : Txn) (want : Await) : Sending :=
  if !s.anyPort then .noPort
  else if s.requestsFull want then .full
  else match leastNot (fun k => s.outstanding.any fun r => r.tag = k && r.peer = peer) 4096 0 with
    | none => .full
    | some tag =>
      let t := { t with dst := peer, src := s.root.devNum, tag := BitVec.ofNat 12 tag }
      .sent (State.sendTxn { s.flitEnergy want t with outstanding := s.outstanding ++ [⟨tag, s.root.devNum, peer, want⟩] } t)

/-- A read request of n bytes at a peer (R51). -/
def readTxn (ctx : BitVec 8) (pa n : Nat) : Txn :=
  { Txn.zero with vc := 0, op := 0x00, ctx := ctx, addr := BitVec.ofNat 48 pa, dw2 := BitVec.ofNat 64 n }

/-- A write request that leaves some bytes as they are: the bytes to write, at their places (R51). -/
def maskTxn (ctx : BitVec 8) (pa : Nat) (bytes : List (Option Byte)) : Txn :=
  let base := pa / 32 * 32
  let all := List.replicate (pa - base) none ++ bytes
  let slots := (all.length + 31) / 32
  let mask := all.foldr (fun b m => 2 * m + (if b.isSome then 1 else 0)) 0
  { Txn.zero with vc := 0, op := 0x01, ctx := ctx, ndata := BitVec.ofNat 4 slots, addr := BitVec.ofNat 48 base, dw2 := BitVec.ofNat 64 (mask % 2 ^ 64),
                  dw3 := BitVec.ofNat 64 (mask / 2 ^ 64), data := (all.map (·.getD 0) ++ List.replicate 31 0).take (32 * slots) }

/-- An atomic request of R51: operator code, width and operand, the compare value in doubleword 3. -/
def atomicTxn (ctx : BitVec 8) (pa aop n x cmp : Nat) : Txn :=
  { Txn.zero with op := 0x02, ctx := ctx, ndata := 1, addr := BitVec.ofNat 48 pa, dw2 := BitVec.ofNat 64 (aop + if n = 8 then 16 else 0)
                  dw3 := BitVec.ofNat 64 cmp, data := leBytes x n ++ List.replicate (32 - n) 0 }

/-- A write request: the bytes stand in 32-byte slots from an aligned address, and the mask names them (R51). -/
def writeTxn (ctx : BitVec 8) (pa : Nat) (bytes : List Byte) : Txn :=
  let base := pa / 32 * 32
  let off := pa - base
  let slots := (off + bytes.length + 31) / 32
  let data := List.replicate off 0 ++ bytes ++ List.replicate (32 * slots - off - bytes.length) 0
  let mask := (2 ^ bytes.length - 1) * 2 ^ off
  { Txn.zero with vc := 0, op := 0x01, ctx := ctx, ndata := BitVec.ofNat 4 slots, addr := BitVec.ofNat 48 base,
                  dw2 := BitVec.ofNat 64 (mask % 2 ^ 64), dw3 := BitVec.ofNat 64 (mask / 2 ^ 64), data := data }

/-! ### Constant windows and code -/

/-- PROT, FETCHRES, WINRES and the like: a fault that concerns the strand and no lane (R195, R271). -/
def strandTrap (cause : BitVec 8) : Trap := { cause := cause }

/-- The line key of a peer's line. -/
def peerLine (dev : BitVec 10) (pa : Nat) : Nat := (dev.toNat + 1) * 2 ^ 48 + lineOf pa

/-- A word read through the constant cache (code false) or the instruction cache (code true) of a core (R195): residency and protection raise the faults of R195. -/
def State.cachedWord (s : State) (w : Who) (core va : Nat) (code : Bool) : Res Word :=
  let lines (c : Core) : List CacheLine := if code then c.icache else c.kcache
  let put (s : State) (l : CacheLine) : State := s.modCore core fun c =>
    if code then { c with icache := (l :: c.icache.filter (·.line ≠ l.line)).take 512 }
    else { c with kcache := (l :: c.kcache.filter (·.line ≠ l.line)).take 512 }
  let cut (s : State) (k : Nat) : State := s.modCore core fun c =>
    if code then { c with icache := c.icache.filter (·.line ≠ k) } else { c with kcache := c.kcache.filter (·.line ≠ k) }
  let word (d : List Byte) (pa : Nat) : Word := BitVec.ofNat 32 (leNat ((d.drop (pa % 128)).take 4))
  match s.place w va (if code then .exec else .read) with
  | (s, .here pa _) =>
    match (lines (s.core core)).find? (·.line = lineOf pa) with
    | some l => .ok s (word l.data pa)
    | none =>
      if s.bad pa 4 then .gone s (s.spot pa 4)
      else
        let d := s.physBytes (lineOf pa * 128) 128
        let s := if code then s.sample core w.ctx va 3 else s
        let s := if pa < 65536 ∨ s.held pa then s else s.useL2 w pa va 1
        .ok (if s.bad (lineOf pa * 128) 128 then s else put s ⟨lineOf pa, d, 0⟩) (word d pa)
  | (s, .peer dev pa) =>
    let k := peerLine dev pa
    match (lines (s.core core)).find? (·.line = k) with
    | some l =>
      if l.err = 0 then .ok s (word l.data pa)
      else if l.err = 5 then .trap (cut s k) (strandTrap (if code then 0x09#8 else 0x0A#8))
      else if l.err = 6 then .gone (cut s k) peerSpot
      else .trap (cut s k) (strandTrap 0x06#8)
    | none =>
      if s.outstanding.any fun r => r.want = .line core k code then .hold s 0
      else match (if code then s.sample core w.ctx va 3 else s).request dev (readTxn w.ctx (lineOf pa * 128) 128) (.line core k code) with
        | .sent s => .hold s 0
        | .full => .hold s 0
        | .noPort => .trap s (strandTrap 0x06#8)
  | (s, .nonres) => .trap s (strandTrap (if code then 0x09#8 else 0x0A#8))
  | (s, .hold) => .hold s 0
  | (s, .abort x) => .gone s x
  | (s, .prot) => .trap s (strandTrap 0x06#8)

/-- A requester for the accesses of a team (R466). -/
def State.whoTeam (s : State) (t : Team) : Who :=
  ⟨t.ctx, some t.core, none, (s.bent? t.bent).map (·.record)⟩

/-- The word of a constant window at a word offset, whose bounds the caller has checked (R313). -/
def State.windowWord (s : State) (t : Team) (win ofs : Nat) : Res Word :=
  let w := t.windows.getD win ⟨0, 0, false⟩
  s.cachedWord (s.whoTeam t) t.core ((w.base + 4 * ofs) % 2 ^ 57) false

/-- The windows of a team as the field checks see them (R313). -/
def Team.wins (t : Team) : Windows := t.windows.map fun (w : Window) => if w.valid then some w.len else none

/-- Bounds of the code that a strand may fetch (R86, R273): its grid's binding, or the handler image as it stood at entry. -/
def State.codeBounds (s : State) (t : Team) (g : Group) (handler : Bool) : Nat × Nat :=
  if handler then (g.hbase, g.hsize)
  else match s.bent? t.bent with
    | some b => (recBase s b.record, recSize s b.record)
    | none => (0, 0)

/-- One instruction word (R86, R195, R317): outside the bounds FETCHRANGE, whose entry names the word. -/
def State.fetchWord (s : State) (t : Team) (bounds : Nat × Nat) (a : DWord) : Res Word :=
  if a.toNat < bounds.1 ∨ bounds.1 + bounds.2 < a.toNat + 4 then .trap s { cause := 0x08#8, pc := some a }
  else s.cachedWord (s.whoTeam t) t.core (a.toNat % 2 ^ 57) true

end Sys2Proof.Machine
end

