-- ==== Sys2Proof/Machine/Events.lean ====
section
/-! DEFINITION. Barriers (R154 to R161, R281), event slots (R162 to R166), mailboxes and copy tokens (R167 to R169), and the dead waits that the Z9 proves (R173). -/
namespace Sys2Proof.Machine

/-- Window of a trap's DETAIL and the like: ILLENC with a detail (R318). -/
def illenc (detail : Nat) : Trap := { cause := 0x02#8, detail := detail }
def illop : Trap := { cause := 0x01#8 }
def barMisuse (num : Nat) : Trap := { cause := 0x0E#8, detail := num }
def convFault (name : Nat) : Trap := { cause := 0x0F#8, detail := name }

/-- A scalar written for a strand (R122, R273): code 0 is discarded, 144 to 155 name the supervisor registers in the handler strand, 156 to 159 are the strand's own. -/
def Group.setScalar (g : Group) (sid : Nat) (d : Nat) (v : DWord) : Group :=
  if d = 0 then g
  else if sid = handlerSid ∧ 144 ≤ d ∧ d < 156 then { g with sup := vmod g.sup (d - 144) fun _ => v }
  else if d < 156 then { g with s := vmod g.s d fun _ => v }
  else g.modStrand sid fun st => { st with priv := vmod st.priv (d - 156) fun _ => v }

/-! ### Event slots -/

/-- The lowest slot of a set (R165). -/
def lowSlot (m : BitVec 16) : Option Nat := (List.range 16).find? fun n => m.getLsbD n

/-- The dispatch step of R165 for a strand of a group: the lowest live pending slot's handler word is read and checked before anything changes. -/
def State.dispatch (s : State) (t : Team) (g : Group) (set : BitVec 16) (win ofs : Nat) (n : Nat) : Res DWord :=
  let w := t.windows.getD win ⟨0, 0, false⟩
  if !w.valid ∨ w.len < ofs + n then .trap s (illenc win)
  else (s.windowWord t win (ofs + n)).bind fun s h =>
    if h.extractLsb' 0 2 ≠ 0#2 ∨ !(set &&& ~~~g.em &&& g.pe).getLsbD n then .trap s (illenc win) else .ok s (h.signExtend 64)

/-- A strand parked in WAITANY takes a slot (R166): it resumes at the handler, traps, or, when its table cannot be read yet or its group's handler runs, executes the WAITANY again. -/
def State.wakeStrand (s : State) (r : GroupRef) (t : Team) (g : Group) (sid : Nat) (st : Strand) : State :=
  match st.park with
  | some (.waitany set win ofs pc) =>
    match lowSlot (set &&& ~~~g.em &&& g.pe) with
    | none => s
    | some n =>
      match s.dispatch t g set win ofs n with
      | .ok s h => s.modGroup r fun g =>
          { (g.modStrand sid fun st => { st with state := .ready, park := none, why := 0, evn := BitVec.ofNat 5 n, pc := pc + h }) with
            pe := g.pe &&& ~~~(1#16 <<< n) }
      | .trap s t => if g.trap = .handling ∧ sid ≠ handlerSid then s.modGroup r fun g => g.modStrand sid fun st => { st with state := .ready, park := none, why := 0, pc := pc }
        else s.takeTrap (strandAt r sid) { t with pc := some pc }
      | .hold s _ | .gone s _ => s.modGroup r fun g => g.modStrand sid fun st => { st with state := .ready, park := none, why := 0, pc := pc }
  | _ => s

/-- The strand that is offered a slot (R166): the one with the earliest position among those parked in WAITANY whose set holds it unmasked; a handler strand stands before the others (log 85). -/
def Group.waiter? (g : Group) (n : Nat) : Option (Nat × Strand) :=
  let cands := g.everyone.filter fun (_, st) => st.state = .parked && match st.park with
    | some (.waitany set _ _ _) => (set &&& ~~~g.em &&& g.pe).getLsbD n
    | _ => false
  match cands with
  | [] => none
  | c :: r => some (r.foldl (fun b x => if orderBefore x.2.order b.2.order then x else b) c)

/-- A slot that has been set is offered once to the parked strands of a resident group (R166). -/
def State.offerSlot (s : State) (r : GroupRef) (n : Nat) : State :=
  match s.team? r.ctx r.vteam, s.group? r with
  | some t, some g =>
    if !g.offers.getLsbD n then s
    else
      let s := s.modGroup r fun g => { g with offers := g.offers &&& ~~~(1#16 <<< n) }
      match g.waiter? n with
      | some (sid, st) => s.wakeStrand r t g sid st
      | none => s
  | _, _ => s

/-- Every slot of a group that has been set and not offered is (R166). -/
def State.offer (s : State) (r : GroupRef) : State := (List.range 16).foldl (fun s n => s.offerSlot r n) s

/-- Slots of a group whose binding fires (R163): unspent bindings that meet p. -/
def Group.fire (g : Group) (p : Binding → Bool) : Group :=
  let hits := (List.range 16).filter fun n => let b := g.events.getD n Binding.unbound; b.kind ≠ 0 && !b.spent && p b
  hits.foldl (fun g n => { g with pe := g.pe ||| (1#16 <<< n), offers := g.offers ||| (1#16 <<< n), events := vmod g.events n fun b => { b with spent := true } }) g

/-- The slots of a team's groups offered (R166), as they are when they fire and when a saved team returns (R108). -/
def State.offerTeam (s : State) (ctx : BitVec 8) (v : BitVec 16) : State :=
  match s.team? ctx v with
  | none => s
  | some t => t.groups.foldl (fun s g => s.offer ⟨ctx, v, g.gidx⟩) s

/-- Bindings of a team fire, resident or saved, and the slots of a resident one are offered (R163, R166, R108). -/
def State.fireTeam (s : State) (ctx : BitVec 8) (v : BitVec 16) (p : Binding → Bool) : State :=
  (s.modAnyTeam ctx v fun t => { t with groups := t.groups.map (·.fire p) }).offerTeam ctx v

/-! ### Copy tokens -/

/-- Whether a count has reached n (R163). -/
def tokenReached (count n : Word) : Bool := !(count - n).msb

/-- An amount added to a token, of a resident or saved team, and reported to the bindings (R163, R169, R190). -/
def State.addToken (s : State) (ctx : BitVec 8) (v : BitVec 16) (tok : Nat) (amount : Word) : State :=
  let s := s.modAnyTeam ctx v fun t => { t with tokens := vmod t.tokens tok (· + amount) }
  match s.anyTeam? ctx v with
  | none => s
  | some t =>
    let c := t.tokens.getD tok 0
    s.fireTeam ctx v fun b => b.kind = 2#2 && b.obj.toNat = tok && tokenReached c b.val

/-! ### Mailboxes -/

/-- Whether a receiver still waits on its mailbox. -/
def Team.waits (t : Team) (w : Waiter) : Bool :=
  match (t.group? w.gidx).map fun g => g.strand w.sid with
  | some st => st.state = .parked && match st.park with
    | some (.recv mb _) => mb = w.mb
    | _ => false
  | none => false

/-- A parked receiver takes the oldest value (R168): its scalar is written and it goes on after its RECV. -/
def State.serve (s : State) (ctx : BitVec 8) (v : BitVec 16) (mb : Nat) : State :=
  match s.team? ctx v with
  | none => s
  | some t =>
    match (t.mbs.getD mb []), t.waiters.find? (fun w => w.mb = mb && t.waits w) with
    | x :: rest, some w =>
      let s := s.modTeam ctx v fun t => { t with mbs := vmod t.mbs mb fun _ => rest, waiters := t.waiters.erase w }
      s.modGroup ⟨ctx, v, w.gidx⟩ fun g =>
        match (g.strand w.sid).park with
        | some (.recv _ d) =>
          (g.setScalar w.sid d.toNat x).modStrand w.sid fun st => { st with state := .ready, park := none, why := 0 }
        | _ => g
    | _, _ => s

/-- The receivers of a team that wait beside values posted while it was saved are served (R168, R108). -/
def State.serveAll (s : State) (ctx : BitVec 8) (v : BitVec 16) : State :=
  (List.range 64).foldl (fun s k => s.serve ctx v (k % 8)) s

/-- A value enters a mailbox that has room (R167): receivers are served, and bindings hear of the post (R163). -/
def State.post (s : State) (ctx : BitVec 8) (v : BitVec 16) (mb : Nat) (x : DWord) : State :=
  let s := s.modAnyTeam ctx v fun t => { t with mbs := vmod t.mbs mb (· ++ [x]) }
  let s := s.fireTeam ctx v fun b => b.kind = 3#2 && b.obj.toNat = mb
  s.serve ctx v mb

/-- Whether a mailbox is full (R167). -/
def Team.mbFull (t : Team) (mb : Nat) : Bool := decide (8 ≤ (t.mbs.getD mb []).length)

/-! ### Barriers -/

/-- The team that owns a barrier number: the team itself, or for b24 to b31 the anchor team (R155). -/
def State.barOwner (s : State) (t : Team) (num : Nat) : Option Team :=
  if num < 24 then some t
  else match s.member? t.bent 0 with
    | some a => some a
    | none => (s.bents.flatMap (·.saved)).find? fun u => u.bent = t.bent && u.bpos = 0

def BarEntry.is (e : BarEntry) (o : Team) (num : Nat) : Bool := e.ctx = o.ctx && e.vteam = o.vteam && e.num = num

/-- The slot of a barrier in a table. -/
def Core.barSlot? (c : Core) (o : Team) (num : Nat) : Option Nat :=
  (List.range 64).find? fun k => match c.bars.getD k none with
    | some e => e.is o num
    | none => false

def Core.freeBar? (c : Core) : Option Nat := (List.range 64).find? fun k => (c.bars.getD k none).isNone

/-- The home table of a barrier of its owner (R281). -/
def Team.homeOf (o : Team) (num : Nat) : Nat := (o.home.getD num none).getD o.core

/-- A barrier's entry in its home table. -/
def State.bar? (s : State) (o : Team) (num : Nat) : Option BarEntry :=
  let c := s.core (o.homeOf num)
  match c.barSlot? o num with
  | some k => c.bars.getD k none
  | none => none

def State.modBar (s : State) (o : Team) (num : Nat) (f : BarEntry → BarEntry) : State :=
  s.modCore (o.homeOf num) fun c =>
    match c.barSlot? o num with
    | some k => { c with bars := vmod c.bars k (·.map f) }
    | none => c

/-- Teams whose strands may wait on a barrier: its team, or every member of the bent (R155). -/
def State.barTeams (s : State) (o : Team) (num : Nat) : List Team :=
  if num < 24 then [o]
  else s.teams.filter (·.bent = o.bent) ++ (s.bents.flatMap (·.saved)).filter (·.bent = o.bent)

def Strand.parkedOn (st : Strand) (num : Nat) : Bool := match st.park with
  | some (.barrier n _) => st.state = .parked && n = num
  | _ => false

/-- Whether a strand is parked on a barrier (R158, R160). -/
def State.barParked (s : State) (o : Team) (num : Nat) : Bool :=
  (s.barTeams o num).any fun t => t.groups.any fun g => g.everyone.any fun (_, st) => st.parkedOn num

/-- An entry is quiet (R160). -/
def State.quiet (s : State) (o : Team) (e : BarEntry) : Bool := e.agents = 0 && !s.barParked o e.num

/-- The 16 bytes of an entry (R154). -/
def BarEntry.bytes (e : BarEntry) : List Byte :=
  leBytes (2 ^ 63 + (if e.bentScope then 2 ^ 62 else 0) + (if e.phase then 2 ^ 61 else 0) + e.num * 2 ^ 56 + e.ctx.toNat * 2 ^ 48
    + e.vteam.toNat * 2 ^ 32 + e.expect * 2 ^ 20 + e.arrive * 2 ^ 8 + e.agents) 8 ++ leBytes e.status.toNat 8

/-- An entry from its image; none when VALID is 0 (R154, R159). -/
def barOfBytes (o : Team) (num : Nat) (b : List Byte) : Option BarEntry :=
  let v := leNat (b.take 8)
  if v.testBit 63 then
    some ⟨v.testBit 62, v.testBit 61, num, o.ctx, o.vteam, bitsOf v 20 12, bitsOf v 8 12, bitsOf v 0 8, BitVec.ofNat 64 (leNat (b.drop 8))⟩
  else none

/-- Where the spill image of a barrier lies, if the owner's SPILLBASE is set and its page is resident (R159, log 26). -/
def State.spillPlace (s : State) (o : Team) (num : Nat) (need : Need) : State × Option Nat :=
  let base := o.spillbase.toNat % 2 ^ 57 / 512 * 512
  if base = 0 then (s, none)
  else match s.place (s.whoTeam o) (base + 16 * num) need with
    | (s, .here pa _) => (s, some pa)
    | (s, _) => (s, none)

/-- The entry of a barrier found as R159 says: in its home table, or loaded from its spill image into a free entry, or, with none free, the barrier-spill trap, after which the strand waits. A quiet entry of an older table moves to the owner's core first (R281). none: no entry and no image. -/
def State.findBar (s : State) (o : Team) (num : Nat) (spilled : Bool) : Res (Option BarEntry) :=
  match s.bar? o num with
  | some e =>
    let home := o.homeOf num
    if home ≠ o.core ∧ s.quiet o e then
      match (s.core o.core).freeBar? with
      | some k =>
        let s := s.modCore home fun c => match c.barSlot? o num with
          | some j => { c with bars := vmod c.bars j fun _ => none }
          | none => c
        let s := s.modCore o.core fun c => { c with bars := vmod c.bars k fun _ => some e }
        .ok (s.modAnyTeam o.ctx o.vteam fun t => { t with home := vmod t.home num fun _ => none }) (some e)
      | none => .ok s (some e)
    else .ok s (some e)
  | none =>
    match (s.core o.core).freeBar? with
    | none => if spilled then .hold s 0 else .trap s { cause := 0x20#8 }
    | some k =>
      if !o.inited.getLsbD num then .ok s none
      else
        let (s, at_) := s.spillPlace o num .read
        match at_ with
        | none => .ok s none
        | some pa =>
          match barOfBytes o num (memRead s.mem pa 16) with
          | none => .ok s none
          | some e =>
            let s := s.modCore o.core fun c => { c with bars := vmod c.bars k fun _ => some e }
            .ok (s.modAnyTeam o.ctx o.vteam fun t => { t with home := vmod t.home num fun _ => none }) (some e)

/-- A strand parked on a barrier whose target phase holds is released (R157). -/
def Strand.releaseBar (num : Nat) (phase : Bool) (st : Strand) : Strand :=
  if st.valid && st.state = .parked && st.park = some (.barrier num phase) then { st with state := .ready, park := none, why := 0, arrived := false }
  else st

/-- The strands of a group that are parked on a barrier are released, the handler strand among them (R157). -/
def Group.releaseBar (g : Group) (num : Nat) (phase : Bool) : Group :=
  { g with strands := g.strands.map (Strand.releaseBar num phase), handler := g.handler.map (Strand.releaseBar num phase) }

/-- An arrival at an entry (R156): it counts, and with EXPECT reached the phase flips, waiters are released (R157) and bindings hear of the flip (R163). -/
def State.arrive (s : State) (o : Team) (num : Nat) : State :=
  match s.bar? o num with
  | none => s
  | some e =>
    if e.arrive + 1 < e.expect then s.modBar o num fun e => { e with arrive := e.arrive + 1 }
    else
      let phase := !e.phase
      let s := s.modBar o num fun e => { e with arrive := 0, phase := phase }
      let ts := s.barTeams o num
      let s := ts.foldl (fun s t => s.modAnyTeam t.ctx t.vteam fun t => { t with groups := t.groups.map (·.releaseBar num phase) }) s
      ts.foldl (fun s t => s.fireTeam t.ctx t.vteam fun b => b.kind = 1#2 && b.obj.toNat = num && b.val.getLsbD 0 = phase) s

/-- Every strand of a barrier's scope but one is ended or parked in a barrier wait (R173). -/
def State.othersStuck (s : State) (o : Team) (num : Nat) (ctx : BitVec 8) (v : BitVec 16) (gidx sid : Nat) : Bool :=
  (s.barTeams o num).all fun t => t.groups.all fun g => g.everyone.all fun (k, st) =>
    (t.ctx = ctx && t.vteam = v && g.gidx = gidx && k = sid) || st.state = .ended ||
      (st.state = .parked && match st.park with
        | some (.barrier _ _) => true
        | _ => false)

/-- KIND and OBJ of R175. -/
def waitDesc (kind obj : Nat) : DWord := BitVec.ofNat 64 (kind * 2 ^ 60 + obj)
def barWhy (num : Nat) (phase : Bool) : DWord := waitDesc 1 (num + (if phase then 64 else 0))

/-- Parked barrier waits of a team that have become dead are trapped (R173, log 27). -/
def State.judgeBars (s : State) (t : Team) : State :=
  (s.barTeams t 31).foldl (fun s u => u.groups.foldl (fun s g => g.everyone.foldl (fun s (k, st) =>
    match st.park with
    | some (.barrier num phase) =>
      match s.barOwner u num with
      | none => s
      | some o => match s.bar? o num with
        | none => s
        | some e =>
          if st.state = .parked && (g.trap ≠ .handling || k = handlerSid) && decide (e.arrive < e.expect) && e.agents = 0 && e.phase ≠ phase
              && s.othersStuck o num u.ctx u.vteam g.gidx k && (s.team? u.ctx u.vteam).isSome then
            s.takeTrap (strandAt ⟨u.ctx, u.vteam, g.gidx⟩ k) { cause := 0x21#8, pc := some (st.pc - 4), why := barWhy num phase }
          else s
    | _ => s) s) s) s

/-- An agent's completion at a barrier (R156): its status word if it carries one, AGENTS falls, and it arrives; with no agent left, waits may be dead (R173). -/
def State.agentArrive (s : State) (o : Team) (num : Nat) (status : Option DWord) : State :=
  let s := s.modBar o num fun e => { e with agents := e.agents - 1, status := status.getD e.status }
  (s.arrive o num).judgeBars o

end Sys2Proof.Machine
end

