-- ==== Sys2Proof/Machine/Placement.lean ====
section
/-! DEFINITION. The distributor: occupancy (R91, R92), requests, rectangles and holds (R97 to R102), commit (R103), spawn bins (R110, R111), and the saving and resuming of bents (R104 to R109, R114, R278 to R280). -/
namespace Sys2Proof.Machine

/-! ### Roles and occupancy -/

/-- Every `$gidx` of a launch with the number of its role, in role order (R91). -/
def roleOfGidx (rs : List Role) : List Nat := (rs.zipIdx).flatMap fun (r, k) => List.replicate r.groups k

def Role.none : Role := ⟨0, 8, false⟩

/-- Groups and register rows that a launch puts on one quadrant (R91, R92). -/
def quadrantLoad (rs : List Role) (q : Nat) : Nat × Nat :=
  ((roleOfGidx rs).zipIdx).foldl (fun (g, w) (k, i) =>
    if i % 4 = q then (g + 1, w + (rs.getD k Role.none).vregs) else (g, w)) (0, 0)

/-- What the teams resident on a core take: teams, groups and rows per quadrant, scratch units (R92). -/
structure Taken where
  teams : Nat
  quads : List (Nat × Nat)
  units : Nat
deriving DecidableEq, Repr

def State.taken (s : State) (core : Nat) : Taken :=
  let ts := s.teams.filter (·.core = core)
  ⟨ts.length, (List.range 4).map fun q => ts.foldl (fun (g, w) t => let l := quadrantLoad t.roles q; (g + l.1, w + l.2)) (0, 0),
   ts.foldl (fun n t => n + t.units) 0⟩

/-- Whether a team of these roles and scratch units fits what is left of a core (R92). -/
def fits (u : Taken) (rs : List Role) (units : Nat) : Bool :=
  let loads := (List.range 4).map (quadrantLoad rs)
  let sums := (loads.zip u.quads).map fun (a, b) => (a.1 + b.1, a.2 + b.2)
  decide (u.teams < 16) && decide (u.units + units ≤ 14)
    && sums.all (fun (g, w) => decide (g ≤ 48 ∧ w ≤ 2048))
    && decide (sums.foldl (fun (n : Nat) x => n + x.1) 0 ≤ 192) && decide (sums.foldl (fun (n : Nat) x => n + x.2) 0 ≤ 8192)

def Taken.empty : Taken := ⟨0, List.replicate 4 (0, 0), 0⟩

/-- The occupancy test of R60 against an empty core. -/
def fitsEmpty (rs : List Role) (units : Nat) (streamer : Bool) : Bool :=
  fits Taken.empty rs units &&
    (!streamer || match rs with
      | r :: _ => r.groups = 1 && !r.spawn
      | [] => false)

/-! ### Rectangles -/

/-- Core number at a column and row of a die (R14). -/
def coreAt (die x y : Nat) : Nat := 64 * die + 8 * y + x

/-- Anchors in scan order on a die (R100). -/
def anchors (die bw bh : Nat) : List Nat :=
  (List.range (9 - bh)).flatMap fun y => (List.range (9 - bw)).map fun x => coreAt die x y

/-- Whether a core may take a team of a bent (R92, R101, R103, R106, R109, R201, R282, R293). -/
def State.coreTakes (s : State) (b : Bent) (prio : Nat) (core : Nat) : Bool :=
  let rs := recRoles s b.record
  let fuse := (recFlags s b.record).getLsbD 0
  let others := s.teams.filter fun t => t.core = core && t.bent ≠ b.id
  !s.root.quarCores.contains core
    && fits (s.taken core) rs (recScratch s b.record)
    && !(fuse && !others.isEmpty) && !(others.any (·.fused))
    && !(s.bents.any fun o => o.id ≠ b.id && (o.st = .cmt || o.st = .saving) && (o.cores s).contains core)
    && !(s.dieHolds.toList.any fun h => match h with
        | some id => id ≠ b.id && match s.bent? id with
          | some o => (o.cores s).contains core
          | none => false
        | none => false)
    && !(s.preHolds.any fun (c, p) => c = core && decide (prio < p))
    && !(s.grids.any fun g => g.left.any (·.core = core))

/-- Killed teams of a context that wait for their acknowledgements (R282). -/
def State.leftTeams (s : State) (ctx : BitVec 8) : List LeftTeam := (s.grids.filter (·.ctx = ctx)).flatMap (·.left)

/-- Stack indices in use in a context (R178). -/
def State.stackUsed (s : State) (ctx : BitVec 8) : List Nat :=
  ((s.teams ++ s.bents.flatMap (·.saved)).filter (·.ctx = ctx)).flatMap (·.stackIdx) ++ (s.leftTeams ctx).flatMap (·.stackIdx)

/-- The lowest n indices below 65,536 that a list does not hold; none when there are too few. -/
def lowestFree (used : List Nat) : Nat → Option (List Nat)
  | 0 => some []
  | n + 1 =>
    match lowestFree used n with
    | none => none
    | some got => match leastNot (fun k => used.contains k || got.contains k) 65536 0 with
      | none => none
      | some k => some (got ++ [k])

/-- Stack indices that a bent needs (R178). -/
def State.stackNeed (s : State) (b : Bent) : Nat :=
  recBW s b.record * recBH s b.record * (roleOfGidx (recRoles s b.record)).length

/-- Whether the bent's stack indices are at hand; a saved bent keeps its own (R178). -/
def State.stacksOk (s : State) (ctx : BitVec 8) (b : Bent) : Bool :=
  !b.saved.isEmpty || (lowestFree (s.stackUsed ctx) (s.stackNeed b)).isSome

/-- Spawn bins and convergence registers of a core that saved bents in CMT will take, and nothing else may take before them (R112, R172). -/
def State.keptFor (s : State) (core : Nat) : Nat × Nat :=
  (s.bents.filter (·.st = .cmt)).foldl (fun n b => ((b.cores s).zip b.saved).foldl (fun n (c, t) =>
    if c = core then (n.1 + t.keptBins.length, n.2 + t.keptConvs.length) else n) n) (0, 0)

/-- The spawn bins of a core that are free for a new use (R110, R112). -/
def State.freeBins (s : State) (core : Nat) : Nat := ((s.core core).bins.toList.filter (·.isNone)).length - (s.keptFor core).1

/-- The convergence registers of a core that are free for a new use (R170, R172). -/
def State.freeConvs (s : State) (core : Nat) : Nat := ((s.core core).convs.toList.filter (·.isNone)).length - (s.keptFor core).2

/-- Whether every core of a rectangle takes the bent (R100), and a saved bent's convergence registers fit (R172). Its spawn bins, which are restored with it (R112), must fit as well: R92 and R108 do not say so (log 90). -/
def State.rectTakes (s : State) (b : Bent) (prio anchor : Nat) : Bool :=
  let cores := rectCores anchor (recBW s b.record) (recBH s b.record)
  cores.all (s.coreTakes b prio) && (cores.zip b.saved).all fun (c, t) =>
    decide (t.keptConvs.length ≤ ((s.core c).convs.toList.filter (·.isNone)).length) &&
    decide (t.keptBins.length ≤ ((s.core c).bins.toList.filter (·.isNone)).length)

/-- The four dies in rank order for a request of a grid (R99). -/
def State.rankDies (s : State) (rec : Nat) : List Nat :=
  let score (d : Nat) : Nat := (List.range 3).foldl (fun n k => n + s.ld (rec + 160 + 2 * (3 * d + k)) 2) 0
  let rows (d : Nat) : Nat := 64 * 8192 - ((List.range 64).foldl (fun n c => n + (s.taken (64 * d + c)).quads.foldl (fun n q => n + q.2) 0) 0)
  let before (a b : Nat) : Bool := decide (score b < score a ∨ (score a = score b ∧ (rows b < rows a ∨ (rows a = rows b ∧ a < b))))
  (List.range 4).foldl (fun l d => (l.takeWhile (before · d)) ++ [d] ++ (l.dropWhile (before · d))) []

/-- The first rectangle of a die that takes the bent (R100). -/
def State.findRect (s : State) (b : Bent) (prio die : Nat) : Option Nat :=
  (anchors die (recBW s b.record) (recBH s b.record)).find? (s.rectTakes b prio)

/-- The first rectangle in scan order without a quarantined core (R101). -/
def State.holdRect (s : State) (b : Bent) (die : Nat) : Option Nat :=
  (anchors die (recBW s b.record) (recBH s b.record)).find? fun a =>
    (rectCores a (recBW s b.record) (recBH s b.record)).all fun c => !s.root.quarCores.contains c

/-! ### Requests, grants and holds -/

def State.prioOf (s : State) (b : Bent) : Nat := match s.grid? b.record with
  | some g => g.prio
  | none => 0

/-- The request queue in order (R98). -/
def State.requests (s : State) : List Bent :=
  let reqs := s.bents.filter (·.st = .req)
  let before (a b : Bent) : Bool :=
    decide (s.prioOf b < s.prioOf a ∨ (s.prioOf a = s.prioOf b ∧ (a.reqAt < b.reqAt ∨ (a.reqAt = b.reqAt ∧ a.id < b.id))))
  reqs.foldl (fun l d => (l.takeWhile (before · d)) ++ [d] ++ (l.dropWhile (before · d))) []

/-- The bent leaves for CMT on a rectangle (R97). -/
def State.toCommit (s : State) (b : Bent) (anchor : Nat) : State :=
  let s := { s with dieHolds := s.dieHolds.map (fun h => if h = some b.id then none else h) }
  s.setBent b.id fun b => { b with st := .cmt, die := dieOfCore anchor, anchor := anchor }

/-- A request is granted, takes a hold, or stays (R100, R101, R178). -/
def State.tryGrant (s : State) (b : Bent) : Option State :=
  let prio := s.prioOf b
  let ranked := s.rankDies b.record
  let ctx := match s.grid? b.record with
    | some g => g.ctx
    | none => 0
  match ranked.findSome? (s.findRect b prio) with
  | some a => if s.stacksOk ctx b then some (s.toCommit b a) else none
  | none =>
    match ranked.find? fun d => (s.dieHolds.getD d none).isNone && (s.holdRect b d).isSome with
    | none => none
    | some d => match s.holdRect b d with
      | none => none
      | some a =>
        let s : State := { s with dieHolds := vmod s.dieHolds d fun _ => some b.id }
        let f (b : Bent) : Bent := { b with st := .rsv, die := d, anchor := a }
        some (s.setBent b.id f)

/-- A bent that holds a die and has a lower priority than another (R102). -/
def State.weakHold (s : State) (b : Bent) (die : Nat) : Option Bent :=
  ((s.dieHolds.getD die none).bind s.bent?).filter fun o => decide (s.prioOf o < s.prioOf b)

/-- A bent changed so that it enters REQ drops a lower-priority hold on the die that it ranks first, whose bent enters REQ in turn, with its own entry moment (R102). Each hold dropped has a lower priority, so fuel bounds them. -/
def State.enterReq : Nat → State → Nat → (Bent → Bent) → State
  | 0, s, id, f => s.setBent id f
  | n + 1, s, id, f =>
    let s := s.setBent id f
    match s.bent? id with
    | none => s
    | some b => match (s.rankDies b.record).head? with
      | none => s
      | some d => match s.weakHold b d with
        | none => s
        | some o => State.enterReq n { s with dieHolds := vmod s.dieHolds d fun _ => none } o.id fun o => if o.st = .rsv then { o with st := .req } else o

/-- The hold of a die dropped: its bent returns to REQ with its own entry moment (R102). -/
def State.dropHold (s : State) (die : Nat) : State :=
  match s.dieHolds.getD die none with
  | none => s
  | some id => State.enterReq 4 { s with dieHolds := vmod s.dieHolds die fun _ => none } id fun b => if b.st = .rsv then { b with st := .req } else b

/-- A hold whose rectangle has gained a quarantined core marks the first rectangle of its die that has none, and is dropped where there is no such rectangle (R101). -/
def State.moveHold (s : State) (die : Nat) : State :=
  match (s.dieHolds.getD die none).bind s.bent? with
  | none => s
  | some b =>
    if (b.cores s).all fun c => !s.root.quarCores.contains c then s
    else match s.holdRect b die with
      | some a => s.setBent b.id fun b => { b with anchor := a }
      | none => s.dropHold die

/-! ### Commit -/

/-- `$seed` at group start (R125). -/
def seedAt (bpos gidx : Nat) : Lanes := lanesFn fun l => BitVec.ofNat 32 (((bpos * 192 + gidx) * 32 + l) + 1)

/-- Every lane that a group of the team can have (R90). -/
def Team.lanes (t : Team) : Mask := if t.legacy then 0xFFFF#32 else 0xFFFFFFFF#32

/-- A group as it starts (R120, R125, R127). -/
def Group.start (t : Team) (gidx role vregs : Nat) (pc : Nat) (mask : Mask) (v0 v1 : Lanes) (cycle : Nat) : Group where
  gidx := gidx
  role := role
  vregs := vregs
  stackIdx := t.stackIdx.getD gidx 0
  born := cycle
  v := ((Vector.replicate 256 Lanes.zero).setIfInBounds 0 v0).setIfInBounds 1 v1
  seed := seedAt t.bpos gidx
  s := Vector.replicate 156 0
  p := (Vector.replicate 8 (0#32)).setIfInBounds 0 t.lanes
  strands := (Vector.replicate 16 Strand.free).setIfInBounds 0
    { Strand.free with valid := true, pc := BitVec.ofNat 64 pc, mask := mask, readyAt := cycle }
  folds := []
  slides := Vector.replicate 8 Slide.unbound
  events := Vector.replicate 16 Binding.unbound
  pe := 0
  offers := 0
  em := 0
  sb := []
  acks := []
  wmax := 0
  rt := Vector.replicate 16 ⟨false, 0, 0⟩
  omax := 0
  ovf := false
  loads := []
  longs := []
  failing := []
  marks := []
  nextId := 0
  record := FaultRecord.zero
  trap := .none
  trapAt := 0
  repc := 0
  handler := none
  sup := Vector.replicate 12 0
  hbase := 0
  hsize := 0
  gone := ~~~mask
  fair := 0
  fairFor := 0
  fairSid := 0
  fairLast := 0
  watch := 0
  dbg := false
  ended := false

/-- A member team as it commits (R103), without its groups. -/
def State.newTeam (s : State) (b : Bent) (g : Grid) (bpos core : Nat) (members : List (BitVec 16)) (stackCtls : List Nat) : Team :=
  let r := b.record
  let gx := recGX s r
  let gy := recGY s r
  let fl := recFlags s r
  { ctx := g.ctx, vteam := members.getD bpos 0, bent := b.id, bpos := bpos, core := core, members := members
    bx := b.index % max gx 1, bY := b.index / max gx 1 % max gy 1, bz := b.index / max (gx * gy) 1
    gx := gx, gy := gy, gz := recGZ s r
    fused := fl.getLsbD 0, materr := fl.getLsbD 1, legacy := fl.getLsbD 2, streamer := fl.getLsbD 3
    prio := g.prio, roles := recRoles s r, nroles := recNroles s r
    windows := Vector.ofFn fun k => recWindow s r k.val
    base := recBase s r, size := recSize s r, units := recScratch s r
    scratch := [], full := [], poison := []
    mbs := Vector.replicate 8 [], waiters := [], tokens := Vector.replicate 64 0
    spillbase := 0, stackIdx := stackCtls, inited := 0, home := Vector.replicate 32 none
    keptBins := [], keptConvs := [], keptRun := none, keptPasses := []
    children := [], leftMax := 0, frozen := [], groups := [] }

/-- The groups that a team starts with: those of its roles without SPAWN (R91, R103). -/
def Team.startGroups (t : Team) (entry cycle : Nat) : List Group :=
  ((roleOfGidx t.roles).zipIdx).filterMap fun (k, i) =>
    let r := t.roles.getD k Role.none
    if r.spawn then none else some (Group.start t i k r.vregs entry t.lanes Lanes.zero Lanes.zero cycle)

/-- Virtual team ids in use in a context (R96). -/
def State.idsUsed (s : State) (ctx : BitVec 8) : List Nat :=
  ((s.teams ++ s.bents.flatMap (·.saved)).filter (·.ctx = ctx)).map (·.vteam.toNat) ++ (s.leftTeams ctx).map (·.vteam.toNat)

/-- Caching ways of a fused bent's cores emptied (R233). -/
def State.fuseL1 (s : State) (cores : List Nat) : State := cores.foldl (fun s c => s.modCore c fun k => { k with l1 := [] }) s

/-- What a commit does to the cores of its bent: pre-emption holds of its priority or a lower one end (R106), scratch takes its ways (R196), and the caching ways of a fused bent are emptied (R233). -/
def State.takeCores (s : State) (b : Bent) : State :=
  let prio := s.prioOf b
  let cores := b.cores s
  let s := { s with preHolds := s.preHolds.filter fun (c, p) => !(cores.contains c && decide (p ≤ prio)) }
  let s := cores.foldl State.pinL1 s
  if (recFlags s b.record).getLsbD 0 then s.fuseL1 cores else s

/-- The constant caches of a relaunched bent's cores emptied, so that its windows are read again from memory (R61). -/
def State.rereadWindows (s : State) (b : Bent) : State :=
  if b.relaunch = 0 then s else (b.cores s).foldl (fun s c => s.modCore c fun k => { k with kcache := [] }) s

/-- The commit of a fresh bent (R103): every member team is made resident as one step. It waits for team ids and stack indices that are free (R96, R178). -/
def State.commitFresh (s : State) (b : Bent) (g : Grid) : State :=
  let cores := b.cores s
  let n := cores.length
  let per := (roleOfGidx (recRoles s b.record)).length
  match lowestFree (s.idsUsed g.ctx) n, lowestFree (s.stackUsed g.ctx) (n * per) with
  | some ids, some stackCtls =>
    let members := ids.map (BitVec.ofNat 16)
    let teams := (cores.zipIdx).map fun (c, p) =>
      let t := s.newTeam b g p c members ((stackCtls.drop (p * per)).take per)
      { t with groups := t.startGroups (recEntry s b.record) s.cycle }
    let s := cores.foldl State.countStatic s
    let s := ((State.takeCores { s with teams := s.teams ++ teams } b).rereadWindows b)
    s.setBent b.id fun b => { b with committedAt := s.cycle }
  | _, _ => s

/-- The commit of a saved bent, whose teams stand as its image gives them: they return with a new `$core`, their bins and convergence registers first (R108, R172, R280). -/
def State.commitTeams (s : State) (b : Bent) (saved : List Team) : State :=
  let cores := b.cores s
  let fillBins (c : Core) (t : Team) : Core := t.keptBins.foldl (fun c x =>
    match (List.range 16).find? fun k => (c.bins.getD k none).isNone with
    | some k => { c with bins := vmod c.bins k fun _ => some x }
    | none => c) c
  let fillConvs (c : Core) (t : Team) : Core := t.keptConvs.foldl (fun c x =>
    match (List.range 16).find? fun k => (c.convs.getD k none).isNone with
    | some k => { c with convs := vmod c.convs k fun _ => some x }
    | none => c) c
  let s := (cores.zip saved).foldl (fun s (c, t) => s.modCore c fun k => fillConvs (fillBins k t) t) s
  let place (x : Nat × Team) : Team :=
    let t := x.2
    { t with core := x.1, keptBins := [], keptConvs := [], home := t.home.map fun h => if h.isNone then some t.core else h }
  let teams := (cores.zip saved).map place
  let s := cores.foldl State.countStatic s
  let s := State.takeCores { s with teams := s.teams ++ teams } b
  s.setBent b.id fun b => { b with saved := [], committedAt := s.cycle }

/-- The greatest time in the ordering state of a bent (R232). -/
def State.orderTime (s : State) (b : Nat) : Nat :=
  (s.teamsOf b).foldl (fun m t => t.groups.foldl (fun m g =>
    max (max m (max g.wmax g.omax)) (g.rt.foldl (fun m e => if e.valid then max m e.time else m) 0)) m) 0


/-! ### Spawn bins -/

/-- Reserved indices of a role that no group holds (R111). -/
def Team.freeIndex (t : Team) (role : Nat) : Option Nat :=
  ((roleOfGidx t.roles).zipIdx).findSome? fun (k, i) =>
    if k = role && !(t.groups.any (·.gidx = i)) then some i else none

/-- Threads that fill a bin (R90, R111). -/
def Team.binSize (t : Team) : Nat := if t.legacy then 16 else 32

/-- A bin launches a group if its time or count has come and an index is free (R111). -/
def State.tryBin (s : State) (core slot : Nat) : State :=
  match (s.core core).bins.getD slot none with
  | none => s
  | some b =>
    match s.team? b.ctx b.vteam with
    | none => s
    | some t =>
      let due := decide (t.binSize ≤ b.args.length) || b.times.head?.any fun at_ => decide (at_ + s.dcb.sbtime ≤ s.cycle)
      match t.freeIndex b.role with
      | none => s
      | some i =>
        if !due ∨ b.args = [] then s
        else
          let args := b.args.take t.binSize
          let rest := b.args.drop t.binSize
          let mask := maskOf fun l => decide (l < args.length)
          let v0 := lanesFn fun l => (args.getD l 0).extractLsb' 0 32
          let v1 := lanesFn fun l => (args.getD l 0).extractLsb' 32 32
          let g := Group.start t i b.role (t.roles.getD b.role Role.none).vregs b.entry mask v0 v1 s.cycle
          let s := s.modTeam b.ctx b.vteam fun t => { t with groups := t.groups ++ [g] }
          s.modCore core fun c => { c with bins := vmod c.bins slot fun _ => if rest = [] then none else some { b with args := rest, times := b.times.drop t.binSize } }

/-- Every bin of a team tried, as when one of its groups has left (R111). -/
def State.tryBins (s : State) (t : Team) : State := (List.range 16).foldl (fun s k => s.tryBin t.core k) s

/-- A spawned group that has left gives its index back; its completion time stays with the grid (R57, R111). The bent is settled. -/
def State.settleGroup (s : State) (r : GroupRef) : State :=
  match s.team? r.ctx r.vteam, s.group? r with
  | some t, some g =>
    if !g.gone? then s
    else
      let spawned := (t.roles.getD g.role Role.none).spawn && g.marks.isEmpty
      let s := if spawned then
          let s := match s.bent? t.bent with
            | some b => s.modGrid b.record fun k => { k with wmax := max k.wmax g.wmax }
            | none => s
          let s := s.modTeam r.ctx r.vteam fun t => { t with groups := t.groups.filter (·.gidx ≠ r.gidx), leftMax := max t.leftMax g.wmax }
          match s.team? r.ctx r.vteam with
          | some t => s.tryBins t
          | none => s
        else s
      s.settleBent t.bent
  | _, _ => s

/-! ### Saving -/

def roundUp (n m : Nat) : Nat := (n + m - 1) / m * m

/-- LEN of a team's engine image in KiB: 192 when the team has a pass in the engine or in its image (R267, R279, log 28). -/
def State.engineLen (s : State) (t : Team) : Nat :=
  let mine (p : Pass) : Bool := p.ctx = t.ctx && p.vteam = t.vteam
  if t.keptRun.isSome || !t.keptPasses.isEmpty || s.engines.toList.any fun e => (e.table ++ e.running.toList ++ e.freeze.toList).any mine then 192 else 0

/-- Bytes of a team's image (R279). -/
def State.imageBytes (s : State) (t : Team) : Nat :=
  6400 + 33024 * t.units + 1024 * s.engineLen t + t.groups.foldl (fun n g => n + 19712 + 128 * g.vregs) 0

/-- Bytes of a bent's image (R279). -/
def State.imageTotal (s : State) (b : Bent) : Nat := 128 + (s.teamsOf b.id).foldl (fun n t => n + s.imageBytes t) 0

/-- Units of 64 KiB that a bent's image needs (R107). -/
def State.imageUnits (s : State) (b : Bent) : Nat := roundUp (s.imageTotal b) 65536 / 65536

/-- The lowest run of free units in the save area (R107). -/
def State.findRun (s : State) (units : Nat) : Option Nat :=
  leastNot (fun k => s.saveRuns.any fun (b, n) => decide (k < b + n ∧ b < k + units)) (s.dcb.savelen + 1 - units) 0

/-- A bent is stopped and its image's place taken; its passes leave the engines (R106, R267). none when no run fits (R107). Both callers save nothing on a core on which another bent commits (R103, R109). -/
def State.beginSave (s : State) (b : Bent) (yielded : Bool) : Option State :=
  let units := s.imageUnits b
  if s.dcb.savelen < units then none
  else match s.findRun units with
    | none => none
    | some k =>
      let s := { s with saveRuns := s.saveRuns ++ [(k, units)] }
      let takePasses (s : State) (t : Team) : State :=
        let isMine (p : Pass) : Bool := p.ctx = t.ctx && p.vteam = t.vteam
        let run := (s.engines.toList.filterMap fun e => e.running.map (·.scanned e.active)).find? isMine
        let froz := (s.engines.toList.filterMap (·.freeze)).find? isMine
        let tab := s.engines.toList.flatMap fun e => e.table.filter isMine
        let strip (e : Engine) : Engine :=
          { e with table := e.table.filter (fun p => !isMine p), running := e.running.filter (fun p => !isMine p), freeze := e.freeze.filter (fun p => !isMine p) }
        ({ s with engines := s.engines.map strip }).modTeam t.ctx t.vteam fun t =>
          { t with keptRun := if run.isSome then run else froz, keptPasses := tab }
      let s := (s.teamsOf b.id).foldl takePasses s
      some (s.setBent b.id fun b => { b with st := .saving, image := some k, yielded := yielded })

/-- Whether a load waits for earlier strands of its group alone, which cannot end while the group is stopped, so that it goes into the image (R143, log 36). -/
def Group.gatedLoad (g : Group) (l : Load) : Bool :=
  (l.parts.any fun p => p.st = .gated && (g.earlierLanes (g.strand l.sid)).getLsbD p.lane) && !(l.parts.any fun p => match p.st with
    | .remote _ => true
    | _ => false)

/-- What a team's save waits for (R278, R232): issued instructions of its groups, acknowledgements, and copies on its scratch. -/
def State.saveReady (s : State) (t : Team) : Bool :=
  t.groups.all (fun g => g.loads.all g.gatedLoad && g.longs.isEmpty && g.failing.isEmpty && g.acks.isEmpty)
    && !(s.cores.toList.any fun c => c.copies.any (s.copyTouches t))

/-- A saved team's own objects leave its core: bins and convergence registers go with it, barrier entries stay at home (R106, R112, R172, R281). -/
def State.packTeam (s : State) (t : Team) : State × Team :=
  let mineB (b : SpawnBin) : Bool := b.ctx = t.ctx && b.vteam = t.vteam
  let mineC (b : ConvReg) : Bool := b.ctx = t.ctx && b.vteam = t.vteam
  let c := s.core t.core
  let bins := (c.bins.toList.filterMap id).filter mineB
  let convs := (c.convs.toList.filterMap id).filter mineC
  let s := (s.foldEnergy t.core t.ctx).modCore t.core fun c =>
    { c with bins := c.bins.map (fun b => b.filter fun e => !mineB e), convs := c.convs.map (fun b => b.filter fun e => !mineC e),
             l1 := if t.fused then [] else c.l1 }
  (s, { t with keptBins := bins, keptConvs := convs, home := t.home.map fun h => if h.isNone then some t.core else h })

/-- Every team of a bent leaves its core, with what goes with it. -/
def State.packBent (s : State) (b : Bent) : State × List Team :=
  let (s, packed) := (s.teamsOf b.id).foldl (fun (s, l) t => let (s, t) := s.packTeam t; (s, l ++ [t])) (s, [])
  ({ s with teams := s.teams.filter (·.bent ≠ b.id) }, packed)

/-- Commit given up: the partial state is released and the bent returns to REQ, a saved one with its image (R103); a kill that waited for it applies (R291). It keeps the moment at which it entered REQ, as a dropped hold does (R102): R103 names none (log 90). -/
def State.abandonCommit (s : State) (b : Bent) : State :=
  match b.doomed with
  | some (cause, again) => s.fallBent b cause again
  | none =>
    let (s, packed) := s.packBent b
    s.enterReq 4 b.id fun b => { b with st := .req, saved := if b.image.isSome && b.saved.isEmpty then packed else b.saved }

/-- The bents that commit on a core that is quarantined return to REQ, and holds leave it (R97, R101, R103). -/
def State.leaveQuarantined (s : State) (core : Nat) : State :=
  let s := (s.bents.filter fun b => b.st = .cmt && (b.cores s).contains core).foldl State.abandonCommit s
  s.moveHold (dieOfCore core)

/-- A core is quarantined (R293): interrupt 4 is sent, what commits on it or holds it leaves (R101, R103), and every bent with a team on it is killed. -/
def State.quarantineCore (s : State) (core : Nat) (cause : BitVec 8) : State :=
  if s.root.quarCores.contains core then s
  else
    let s := { s with root := { s.root with quarCores := s.root.quarCores ++ [core] } }
    let s := s.logErr 0 0x0D 5 (dieOfCore core) 0 cause (64 * core + 0x0D) 0
    let s := (s.interrupt 4 (dieOfCore core) 0 cause 0).leaveQuarantined core
    let ids := ((s.teams.filter (·.core = core)).map (·.bent)).eraseDups
    ids.foldl (fun s b => s.killBent b cause 0 0x0D 3 (64 * core + 0x0D) true) s

/-- The check of a result that a team's core, or the home of an atomic, computes (R289): whether it stands. Mismatches that stand as injected data are replayed, at most twice; a third one is a PIPEERR of the core. -/
def State.arithmetic (s : State) (t : Team) : State × Bool :=
  match s.residueMiss with
  | 0 => (s, true)
  | 1 | 2 => (({ s with residueMiss := 0 }).logErr 0 0x0D 2 (dieOfCore t.core) t.ctx 0 (64 * t.core + 0x0D) 0, true)
  | n + 3 => (({ s with residueMiss := n }).quarantineCore t.core 0x30#8, false)

/-! ### Pre-emption -/

/-- The youngest commit of some bents; of those that committed in the same cycle the first in the list of bents, of which R105 and R114 say nothing (log 90). -/
def youngest : List Bent → Option Bent
  | [] => none
  | b :: r => some (r.foldl (fun x y => if x.committedAt < y.committedAt then y else x) b)

/-- The youngest commit among the bents that a pre-emption may still select (R103, R105). -/
def State.preemptCand (s : State) (p : Preempt) : Option Bent :=
  youngest (s.bents.filter fun b => b.st = .run && p.searches b.die && s.ofContext p.ctx b && !s.commitNear b)

/-- Selection of R105 as far as it goes now; fuel bounds the bents selected. NOSPACE ends it (R106). -/
def State.selectMore : Nat → State → State
  | 0, s => s
  | n + 1, s =>
    match s.preempt with
    | none => s
    | some p =>
      if p.ncore ≤ (s.vacatedBy p).length ∨ s.dcb.nospace then s
      else match s.preemptCand p with
        | none => s
        | some b =>
          match s.beginSave b false with
          | none => { s with dcb := { s.dcb with nospace := true } }
          | some s => State.selectMore n { s with preempt := some { p with selected := p.selected ++ [b.id], vacated := p.vacated ++ b.cores s } }

/-- A write to PREQ (R104, R105). -/
def State.writePreq (s : State) (v : Nat) : State :=
  if s.dcb.busy then { s with dcb := { s.dcb with lost := true } }
  else
    let d := { s.dcb with done := false, short := false, nospace := false, lost := false, badreq := false, vacated := 0 }
    let ctx := BitVec.ofNat 8 v
    let ncore := bitsOf v 8 9
    let dies := bitsOf v 17 4
    if bitsOf v 23 41 ≠ 0 ∨ ctx = 0 ∨ (s.ctx? ctx).isNone ∨ ncore = 0 ∨ dies = 0 then { s with dcb := { d with badreq := true } }
    else
      let p : Preempt := ⟨ctx, ncore, BitVec.ofNat 4 dies, bitsOf v 21 2, [], []⟩
      let s := { s with dcb := { d with busy := true }, preempt := some p }
      let victim (die : Nat) : Bool := p.searches die && ((s.dieHolds.getD die none).bind s.bent?).any (s.ofContext ctx)
      let s := (List.range 4).foldl (fun s d => if victim d then s.dropHold d else s) s
      (s.selectMore 4096).endPreempt

/-- A write to PREL (R104, R106). -/
def State.writePrel (s : State) (v : Nat) : State := if v = 1 then { s with preHolds := [] } else s

/-! ### Yield -/

/-- A strand in one of the waits that make its group yieldable (R114). -/
def Strand.yieldWait (st : Strand) : Bool := st.state = .ended || (st.state = .parked && match st.park with
  | some (.granule _) => false
  | some _ => true
  | none => false)

/-- Whether a bent may be yielded (R114, R268). -/
def State.yieldable (s : State) (b : Bent) : Bool :=
  let ts := s.teamsOf b.id
  b.st = .run && !ts.isEmpty && !s.commitNear b && ts.all fun t =>
    ((t.children.any fun rec => match s.grid? rec with
      | some g => !g.ended
      | none => false) || match s.ctx? t.ctx with
      | some c => c.queues.toList.any fun q => q.parents.any (·.2 = t.vteam)
      | none => false)
    && t.groups.all (fun g => g.everyone.all fun (_, st) => st.yieldWait)
    && !(s.engines.toList.any fun e => (e.table ++ e.running.toList ++ e.freeze.toList).any fun p => p.ctx = t.ctx && p.vteam = t.vteam)
    && !(s.cores.toList.any fun c => c.copies.any fun k => k.ctx = t.ctx && k.vteam = t.vteam && !k.orphan)

/-- Whether a saved team has an event that releases a parked group (R114). -/
def Team.stirred (t : Team) : Bool :=
  t.groups.any (fun g => ((List.range 16).any fun n => g.offers.getLsbD n && (g.waiter? n).isSome) || g.everyone.any fun (_, st) => st.state = .ready)
    || t.waiters.any fun w => !(t.mbs.getD w.mb []).isEmpty

/-! ### The order of a grid's bents (R95, R97) -/

/-- Whether a grid's context lets its bents be requested (R97). -/
def State.ctxActive (s : State) (ctx : BitVec 8) : Bool :=
  (match s.ctx? ctx with
    | some c => c.queues.toList.any (·.slot.isSome)
    | none => false) || s.teams.any (·.ctx = ctx)

/-- The bent at the head of a grid's order enters REQ: a saved one, then one that is relaunched, then the next unstarted one, for which an entry must be free (R62, R95, R97, R291). -/
def State.requestNext (s : State) (g : Grid) : State :=
  let enter (s : State) (b : Bent) : State := s.enterReq 4 b.id fun b => { b with st := .req, reqAt := s.cycle }
  let mine := s.bents.filter (·.record = g.record)
  if g.ended ∨ g.failed ∨ !s.ctxActive g.ctx then s
  else match mine.find? fun b => b.st = .saved && (!b.yielded || b.saved.any (·.stirred)) with
    | some b => enter s b
    | none =>
      match mine.find? (·.st = .wait) with
      | some b => enter s b
      | none =>
        let next := recNext s g.record
        if recNbent s g.record ≤ next then s
        else match s.freeEntry with
          | none => s
          | some a =>
            let (s, id) := s.fresh
            let b : Bent := ⟨id, g.record, next, some a, .wait, 0, s.cycle, 0, 0, 0, none, [], [], false, none⟩
            let s := ({ s with bents := s.bents ++ [b] }).stoN (g.record + 184) 8 (next + 1)
            enter s b

end Sys2Proof.Machine
end

