-- ==== Sys2Proof/Machine/Control.lean ====
section
/-! DEFINITION. Writes of context 0 to the control region (R180): the distributor control block (R104), the memory control block (R190 to R192) and the descriptor page of context 0 (R44). -/
namespace Sys2Proof.Machine

/-- Whether any image lies in the save area (R107). -/
def State.imageLies (s : State) : Bool := !s.saveRuns.isEmpty

/-- A field of the distributor control block written (R104, R107). -/
def State.writeDcb (s : State) (off v : Nat) : State :=
  let d := s.dcb
  match off with
  | 0 => s.writePreq v
  | 16 => s.writePrel v
  | 24 => if v % 65536 ≠ 0 ∨ s.imageLies then s else { s with dcb := { d with savebase := v } }
  | 32 => if s.imageLies then s else { s with dcb := { d with savelen := v } }
  | 36 => if 2 ^ 17 ≤ v then s else { s with dcb := { d with sbtime := max 64 (min 65536 v) } }
  | 40 => if v % 65536 ≠ 0 ∨ !s.grids.isEmpty then s else { s with dcb := { d with lrbase := v } }
  | 48 => if !s.grids.isEmpty then s else { s with dcb := { d with lrlen := v } }
  | _ => s

/-- A ring descriptor written: a reserved bit or a size out of range leaves it, a change discards the entries (R191, R192). -/
def Ring.setDesc (r : Ring) (v : Nat) (z9Tail : Bool) : Ring :=
  let base := bitsOf v 12 36 * 4096
  let logn := v % 32
  if v = 0 then ⟨0, 0, r.tail, r.tail⟩
  else if bitsOf v 5 7 ≠ 0 ∨ bitsOf v 48 16 ≠ 0 ∨ logn < 6 ∨ 16 < logn then r
  else if r.base = base ∧ r.logn = logn then r
  else if z9Tail then { r with base := base, logn := logn, tail := r.head } else { r with base := base, logn := logn, head := r.tail }

/-- Tokens of the page's pending touches count, and the entries leave (R190). -/
def State.resolve (s : State) (v : Nat) : State :=
  if bitsOf v 41 15 ≠ 0 then s
  else
    let ctx := BitVec.ofNat 8 (bitsOf v 56 8)
    let page := bitsOf v 0 41
    let isHit (t : Touch) : Bool := t.ctx = ctx && t.page = page
    let hits := s.touches.toList.flatMap fun l => l.filter isHit
    let s := { s with touches := s.touches.map fun l => l.filter fun t => !isHit t }
    hits.foldl (fun s t => s.addToken t.ctx t.vteam t.tok t.amount) s

/-- A field of the memory control block written (R191). -/
def State.writeMcb (s : State) (off v : Nat) : State :=
  let m := s.mcb
  let set (m : Mcb) : State := { s with mcb := m }
  match off with
  | 0 => set { m with pr := m.pr.setDesc v true }
  | 8 => set { m with pr := { m.pr with head := BitVec.ofNat 32 (v / 2 ^ 32) } }
  | 16 => s.resolve v
  | 24 | 40 | 56 | 72 => set { m with ft := vmod m.ft ((off - 24) / 16) fun r => r.setDesc v false }
  | 32 | 48 | 64 | 80 => set { m with ft := vmod m.ft ((off - 32) / 16) fun r => { r with tail := BitVec.ofNat 32 v } }
  | 88 => set { m with rel := m.rel.setDesc v true }
  | 96 => set { m with rel := { m.rel with head := BitVec.ofNat 32 (v / 2 ^ 32) } }
  | 104 =>
    let logn := bitsOf v 8 5
    let iv := bitsOf v 16 16
    if bitsOf v 3 5 ≠ 0 ∨ bitsOf v 13 3 ≠ 0 ∨ bitsOf v 32 32 ≠ 0 ∨ logn < 4 ∨ 20 < logn ∨ iv < 100 then s
    else set { m with mode := BitVec.ofNat 2 v, migen := v.testBit 2, logn := logn, interval := iv }
  | 112 => if v % 65536 ≠ 0 ∨ memTop ≤ v then s else set { m with hotbase := v }
  | 120 => set { m with smp := m.smp.setDesc v true }
  | 128 => set { m with smp := { m.smp with head := BitVec.ofNat 32 (v / 2 ^ 32) } }
  | 136 => if v = 0 then set { m with smpdrop := 0 } else s
  | 144 => if 256 ≤ v then s else set { m with miglim := v }
  | 152 => if 256 ≤ v then s else set { m with ftlow := v }
  | _ => s

/-- The fields of a control block: offset and length. -/
def dcbFields : List (Nat × Nat) := [(0, 8), (8, 8), (16, 8), (24, 8), (32, 4), (36, 4), (40, 8), (48, 4)]
def mcbFields : List (Nat × Nat) := (List.range 20).map fun k => (8 * k, 8)

/-- What a field becomes when some of its bytes are written over what it reads as (log 29); none when no byte is. -/
def mergeField (old : List Byte) (base off len : Nat) (bytes : List (Option Byte)) (a : Nat) : Option Nat :=
  let at_ (k : Nat) : Option Byte := if a ≤ base + off + k then (bytes.getD (base + off + k - a) none) else none
  if (List.range len).any fun k => (at_ k).isSome then
    some (leNat ((List.range len).map fun k => (at_ k).getD (old.getD (off + k) 0)))
  else none

/-- Bytes written to the control region from an address; a byte that a mask leaves out is none. -/
def State.ctlWrite (s : State) (a : Nat) (bytes : List (Option Byte)) : State :=
  let s := dcbFields.foldl (fun s (off, len) => match mergeField s.dcbBytes 0x2000 off len bytes a with
    | some v => s.writeDcb off v
    | none => s) s
  let s := mcbFields.foldl (fun s (off, len) => match mergeField s.mcbBytes 0x3000 off len bytes a with
    | some v => s.writeMcb off v
    | none => s) s
  (bytes.zipIdx a).foldl (fun s (b, x) => match b with
    | some b => if 0x4000 ≤ x ∧ x < 0x5000 then { s with mem := memSet s.mem x b } else s
    | none => s) s

/-- Bytes written to a physical address by context 0 or the Z9 for it: control region or memory. -/
def State.physWrite (s : State) (a : Nat) (bytes : List Byte) : State :=
  if a < 0x10000 then s.ctlWrite a (bytes.map some) else s.sto a bytes

end Sys2Proof.Machine
end

