-- ==== Sys2Proof/Machine/Special.lean ====
section
/-! DEFINITION. The special functions (R371, R372) as correctly rounded values, and the Sill estimates (R453). -/
namespace Sys2Proof.Machine

/-- Working precision, in bits after the binary point, of the transcendental functions (log 7). -/
def workBits : Nat := 400

/-- floor(sqrt n), bit by bit from bit `i` down. -/
def isqrtFrom (n : Nat) : Nat → Nat → Nat
  | 0, r => r
  | i + 1, r => let t := r + 2 ^ i; isqrtFrom n i (if t * t ≤ n then t else r)

def isqrt (n : Nat) : Nat := isqrtFrom n (Nat.log2 n / 2 + 1) 0

/-- A magnitude known to lie in [s, s + 1) * 2^e, with its last bit standing for what lies below. -/
def withSticky (neg : Bool) (s : Nat) (e : Int) (inexact : Bool) : Num := .fin neg (2 * s + (if inexact then 1 else 0)) (e - 1)

/-- 1 / x for a finite non-zero x, to 128 significant bits and a sticky bit (R372 FRCP). -/
def recip (neg : Bool) (m : Nat) (e : Int) : Num :=
  let n := Nat.log2 m + 128
  withSticky neg (2 ^ n / m) (-(n : Int) - e) (2 ^ n % m ≠ 0)

/-- sqrt of m * 2^e (R372 FSQRT). -/
def sqrtNum (m : Nat) (e : Int) : Num :=
  let odd : Nat := (e % 2).toNat
  let x := m <<< (odd + 128)
  let r := isqrt x
  withSticky false r ((e - odd) / 2 - 64) (r * r ≠ x)

/-- 1 / sqrt of m * 2^e (R372 FRSQ). -/
def rsqrtNum (m : Nat) (e : Int) : Num :=
  let odd : Nat := (e % 2).toNat
  let n := 2 * Nat.log2 m + 200 + odd
  let n := if (n + odd) % 2 = 1 then n + 1 else n
  let r := isqrt (2 ^ n / m)
  withSticky false r (-((n : Int) + e) / 2) (r * r * m ≠ 2 ^ n)

/-- Sum of z^(2k+1) / (2k+1) over k < fuel, in units of 2^-workBits: atanh z. -/
def atanhSum (z2 : Nat) : Nat → Nat → Nat → Nat → Nat
  | 0, _, _, acc => acc
  | fuel + 1, k, zk, acc => atanhSum z2 fuel (k + 1) (zk * z2 / 2 ^ workBits) (acc + zk / (2 * k + 1))

def atanhFix (z : Nat) : Nat := atanhSum (z * z / 2 ^ workBits) 140 0 z 0

/-- ln 2 in units of 2^-workBits. -/
def ln2Fix : Nat := 2 * atanhFix (2 ^ workBits / 3)

/-- Alternating sum of 1 / ((2k+1) n^(2k+1)): atan(1/n), positive and negative terms apart. -/
def atanInv (n : Nat) : Nat → Nat → Nat → Nat → Nat → Nat
  | 0, _, _, pos, neg => pos - neg
  | fuel + 1, k, t, pos, neg =>
    if k % 2 = 0 then atanInv n fuel (k + 1) (t / (n * n)) (pos + t / (2 * k + 1)) neg
    else atanInv n fuel (k + 1) (t / (n * n)) pos (neg + t / (2 * k + 1))

/-- pi / 2 in units of 2^-workBits, by Machin's formula. -/
def halfPiFix : Nat :=
  (16 * atanInv 5 90 0 (2 ^ workBits / 5) 0 0 - 4 * atanInv 239 30 0 (2 ^ workBits / 239) 0 0) / 2

/-- Sum of t^k / k! in units of 2^-workBits: e^t. -/
def expSum (t : Nat) : Nat → Nat → Nat → Nat → Nat
  | 0, _, _, acc => acc
  | fuel + 1, k, term, acc => expSum t fuel (k + 1) (term * t / 2 ^ workBits / (k + 1)) (acc + term)

def expFix (t : Nat) : Nat := expSum t 90 0 (2 ^ workBits) 0

/-- Alternating sum over every second power: cos from term 1 at k = 0, sin from term t at k = 1. -/
def trigSum (t2 : Nat) : Nat → Nat → Nat → Bool → Nat → Nat → Nat
  | 0, _, _, _, pos, neg => pos - neg
  | fuel + 1, k, term, plus, pos, neg =>
    let next := term * t2 / 2 ^ workBits / ((k + 1) * (k + 2))
    if plus then trigSum t2 fuel (k + 2) next false (pos + term) neg
    else trigSum t2 fuel (k + 2) next true pos (neg + term)

def sinFix (t : Nat) : Nat := trigSum (t * t / 2 ^ workBits) 50 1 t true 0 0
def cosFix (t : Nat) : Nat := trigSum (t * t / 2 ^ workBits) 50 0 (2 ^ workBits) true 0 0

/-- A fixed-point magnitude as a value that is not exact. -/
def fixNum (neg : Bool) (s : Nat) : Num := withSticky neg s (-(workBits : Int)) true

/-- m * 2^e in units of 2^-workBits, rounded down. -/
def toFix (m : Nat) (e : Int) : Nat :=
  if 0 ≤ e + workBits then m <<< (e + workBits).toNat else m >>> (-(e + workBits)).toNat

/-- 2^x (R372 FEXP2). -/
def exp2Num (neg : Bool) (m : Nat) (e : Int) : Num :=
  if m = 0 then .fin false 1 0
  else if 0 ≤ e ∨ m % 2 ^ (-e).toNat = 0 then
    -- an integer: 2^x exactly
    let i : Nat := if 0 ≤ e then m <<< (min e 16).toNat else m >>> (-e).toNat
    let i := min i 4000
    .fin false 1 (if neg then -(i : Int) else i)
  else if 12 < (Nat.log2 m : Int) + e then .fin false 1 (if neg then -4000 else 4000)
  else
    let x := toFix m e
    let n := x / 2 ^ workBits
    let f := x % 2 ^ workBits
    if neg then
      -- -n - f = -(n+1) + (1 - f)
      (fixNum false (expFix ((2 ^ workBits - f) * ln2Fix / 2 ^ workBits))).scale (-(n : Int) - 1)
    else (fixNum false (expFix (f * ln2Fix / 2 ^ workBits))).scale n

/-- log2 x for a positive finite x (R372 FLOG2). -/
def log2Num (m : Nat) (e : Int) : Num :=
  let l := Nat.log2 m
  let n : Int := (l : Int) + e
  if m = 2 ^ l then Num.ofInt n
  else
    let f := toFix m (-(l : Int))
    let z := (f - 2 ^ workBits) * 2 ^ workBits / (f + 2 ^ workBits)
    let lf := 2 * atanhFix z * 2 ^ workBits / ln2Fix
    if 0 ≤ n then fixNum false (n.toNat * 2 ^ workBits + lf)
    else fixNum true ((-n).toNat * 2 ^ workBits - lf)

/-- x as a multiple of a quarter turn and a rest, in units of 2^-workBits. -/
def quarterTurns (m : Nat) (e : Int) : Nat × Nat :=
  let x := toFix m e
  (x / halfPiFix, x % halfPiFix)

/-- sin x (R372 FSIN); a magnitude below 2^-13 rounds to itself. -/
def sinNum (neg : Bool) (m : Nat) (e : Int) : Num :=
  if (Nat.log2 m : Int) + e < -13 then .fin neg m e
  else
    let (q, r) := quarterTurns m e
    match q % 4 with
    | 0 => fixNum neg (sinFix r)
    | 1 => fixNum neg (cosFix r)
    | 2 => fixNum (!neg) (sinFix r)
    | _ => fixNum (!neg) (cosFix r)

/-- cos x (R372 FCOS). -/
def cosNum (m : Nat) (e : Int) : Num :=
  let (q, r) := quarterTurns m e
  match q % 4 with
  | 0 => fixNum false (cosFix r)
  | 1 => fixNum true (sinFix r)
  | 2 => fixNum true (cosFix r)
  | _ => fixNum false (sinFix r)

/-- tanh x (R372 FTANH); a magnitude below 2^-13 rounds to itself and one above 16 to 1. -/
def tanhNum (neg : Bool) (m : Nat) (e : Int) : Num :=
  if (Nat.log2 m : Int) + e < -13 then .fin neg m e
  else if 4 ≤ (Nat.log2 m : Int) + e then .fin neg 1 0
  else
    let x := toFix m (e + 1)
    let q := x / ln2Fix
    let ex := expFix (x % ln2Fix) <<< q
    let one := 2 ^ workBits
    fixNum neg ((ex - one) * one / (ex + one))

/-- The special functions by name (R372). -/
inductive SpFn where
  | rcp | rsq | sqrt | exp2 | log2 | sin | cos | tanh
deriving DecidableEq, Repr

/-- The exact value, before the one rounding to binary32 (R371, R372). -/
def SpFn.value (f : SpFn) (x : Num) : Num :=
  match f, x with
  | _, .nan => .nan
  | .rcp, .inf s => .fin s 0 0
  | .rcp, .fin s m e => if m = 0 then .inf s else recip s m e
  | .rsq, .inf s => if s then .nan else .fin false 0 0
  | .rsq, .fin s m e => if m = 0 then .inf s else if s then .nan else rsqrtNum m e
  | .sqrt, .inf s => if s then .nan else .inf false
  | .sqrt, .fin s m e => if m = 0 then .fin s 0 0 else if s then .nan else sqrtNum m e
  | .exp2, .inf s => if s then .fin false 0 0 else .inf false
  | .exp2, .fin s m e => exp2Num s m e
  | .log2, .inf s => if s then .nan else .inf false
  | .log2, .fin s m e => if m = 0 then .inf true else if s then .nan else log2Num m e
  | .sin, .inf _ => .nan
  | .sin, .fin s m e => if m = 0 then .fin s 0 0 else sinNum s m e
  | .cos, .inf _ => .nan
  | .cos, .fin _ m e => if m = 0 then .fin false 1 0 else cosNum m e
  | .tanh, .inf s => .fin s 1 0
  | .tanh, .fin s m e => if m = 0 then .fin s 0 0 else tanhNum s m e

/-- A special function on binary32 bits (R371). -/
def SpFn.eval (f : SpFn) (a : Word) : Word := BitVec.ofNat 32 (ffF32.roundRn (f.value (ffF32.decode a.toNat)))

/-! ### Sill estimates and refinements (R453) -/

/-- The lane format of a Sill shape (R443): bfloat16 when set. -/
def sillFmt (bf : Bool) : FloatFmt := if bf then ffBF16 else ffF32

/-- Whether the code e lies within a relative error of 2^-12 of a value given by bounds s * 2^k and (s + 1) * 2^k (R453). -/
def withinEstimate (f : FloatFmt) (e : Nat) (exact : Num) : Bool :=
  match f.decode e, exact with
  | .fin s m x, .fin t n y =>
    let base := min x y
    let a := scaleTo m x base
    let b := scaleTo n y base
    s = t && decide (a * 4096 ≤ b * 4097) && decide (b * 4095 ≤ a * 4096)
  | _, _ => false

/-- An estimate for a finite non-zero operand: the free value where it meets the bound, else the correctly rounded value (log 8). -/
def estimate (f : FloatFmt) (free : Nat) (exact : Num) : Nat :=
  if withinEstimate f free exact then free % 2 ^ f.width else f.roundRn exact

def rsqrtEst (bf : Bool) (a : Nat) : Nat :=
  let f := sillFmt bf
  match f.decode a with
  | .nan => f.canonNaN
  | .inf s => if s then f.canonNaN else 0
  | .fin s m e =>
    if m = 0 then f.withSign s f.top
    else if s then f.canonNaN
    else estimate f (Config.rsqrtEstimate bf (BitVec.ofNat 32 a)).toNat (rsqrtNum m e)

def rcpEst (bf : Bool) (a : Nat) : Nat :=
  let f := sillFmt bf
  match f.decode a with
  | .nan => f.canonNaN
  | .inf s => f.withSign s 0
  | .fin s m e =>
    if m = 0 then f.withSign s f.top
    else estimate f (Config.rcpEstimate bf (BitVec.ofNat 32 a)).toNat (recip s m e)

/-- One multiplication, addition or subtraction rounded with RN in a format (R451). -/
def FloatFmt.mulRn (f : FloatFmt) (a b : Nat) : Nat := f.roundRn ((f.decode a).mul (f.decode b))
def FloatFmt.addRn (f : FloatFmt) (a b : Nat) : Nat := f.roundRn (Num.add .rn (f.decode a) (f.decode b))
def FloatFmt.subRn (f : FloatFmt) (a b : Nat) : Nat := f.roundRn (Num.add .rn (f.decode a) (f.decode b).negate)
def FloatFmt.fmaRn (f : FloatFmt) (a b c : Nat) : Nat := f.roundRn (Num.fma .rn (f.decode a) (f.decode b) (f.decode c))
/-- c - a * b, rounded once. -/
def FloatFmt.fmsRn (f : FloatFmt) (a b c : Nat) : Nat := f.roundRn (Num.fma .rn (f.decode a).negate (f.decode b) (f.decode c))

/-- A constant of the refinements in a format. -/
def FloatFmt.const (f : FloatFmt) (m : Nat) (e : Int) : Nat := f.roundRn (.fin false m e)

/-- ZRSQS: a * (1.5 - 0.5 * (b * (a * a))), every step rounded (R453). -/
def rsqrtStep (f : FloatFmt) (a b : Nat) : Nat :=
  let t1 := f.mulRn a a
  let t2 := f.mulRn b t1
  let t3 := f.mulRn (f.const 1 (-1)) t2
  let t4 := f.subRn (f.const 3 (-1)) t3
  f.mulRn a t4

/-- ZRCPS: a * (2 - b * a), every step rounded (R453). -/
def rcpStep (f : FloatFmt) (a b : Nat) : Nat :=
  let t1 := f.mulRn b a
  let t2 := f.subRn (f.const 1 1) t1
  f.mulRn a t2

end Sys2Proof.Machine
end

