-- ==== Sys2Proof/Machine/Order.lean ====
section
/-! DEFINITION. Memory as a lane meets it: the check of an address (R176 to R179, R396), the ordered store buffer (R141, R142), the performing of loads and atomics (R143, R198, R403 to R405), acknowledgements (R219) and releases (R217, R218, R220). -/
namespace Sys2Proof.Machine

/-! ### Addresses of lanes -/

/-- The causes of a lane (R270). -/
def laneNone : Nat := 0
def laneAlign : Nat := 1
def laneRange : Nat := 2
def laneProt : Nat := 3
def laneApert : Nat := 4
def laneCvt : Nat := 5

/-- The cause of an instruction by the lane cause of its lowest faulting lane (R270). -/
def laneCauseCode (c : Nat) : BitVec 8 :=
  match c with
  | 1 => 0x04#8 | 2 => 0x05#8 | 3 => 0x06#8 | 4 => 0x07#8 | _ => 0x11#8

/-- The trap of lanes with causes, if some lane has one (R270, R271). -/
def laneTrap (mask : Mask) (cause : Nat → Nat) (addr : Nat → DWord) : Option Trap :=
  let bad := (lanesOf mask).filter fun l => cause l ≠ 0
  match bad with
  | [] => none
  | l :: _ =>
    let lc := bad.foldl (fun (a : BitVec 128) k => a ||| (BitVec.ofNat 128 (cause k) <<< (4 * k))) 0
    let fa := (bad.find? fun k => cause k ≤ 4).map addr
    some { cause := laneCauseCode (cause l), lanes := maskOf (bad.contains ·), faddr := fa.getD 0, lcause := lc }

/-- Aperture of an address (R176). -/
inductive Aperture where
  | global | stack | scratch | bad
deriving DecidableEq, Repr

def apertureOf (a : DWord) : Aperture :=
  match (a.extractLsb' 57 7).toNat with
  | 0x00 => .global
  | 0x7E => .stack
  | 0x7F => if a.extractLsb' 24 33 = 0#33 then .scratch else .bad
  | _ => .bad

/-- Stack size per lane of a context (R178). -/
def Ctx.sl (c : Ctx) : Nat := c.stkbound / 2 ^ 21 / 4 * 4

/-- The words of a stack access (R179): physical byte addresses, one for each aligned word. -/
def stackWords (c : Ctx) (idx lane o size : Nat) : List Nat :=
  (List.range ((size + 3) / 4)).map fun k => c.stkbase + idx * 32 * c.sl + (o / 4 + k) * 128 + lane * 4 + o % 4

/-- Steps 1 to 3 of R396: APERT, ALIGN, RANGE, in this order. only: the access is qualified `.fe` or `.fec`. -/
def addrCause (c : Ctx) (t : Team) (a : DWord) (size : Nat) (only : Bool) : Nat :=
  let ap := apertureOf a
  if ap = .bad ∨ (only = true ∧ ap ≠ .scratch) then laneApert
  else if a.toNat % size ≠ 0 then laneAlign
  else match ap with
    | .stack => if c.sl < a.toNat % 2 ^ 57 + size then laneRange else 0
    | .scratch => if t.members.length ≤ bitsOf a.toNat 20 4 ∨ t.units * 32768 < bitsOf a.toNat 0 20 + size then laneRange else 0
    | _ => 0

/-- What an address of a lane comes to (R396). -/
inductive LaneRes where
  | ok (t : Target)
  | fault (cause : Nat)
  | hold
  | abort (x : Spot)
deriving DecidableEq, Repr

/-- Uncorrectable data that the walk for a lane has met. -/
def LaneRes.lost? : LaneRes → Option Spot
  | .abort x => some x
  | _ => none

/-- An address of a lane checked and translated (R176 to R188, R396). -/
def State.target (s : State) (t : Team) (g : Group) (lane : Nat) (a : DWord) (size : Nat) (need : Need) (only : Bool) : State × LaneRes :=
  match s.ctx? t.ctx with
  | none => (s, .fault laneProt)
  | some c =>
    let cause := addrCause c t a size only
    if cause ≠ 0 then (s, .fault cause)
    else match apertureOf a with
      | .stack =>
        let ws := stackWords c g.stackIdx lane (a.toNat % 2 ^ 57) size
        (s, if ws.all (fun w => decide (65536 ≤ w ∧ w / 4 * 4 + 4 ≤ memTop)) then .ok (.stack ws) else .fault laneProt)
      | .scratch => (s, .ok (.scratch (bitsOf a.toNat 20 4) (bitsOf a.toNat 0 20)))
      | _ =>
        let va := a.toNat % 2 ^ 57
        match s.place (s.whoTeam t) va need with
        | (s, .here pa _) => (s, .ok (.phys va pa))
        | (s, .peer d pa) => (s, .ok (.remote d va pa))
        | (s, .prot) => (s, .fault laneProt)
        | (s, .nonres) => (s, .ok .nonres)
        | (s, .hold) => (s, .hold)
        | (s, .abort x) => (s, .abort x)

/-- The addresses of every lane of a mask checked and translated; a fault of any lane is the instruction's (R270). -/
def State.targets (s : State) (t : Team) (g : Group) (mask : Mask) (addr : Nat → DWord) (size : Nat) (need : Need) (only : Bool) : Res (List (Nat × Target)) :=
  let (s, rs) := (lanesOf mask).foldl (fun (s, l) k => let (s, r) := s.target t g k (addr k) size need only; (s, l ++ [(k, r)])) (s, ([] : List (Nat × LaneRes)))
  let cause (k : Nat) : Nat := match rs.find? (·.1 = k) with
    | some (_, .fault c) => c
    | _ => 0
  match laneTrap mask cause addr with
  | some tr => .trap s tr
  | none =>
    match rs.findSome? (·.2.lost?) with
    | some x => .gone s x
    | none =>
    if rs.any (·.2 = .hold) then .hold s 0
    else .ok s (rs.filterMap fun (k, r) => match r with
      | .ok t => some (k, t)
      | _ => none)

/-! ### Scratch (R196 to R198) -/

def granules (o n : Nat) : List Nat := upFrom (o / 16) ((o + n + 15) / 16 - o / 16)

def Team.isFull (t : Team) (o n : Nat) : Bool := (granules o n).all (t.full.contains ·)
def Team.setFull (t : Team) (o n : Nat) : Team := { t with full := (t.full.filter fun g => !(granules o n).contains g) ++ granules o n }
def Team.setEmpty (t : Team) (o n : Nat) : Team := { t with full := t.full.filter fun g => !(granules o n).contains g }
def Team.badScratch (t : Team) (o n : Nat) : Bool := (granules o n).any (t.poison.contains ·)

/-- A scratch write at a member's L1 (R198). -/
def Team.putScratch (t : Team) (o : Nat) (bytes : List Byte) (full : Bool) : Team :=
  let t := { t with scratch := memWrite t.scratch o bytes, poison := t.poison.filter fun g => !(decide (o ≤ 16 * g ∧ 16 * g + 16 ≤ o + bytes.length)) }
  if full then t.setFull o bytes.length else t

/-! ### Order within a group -/

/-- Whether a lane's part of a load or atomic of a strand is gated: a live earlier strand has the lane (R143). -/
def Group.laneHeld (g : Group) (sid lane : Nat) : Bool := (g.earlierLanes (g.strand sid)).getLsbD lane

/-- Whether a lane's part of a store entry is held: a live strand earlier than the entry's position has the lane (R141). -/
def Group.partHeld (g : Group) (e : StoreEntry) (lane : Nat) : Bool := (g.lanesBefore e.order).getLsbD lane

/-- Whether a store entry precedes an instruction in the order of R141: by the position of its strand, then by issue. The handler strand has no place among the others. -/
def StoreEntry.precedes (e : StoreEntry) (sid : Nat) (pos : List (BitVec 2)) (id : Nat) : Bool :=
  if e.sid = sid then decide (e.id < id)
  else e.sid ≠ handlerSid && sid ≠ handlerSid && (orderBefore e.order pos || (beginsWith e.order pos && decide (e.id < id)))

/-- An entry takes its place in the order of R141: before the entries of later strands. -/
def Group.enterStore (g : Group) (e : StoreEntry) : Group :=
  let after (o : StoreEntry) : Bool := o.sid ≠ handlerSid && e.sid ≠ handlerSid && orderBefore e.order o.order
  { g with sb := g.sb.takeWhile (!after ·) ++ [e] ++ g.sb.dropWhile (!after ·) }

/-- Whether a part of the lane that comes before the entry is unreleased (R141). -/
def Group.earlierPart (g : Group) (e : StoreEntry) (lane : Nat) : Bool :=
  (g.sb.takeWhile (·.id ≠ e.id)).any fun o => decide ((o.sid = handlerSid) = (e.sid = handlerSid)) && o.parts.any fun p => p.lane = lane && !p.released

/-- The registers an instruction reads and writes: vector registers, predicates, scalars, whether it reads or writes `$seed`, and lanes it reads beyond its MASK. -/
structure Uses where
  rv : List Nat := []
  wv : List Nat := []
  rp : List Nat := []
  wp : List Nat := []
  rs : List Nat := []
  ws : List Nat := []
  seed : Bool := false
  lanes : Mask := 0
deriving DecidableEq, Repr

def Uses.join (a b : Uses) : Uses :=
  ⟨a.rv ++ b.rv, a.wv ++ b.wv, a.rp ++ b.rp, a.wp ++ b.wp, a.rs ++ b.rs, a.ws ++ b.ws, a.seed || b.seed, a.lanes ||| b.lanes⟩

/-- The lanes of an access in flight: those of MASK for one made once (R402, R406, R392), otherwise those of its parts. -/
def Load.lanes (l : Load) : Mask := match l.dest with
  | .scalar _ _ _ => l.mask
  | .agg _ _ xs => maskOf fun k => xs.any (·.1 = k)
  | _ => if l.parts.any fun p => decide (32 ≤ p.lane) then l.mask else maskOf fun k => l.parts.any (·.lane = k)

/-- Whether an acquiring load of the strand before an instruction still holds back the lane's stores (R221). -/
def Group.acquiring (g : Group) (sid lane id : Nat) : Bool :=
  g.loads.any fun l => l.acq && l.sid = sid && decide (l.id < id) && l.lanes.getLsbD lane

/-- Whether a store part may be released now (R141, R221). -/
def Group.partReady (g : Group) (e : StoreEntry) (lane : Nat) : Bool :=
  !g.partHeld e lane && !g.earlierPart e lane && !g.acquiring e.sid lane e.id

/-- Entries that have a held part (R142). -/
def Group.heldEntries (g : Group) : Nat := (g.sb.filter fun e => e.parts.any fun p => !p.released && g.partHeld e p.lane).length

/-- Whether a store with parts on these lanes must wait for the buffer (R142). -/
def Group.bufferFull (g : Group) (st : Strand) (lanes : Mask) : Bool :=
  decide (16 ≤ g.sb.length) || ((g.earlierLanes st &&& lanes) != 0#32 && decide (8 ≤ g.heldEntries))

/-! ### The performing of stores -/

/-- A store or atomic that misses the L1 may be sampled (R207). -/
def State.sampleMiss (s : State) (core : Nat) (ctx : BitVec 8) (pa va kind : Nat) : State :=
  if ((s.core core).l1? pa).any (·.live (s.timeOf (dieOfCore core))) then s else s.sample core ctx va kind

/-- Cache class of a store entry's hint (R200, R394). -/
def StoreEntry.cls (e : StoreEntry) : Nat := hintClass e.cache

/-- Bytes written to the words of a stack access, each word on its own (R179). -/
def splitWords (ws : List Nat) (bytes : List Byte) : List (Nat × List Byte) :=
  match ws with
  | [] => []
  | [w] => [(w, bytes)]
  | w :: r => (w, bytes.take 4) :: splitWords r (bytes.drop 4)

/-- The tag of the request that has just gone out. -/
def State.lastTag (s : State) : Nat := (s.outstanding.getLast?.map (·.tag)).getD 0

/-- What the release of a part comes to: the state, the completion time, whether the line is global and which, and the tag of a remote write. -/
inductive Performed where
  | done (s : State) (time : Nat) (global : Bool) (line : Nat) (tag : Option Nat)
  /-- the bent was killed -/
  | killed (s : State)
  /-- no port can deliver a remote write (R24) -/
  | noPort
  /-- it waits for a tag or an entry of its core (R26, R203) -/
  | full

/-- A part's bytes reach memory (R198, R212, R213, R216, R217). -/
def State.performStore (s : State) (r : GroupRef) (t : Team) (e : StoreEntry) (p : StorePart) : Performed :=
  let w := s.whoTeam t
  match p.target with
  | .nonres => .done s 0 false 0 none
  | .phys va pa =>
    if pa < 65536 then .done (s.physWrite pa p.data) 0 false 0 none
    else if s.badWrite pa p.data.length then .killed (s.abortAt r.ctx r.vteam pa p.data.length)
    else
      let k := s.l1Core t pa
      let s := s.sampleMiss k t.ctx pa va 1
      let (s, wt) := (s.updateL1 k pa p.data e.cls).writeHome w (some k) pa va p.data e.cls
      .done s wt true (va / 128) none
  | .stack ws =>
    let pieces := splitWords ws p.data
    if pieces.any fun (a, b) => s.badWrite a b.length then .killed (s.abortAt r.ctx r.vteam ((ws.find? fun a => s.bad a 1).getD 0) 1)
    else
      let (s, wt) := pieces.foldl (fun (s, m) (a, b) =>
        let k := s.l1Core t a
        let (s, x) := (s.updateL1 k a b e.cls).writeHome w (some k) a a b e.cls
        (s, max m x)) (s, 0)
      .done s wt false 0 none
  | .remote d va pa =>
    match (s.sample t.core t.ctx va 1).request d (writeTxn t.ctx pa p.data) (.storeAck r e.id) with
    | .sent s => .done s 0 true (va / 128) (some s.lastTag)
    | .noPort => .noPort
    | .full => .full
  | .scratch m o =>
    match s.member? t.bent m with
    | none => .done s 0 false 0 none
    | some u =>
      if (u.badScratch o p.data.length) && !(decide (o % 16 = 0 ∧ p.data.length = 16)) then .killed (s.abortTeam r.ctx r.vteam (scratchSpot u.core))
      else .done (s.modTeam u.ctx u.vteam (·.putScratch o p.data (e.setFull || m ≠ t.bpos))) 0 false 0 none

/-- A released part leaves its entry, and an entry whose parts are all released is freed (R142). -/
def Group.markReleased (g : Group) (id lane : Nat) : Group :=
  let sb := lmod g.sb (·.id = id) fun e => { e with parts := lmod e.parts (·.lane = lane) fun p => { p with released := true } }
  Group.wake { g with sb := sb.filter fun e => !(e.parts.all (·.released)) }

/-- An acknowledgement outstanding (R219). -/
def Group.addAck (g : Group) (sid lane entry : Nat) (global : Bool) (line time : Nat) (tag : Option Nat) (held : List Nat) (once : Bool) : Group :=
  { g with acks := g.acks ++ [⟨g.nextId, sid, lane, entry, global, line, time, tag, held, once⟩], nextId := g.nextId + 1 }

/-- A load part's state replaced. -/
def Group.setPart (g : Group) (id lane : Nat) (st : PartState) : Group :=
  { g with loads := lmod g.loads (·.id = id) fun l => { l with parts := lmod l.parts (·.lane = lane) fun p => { p with st := st } } }

/-- Whether an access is made once for the strand (R402). -/
def LoadDest.once : LoadDest → Bool
  | .scalar _ _ _ => true
  | _ => false

/-- Whether one part stands for every lane: a scalar access or an ATOMAGG (R396, R402, R406). -/
def LoadDest.whole : LoadDest → Bool
  | .scalar _ _ _ | .agg _ _ _ => true
  | _ => false

/-- The number that stands for a lane in piece k of a slide image (R392), and with k = 0 in the remote write of a scalar store. -/
def pieceLane (k : Nat) : Nat := 32 + k

/-- The address that a remote part named, as a generic address. -/
def Target.va : Target → Nat
  | .phys va _ => va
  | .remote _ va _ => va
  | _ => 0

/-- Registers that n bytes take (R397). -/
def regsOf (n : Nat) : Nat := if n ≤ 4 then 1 else n / 4

/-- Whether every lane of an access has been answered and a peer has refused some (R185, R270). -/
def Load.refused (l : Load) : Bool := l.parts.any (·.st = .failed) && l.parts.all fun p => match p.st with
  | .gated | .remote _ => false
  | _ => true

/-- The fault entry of an access that peers have refused: every lane refused, PROT, with the address of the lowest (R185, R270, R271). -/
def Load.refusal (l : Load) : FaultEntry :=
  let bad := (l.parts.filter (·.st = .failed)).map fun p => (p.lane, p.target.va)
  let low := bad.foldl (fun (b : Nat × Nat) x => if x.1 < b.1 then x else b) (bad.getD 0 (0, 0))
  let once := l.dest.whole || bad.any fun x => decide (32 ≤ x.1)
  let lanes := if once then l.mask else maskOf fun k => bad.any (·.1 = k)
  ⟨l.pc, 0x06#8, BitVec.ofNat 4 l.la, 0, lanes, BitVec.ofNat 64 low.2 - BitVec.ofNat 64 (128 * (low.1 - 32)),
    (lanesOf lanes).foldl (fun (a : BitVec 128) k => a ||| (BitVec.ofNat 128 laneProt <<< (4 * k))) 0, 0⟩

/-- Registers that a load writes when it returns. -/
def Load.pending (l : Load) : Uses :=
  let regs : Uses := match l.dest with
    | .vector d n _ | .atomic d n | .agg d n _ => { wv := upFrom d (regsOf n) }
    | .scalar d _ _ => { ws := [d.toNat] }
    | .store => {}
  match l.flag with
  | some f => { regs with wp := [f] }
  | none => regs

/-- A late failure of an issued access (R151, R185, R272): once every lane has been answered, the access leaves, and its fault is to be raised. -/
def Group.settleLate (g : Group) (id : Nat) : Group :=
  match g.loads.find? (·.id = id) with
  | none => g
  | some l =>
    if !l.refused then g
    else
      let u := l.pending
      { g with loads := g.loads.filter (·.id ≠ id)
               failing := g.failing ++ [⟨g.nextId, l.sid, l.issuedAfter, u.wv, u.wp, u.ws, l.mask, l.refusal, false⟩]
               nextId := g.nextId + 1 }

/-- A lane of an access that a peer has refused, or that no port can deliver (R24, R185). -/
def Group.refuse (g : Group) (id lane : Nat) : Group := (g.setPart id lane .failed).settleLate id

/-- The addresses of a part whose lines a Sill run holds. -/
def State.heldOf (s : State) (t : Target) : List Nat := match t with
  | .phys _ pa => if s.held pa then [pa] else []
  | .stack ws => ws.filter s.held
  | _ => []

/-- The release of one part (R141): it is performed, a scalar store with its last part, and its acknowledgement becomes outstanding. -/
def State.releasePart (s : State) (r : GroupRef) (id lane : Nat) : State :=
  match s.team? r.ctx r.vteam, s.group? r with
  | some t, some g =>
    match g.sb.find? (·.id = id) with
    | none => s
    | some e =>
      match e.parts.find? fun p => p.lane = lane && !p.released with
      | none => s
      | some p =>
        if e.atomic || !g.partReady e lane then s
        else if e.scalar && (e.parts.filter fun q => !q.released).length ≠ 1 then s.modGroup r (·.markReleased id lane)
        else
          let pl := if e.scalar then pieceLane 0 else lane
          match s.performStore r t e p with
          | .done s wt global line tag =>
            let tell (g : Group) : Group :=
              match p.target with
              | .nonres => g
              | .remote _ _ _ => (g.addAck e.sid lane id global line wt tag [] e.scalar).setPart id pl (.remote (tag.getD 0))
              | t => g.addAck e.sid lane id global line wt tag (s.heldOf t) e.scalar
            s.modGroup r fun g => tell (g.markReleased id lane)
          | .killed s => s
          | .noPort => s.modGroup r fun g => (g.markReleased id lane).refuse id pl
          | .full => s
  | _, _ => s

/-! ### Acknowledgements (R219) -/

/-- lease_now() of a group (R9, R219). -/
def State.leaseNow (s : State) (t : Team) : Nat := s.timeOf (dieOfCore t.core)

/-- One acknowledgement of a completion time (R219). -/
def Group.acknowledge (g : Group) (a : Ack) (now : Nat) : Group :=
  let w := a.time
  let g := Group.wake { g with acks := g.acks.filter (·.id ≠ a.id), wmax := max g.wmax w }
  if !(a.global && decide (now < w)) then g
  else
    let idx := List.range 16
    let at_ (k : Nat) : RtEntry := g.rt.getD k ⟨false, 0, 0⟩
    match idx.find? fun k => (at_ k).valid && (at_ k).line = a.line with
    | some k => { g with rt := vmod g.rt k fun e => { e with time := max e.time w } }
    | none =>
      match idx.find? fun k => !(at_ k).valid || decide ((at_ k).time ≤ now) with
      | some k => { g with rt := vmod g.rt k fun _ => ⟨true, a.line, w⟩ }
      | none =>
        let k := idx.foldl (fun b x => if (at_ x).time < (at_ b).time then x else b) 0
        { g with omax := max g.omax (at_ k).time, ovf := true, rt := vmod g.rt k fun _ => ⟨true, a.line, w⟩ }

/-! ### Releases (R217, R218, R220) -/

/-- A release as it issues: what it covers is fixed now (R218). -/
def Group.newRelease (g : Group) (scope : Scope) (lanes : Mask) (fence : Bool) (range : Option (Nat × Nat)) : RelWait :=
  ⟨scope, lanes, g.nextId, g.nextId, range, fence, none, decide (scope = .strand)⟩

/-- Whether a line has a byte in a range (R220). -/
def lineInRange (line : Nat) (r : Nat × Nat) : Bool := decide (r.1 < (line + 1) * 128 ∧ line * 128 < min (r.1 + r.2) (2 ^ 64) ∧ r.2 ≠ 0)

/-- Whether a global line counts for a release. -/
def RelWait.wants (w : RelWait) (line : Nat) : Bool := match w.range with
  | none => true
  | some r => lineInRange line r

/-- Whether a store part in the buffer is covered and unreleased (R218); the parts of a scalar store reach memory with the last of them (R402). -/
def Group.coveredPart (g : Group) (sid : Nat) (w : RelWait) : Bool :=
  g.sb.any fun e => e.sid = sid && decide (e.id < w.entryMark) && e.parts.any fun p => (!p.released || e.scalar) && w.lanes.getLsbD p.lane &&
    match p.target with
    | .phys va _ | .remote _ va _ => w.wants (va / 128)
    | _ => true

/-- Whether a covered part is released and unacknowledged (R218). -/
def Group.coveredAck (g : Group) (sid : Nat) (w : RelWait) : Bool :=
  g.acks.any fun a => (decide (a.id < w.ackMark) || (a.sid = sid && decide (a.entry < w.entryMark) && (a.once || w.lanes.getLsbD a.lane)))
    && (!a.global || w.wants a.line)

/-- Whether a scope asks for acknowledgements, and whether it asks for a time wait (R217). -/
def scopeNeeds (scope : Scope) (fused : Bool) : Bool × Bool :=
  match scope with
  | .strand | .group | .team | .core => (false, false)
  | .bent => (true, !fused)
  | .device | .system => (true, true)

/-- One look at a release in wait (R220): whether it is done, and its state. -/
def Group.stepRelease (g : Group) (sid : Nat) (w : RelWait) (fused : Bool) (now : Nat) : RelWait :=
  let (acks, time) := scopeNeeds w.scope fused
  if w.done then w
  else match w.until_ with
    | some t => { w with done := decide (t ≤ now) }
    | none =>
      if g.coveredPart sid w || (acks && g.coveredAck sid w) then w
      else if !time then { w with done := true }
      else
        let t := if w.range.isNone then g.wmax
          else
            let m := g.rt.foldl (fun m e => if e.valid && w.wants e.line then max m e.time else m) 0
            if g.ovf then max m g.omax else m
        { w with until_ := some t, done := decide (t ≤ now) }

/-- OVF after a release that passed a time t (R220). -/
def Group.passRelease (g : Group) (w : RelWait) : Group :=
  match w.until_ with
  | some t => if g.omax ≤ t then { g with ovf := false } else g
  | none => g

/-- Whether an engine's acquire still waits (R227). Of a group that has ended only the greatest completion time that its team keeps of it is left to wait for. -/
def State.acquireWaits (s : State) (a : Option AcqWait) : Bool :=
  match a with
  | none => false
  | some a =>
    match s.anyTeam? a.g.ctx a.g.vteam with
    | none => false
    | some t => match t.group? a.g.gidx with
      | some g => !(g.stepRelease a.sid a.rel t.fused (s.leaseNow t)).done
      | none => (scopeNeeds a.rel.scope t.fused).2 && decide (s.leaseNow t < t.leftMax)

/-! ### The performing of loads and atomics -/

/-- Bytes of the lane's own earlier, unreleased stores over bytes read (R141): addresses are those of one address space. -/
def overlay (a : Nat) (bytes : List Byte) (b : Nat) (data : List Byte) : List Byte :=
  (bytes.zipIdx a).map fun (x, k) => if b ≤ k then data.getD (k - b) x else x

/-- The entries whose stores a load sees (R141): those before it, but for an ungated one those of its own strand (R143). -/
def Group.seen (g : Group) (l : Load) : List StoreEntry :=
  g.sb.filter fun e => (!l.nc || e.sid = l.sid) && e.precedes l.sid (g.strand l.sid).order l.id

/-- A lane's earlier unreleased parts, oldest first (R141); for an access made once for the strand, those of every lane. -/
def Group.pendingParts (g : Group) (l : Load) (lane : Nat) : List StorePart :=
  (g.seen l).flatMap fun e => e.parts.filter fun p => (l.dest.once || p.lane = lane) && !p.released && !e.atomic

/-- Whether an atomic of the lane that comes before a load is still to be performed, so that its value is not known (R141, R144). -/
def Group.atomicWaits (g : Group) (l : Load) (lane : Nat) : Bool :=
  (g.seen l).any fun e => e.atomic && e.parts.any fun p => (l.dest.once || p.lane = lane) && !p.released

def overPhys (ps : List StorePart) (a : Nat) (bytes : List Byte) : List Byte :=
  ps.foldl (fun bs p => match p.target with
    | .phys _ pa => overlay a bs pa p.data
    | .stack ws => (splitWords ws p.data).foldl (fun bs (w, d) => overlay a bs w d) bs
    | _ => bs) bytes

def overScratch (ps : List StorePart) (m o : Nat) (bytes : List Byte) : List Byte :=
  ps.foldl (fun bs p => match p.target with
    | .scratch m' o' => if m' = m then overlay o bs o' p.data else bs
    | _ => bs) bytes

/-- Bytes of an access width. -/
def LoadDest.bytes : LoadDest → Nat
  | .vector _ w _ | .scalar _ w _ | .atomic _ w | .agg _ w _ => w
  | .store => 0

/-- What performing a lane comes to. -/
inductive LaneDone where
  | notYet
  | killed (s : State)
  | done (s : State) (st : PartState)

/-- Whether a `.fec` access that arrived before stands at a granule (R198); mine is the cycle of the lane's own arrival. -/
def State.fecBefore (s : State) (t : Team) (m o : Nat) (mine : Option Nat) : Bool :=
  s.teams.any fun u => u.bent = t.bent && u.groups.any fun g => g.loads.any fun l => l.fe = 2 && l.parts.any fun p => p.st = .gated &&
    match p.arrived, p.target with
    | some c, .scratch m' o' => m' = m && o' / 16 = o / 16 && mine.all (c < ·)
    | _, _ => false

/-- A plain load of one lane (R143, R188, R198, R210). -/
def State.performLoad (s : State) (r : GroupRef) (t : Team) (g : Group) (l : Load) (p : LoadPart) : LaneDone :=
  let n := l.dest.bytes
  let w := s.whoTeam t
  let mine := g.pendingParts l p.lane
  let cls := hintClass l.cache
  if g.atomicWaits l p.lane then .notYet
  else match p.target with
  | .nonres => .done s (.done (List.replicate n 0) true)
  | .phys va pa =>
    if pa < 65536 then .done s (.done (s.physBytes pa n) false)
    else if s.bad pa n then .killed (s.abortAt r.ctx r.vteam pa n)
    else match s.loadGlobal w t va pa n cls 0 with
      | none => .notYet
      | some (s, bytes) => .done s (.done (overPhys mine pa bytes) false)
  | .stack ws =>
    let sizes := splitWords ws (List.replicate n 0)
    if sizes.any fun (a, b) => s.bad a b.length then .killed (s.abortAt r.ctx r.vteam ((ws.find? fun a => s.bad a 1).getD 0) 1)
    else
      let step (acc : Option (State × List Byte)) (x : Nat × List Byte) : Option (State × List Byte) :=
        match acc with
        | none => none
        | some (s, bs) => match s.loadGlobal w t x.1 x.1 x.2.length cls 6 with
          | none => none
          | some (s, d) => some (s, bs ++ overPhys mine x.1 d)
      match sizes.foldl step (some (s, [])) with
      | none => .notYet
      | some (s, bytes) => .done s (.done bytes false)
  | .remote d va pa =>
    let same (q : StorePart) : Bool := match q.target with
      | .remote d' va' _ => d' = d && va' / 128 = va / 128
      | _ => false
    if s.unackedLine (·.core = t.core) va || mine.any same then .notYet
    else match (s.sample t.core t.ctx va 0).request d (readTxn t.ctx pa n) (.loadPart r l.id p.lane) with
    | .sent s => .done s (.remote s.lastTag)
    | .noPort => .done s .failed
    | .full => .notYet
  | .scratch m o =>
    match s.member? t.bent m with
    | none => .notYet
    | some u =>
      if l.fe ≠ 0 && (!u.isFull o n || (l.fe = 2 && s.fecBefore t m o p.arrived)) then .notYet
      else if u.badScratch o n then .killed (s.abortTeam r.ctx r.vteam (scratchSpot u.core))
      else
        let bytes := overScratch mine m o (memRead u.scratch o n)
        let s := if l.fe = 2 then s.modTeam u.ctx u.vteam (·.setEmpty o n) else s
        .done s (.done bytes false)

/-- A signed reading of a code of n bytes. -/
def sintOf (n v : Nat) : Int := if v < 2 ^ (8 * n - 1) then v else (v : Int) - 2 ^ (8 * n)

/-- New value of an atomic (R403, R404). -/
def AtomOp.apply (op : AtomOp) (n m x cmp : Nat) : Nat :=
  match op with
  | .add => (m + x) % 2 ^ (8 * n)
  | .minS => if sintOf n x < sintOf n m then x else m
  | .maxS => if sintOf n m < sintOf n x then x else m
  | .minU => min m x
  | .maxU => max m x
  | .and => m &&& x
  | .or => m ||| x
  | .xor => m ^^^ x
  | .xchg => x
  | .fadd => if n = 8 then ffF64.addRn m x else ffF32.addRn m x
  | .cas => if m = cmp then x else m

/-- CPYRED on one element of a format (R416): op 0 adds, 1 takes the minimum, 2 the maximum. -/
def redElem (op : Nat) (f : Fmt) (old new : Nat) : Nat :=
  match f.float? with
  | some ff => if op = 0 then ff.addRn old new else ff.minmax (op = 2) old new
  | none =>
    let n := f.bits / 8
    let sgn := f = .i32 ∨ f = .i64
    match op with
    | 0 => AtomOp.apply .add n old new 0
    | 1 => AtomOp.apply (if sgn then .minS else .minU) n old new 0
    | _ => AtomOp.apply (if sgn then .maxS else .maxU) n old new 0

/-- The bytes that new ones leave over old ones: themselves, or for CPYRED the elementwise result (R415, R416). -/
def redBytes (op : Option (Nat × Fmt)) (old new : List Byte) : List Byte :=
  match op with
  | none => new
  | some (op, f) =>
    let w := f.bits / 8
    (List.range (new.length / w)).flatMap fun k =>
      leBytes (redElem op f (leNat ((old.drop (w * k)).take w)) (leNat ((new.drop (w * k)).take w))) w

/-- The code of an atomic over Ridge (R51); none for those that it does not carry. -/
def AtomOp.aop : AtomOp → Option Nat
  | .add => some 0 | .minS => some 1 | .maxS => some 2 | .and => some 3 | .or => some 4 | .xor => some 5
  | .xchg => some 6 | .cas => some 7 | _ => none

/-- The lanes that one step of an atomic performs: for an ATOMAGG all of its lanes (R225). -/
def Load.lanesAt (l : Load) (lane : Nat) : List Nat :=
  match l.dest with
  | .agg _ _ xs => xs.map (·.1)
  | _ => [lane]

/-- Whether every earlier store part of the lane has been released, so that its atomic may be performed (R144). -/
def Group.atomicReady (g : Group) (l : Load) (lane : Nat) : Bool :=
  match g.sb.find? (·.id = l.id) with
  | none => true
  | some e => (l.lanesAt lane).all (g.partReady e)

/-- The store parts of one step of an atomic leave the buffer. -/
def Group.releaseAtomic (g : Group) (l : Load) (lane : Nat) : Group := (l.lanesAt lane).foldl (fun (g : Group) k => g.markReleased l.id k) g

/-- One atomic at its home (R224, R403, R404): the old value is the lane's, the store part's acknowledgement becomes outstanding. -/
def State.performAtomic (s : State) (r : GroupRef) (t : Team) (l : Load) (op : AtomOp) (p : LoadPart) : LaneDone :=
  let n := l.dest.bytes
  let w := s.whoTeam t
  let fin (s : State) (m : Nat) (global : Bool) (line time : Nat) : LaneDone :=
    .done (s.modGroup r fun g => (g.releaseAtomic l p.lane).addAck l.sid p.lane l.id global line time none [] l.dest.whole) (.done (leBytes m n) false)
  match p.target with
  | .nonres => .done (s.modGroup r (·.releaseAtomic l p.lane)) (.done (List.replicate n 0) true)
  | .phys va pa =>
    if pa < 65536 then
      let m := leNat (s.physBytes pa n)
      fin (s.physWrite pa (leBytes (op.apply n m p.operand p.compare) n)) m false 0 0
    else if s.bad pa n then .killed (s.abortAt r.ctx r.vteam pa n)
    else if s.held pa then .notYet
    else
      let k := s.l1Core t pa
      let m := s.ld pa n
      let v := op.apply n m p.operand p.compare
      let s := (s.sampleMiss k t.ctx pa va 2).dropL1 k pa
      if v = m then fin (s.touchHome w (some k) pa va (hintClass l.cache)) m true (va / 128) (s.timeOf (dieOfPa pa))
      else
        let (s, wt) := s.writeHome w (some k) pa va (leBytes v n) (hintClass l.cache)
        fin s m true (va / 128) wt
  | .stack ws =>
    if ws.any fun a => s.bad a 4 then .killed (s.abortAt r.ctx r.vteam ((ws.find? fun a => s.bad a 1).getD 0) 1)
    else if ws.any s.held then .notYet
    else
      let m := leNat (ws.flatMap fun a => memRead s.mem a 4)
      let v := op.apply n m p.operand p.compare
      let (s, wt) := (splitWords ws (leBytes v n)).foldl (fun (s, x) (a, b) =>
        let k := s.l1Core t a
        let s := s.dropL1 k a
        if v = m then (s.touchHome w (some k) a a (hintClass l.cache), max x (s.timeOf (dieOfPa a)))
        else
          let (s, y) := s.writeHome w (some k) a a b (hintClass l.cache)
          (s, max x y)) (s, 0)
      fin s m false 0 wt
  | .remote d va pa =>
    match op.aop with
    | none => .done (s.modGroup r (·.releaseAtomic l p.lane)) .failed
    | some a =>
      match (s.sample t.core t.ctx va 2).request d (atomicTxn t.ctx pa a n p.operand p.compare) (.loadPart r l.id p.lane) with
      | .sent s => .done (s.modGroup r fun g => (g.releaseAtomic l p.lane).addAck l.sid p.lane l.id true (va / 128) 0 (some s.lastTag) [] l.dest.whole) (.remote s.lastTag)
      | .noPort => .done (s.modGroup r (·.releaseAtomic l p.lane)) .failed
      | .full => .notYet
  | .scratch m o =>
    match s.member? t.bent m with
    | none => .notYet
    | some u =>
      if u.badScratch o n then .killed (s.abortTeam r.ctx r.vteam (scratchSpot u.core))
      else
        let old := leNat (memRead u.scratch o n)
        fin (s.modTeam u.ctx u.vteam (·.putScratch o (leBytes (op.apply n old p.operand p.compare) n) false)) old false 0 0

/-- A `.fec` access waits at its granule from now on (R198). -/
def Group.noteArrival (g : Group) (id lane cycle : Nat) : Group :=
  { g with loads := lmod g.loads (·.id = id) fun l => { l with parts := lmod l.parts (·.lane = lane) fun p => { p with arrived := some cycle } } }

/-- Whether a gated lane may be performed now, as far as order goes (R143, R144, R400). -/
def Group.lanePermitted (g : Group) (l : Load) (lane : Nat) : Bool :=
  (l.nc || !g.laneHeld l.sid lane) && (l.op.isNone || g.atomicReady l lane)

/-- One lane of a load or atomic performed if it may be; an atomic takes with it the other lanes that name its location, in lane order (R405). -/
def State.performLane (s : State) (r : GroupRef) (id lane : Nat) : State :=
  match s.group? r with
  | none => s
  | some g =>
    match g.loads.find? (·.id = id) with
    | none => s
    | some l =>
      match l.parts.find? fun p => p.lane = lane && p.st = .gated with
      | none => s
      | some p =>
        if l.dest = .store then s
        else
          let same := l.parts.filter fun q => q.st = .gated && (q.lane = lane || (l.op.isSome && q.target = p.target && q.target ≠ .nonres))
          if !(same.all fun q => g.lanePermitted l q.lane) then s
          else same.foldl (fun s q => match s.team? r.ctx r.vteam, s.group? r with
            | some t, some g =>
              let d := match l.op with
                | none => s.performLoad r t g l q
                | some op => match s.arithmetic t with
                  | (s, true) => s.performAtomic r t l op q
                  | (s, false) => .killed s
              match d with
              | .notYet => if l.fe = 2 && q.arrived.isNone then s.modGroup r (·.noteArrival id q.lane s.cycle) else s
              | .killed s => s
              | .done s st => s.modGroup r fun g => (g.setPart id q.lane st).settleLate id
            | _, _ => s) s

/-- Every lane of a load that may be performed at once is (R143). -/
def State.performAll (s : State) (r : GroupRef) (id : Nat) : State := (List.range 32).foldl (fun s k => s.performLane r id k) s

/-! ### Data return (R397, R398) -/

/-- The register words of returned bytes (R397). -/
def widen (bytes : List Byte) (sign : Bool) (j : Nat) : Word :=
  let n := bytes.length
  if n < 4 then
    let v := leNat bytes
    if sign && v.testBit (8 * n - 1) then BitVec.ofInt 32 (sintOf n v) else BitVec.ofNat 32 v
  else BitVec.ofNat 32 (leNat ((bytes.drop (4 * j)).take 4))

def partData (p : LoadPart) : Option (List Byte × Bool) := match p.st with
  | .done d f => some (d, f)
  | _ => none

/-- Lanes written into a vector register of the group. -/
def Group.setV (g : Group) (d : Nat) (m : Mask) (x : Lanes) : Group := { g with v := vmod g.v d fun old => lanesMerge old m x }

/-- Lanes written into a predicate; p0 discards (R124). -/
def Group.setP (g : Group) (d : Nat) (m : Mask) (x : Mask) : Group :=
  if d = 0 then g else { g with p := vmod g.p d fun old => (old &&& ~~~m) ||| (x &&& m) }

/-- What a lane of an ATOMAGG receives: the counter before its own contribution, or 0 for a non-resident page (R406). -/
def aggRun (n m : Nat) (resident : Bool) (xs : List (Nat × Nat)) (lane : Nat) : Nat :=
  if resident then (xs.foldl (fun run x => if x.1 < lane then (run + x.2) % 2 ^ (8 * n) else run) m) else 0

/-- The results of a load or atomic whose lanes have all been performed are written, with its flag bits (R188, R398, R402, R403). -/
def Group.returnLoad (g : Group) (l : Load) : Group :=
  let g := g.wake
  let mask := maskOf fun k => l.parts.any (·.lane = k)
  let fmask := l.lanes
  let data (k : Nat) : List Byte := match (l.parts.find? (·.lane = k)).bind partData with
    | some (d, _) => d
    | none => []
  let flags := maskOf fun k => match (l.parts.find? (·.lane = k)).bind partData with
    | some (_, f) => f
    | none => false
  let g := match l.dest with
    | .vector d n sign => (List.range (regsOf n)).foldl (fun (g : Group) j => g.setV (d + j) mask (lanesFn fun k => widen (data k) sign j)) g
    | .atomic d n => (List.range (regsOf n)).foldl (fun (g : Group) j => g.setV (d + j) mask (lanesFn fun k => widen (data k) false j)) g
    | .scalar d n sign =>
      let bytes := match lowLane mask with
        | some k => data k
        | none => []
      let v := leNat bytes
      g.setScalar l.sid d.toNat (if sign then BitVec.ofInt 64 (sintOf n v) else BitVec.ofNat 64 v)
    | .agg d n xs => (List.range (regsOf n)).foldl (fun (g : Group) j => g.setV (d + j) fmask (lanesFn fun k => widen (leBytes (aggRun n (leNat (data (lowLane mask |>.getD 0))) (flags == 0#32) xs k) n) false j)) g
    | .store => g
  let g := match l.flag with
    | some f => g.setP f fmask (if l.parts.any fun p => (l.dest.whole || decide (32 ≤ p.lane)) && ((partData p).any fun (d : List Byte × Bool) => d.2) then 0xFFFFFFFF#32 else flags)
    | none => g
  let g := { g with loads := g.loads.filter (·.id ≠ l.id) }
  g.modStrand l.sid fun st => if st.park = some (Park.granule l.id) then { st with state := .ready, park := none, why := 0 } else st

/-- A load all of whose lanes have been performed. -/
def Load.whole (l : Load) : Bool := l.parts.all fun p => (partData p).isSome

/-! ### The drain (R152, R272) -/

/-- Whether a part of an access on a page of a peer may still be refused before the group's handler starts: it is answered or sent without the end of a stopped strand (R152, R272). -/
def Group.mayFail (g : Group) (l : Load) (p : LoadPart) : Bool :=
  match p.st, p.target with
  | .remote _, _ => true
  | .gated, .remote _ _ _ => match g.sb.find? (·.id = l.id) with
    | some e => !(e.parts.any fun q => (decide (32 ≤ p.lane) || q.lane = p.lane) && g.partHeld e q.lane)
    | none => l.nc || !g.laneHeld l.sid p.lane
  | _, _ => false

/-- What a group whose trap drains still waits for (R152, R272): a strand that may issue before 1,024 cycles have passed, or an issued instruction that has not passed or failed its checks. -/
def Group.drained (g : Group) (cycle : Nat) : Bool :=
  let busy := g.live.any fun x => x.2.isReady && !g.record.fset.getLsbD x.1
  let late := decide (g.trapAt + 1024 ≤ cycle)
  (!busy || late) && !(g.loads.any fun l => l.parts.any (g.mayFail l)) && g.failing.all (·.raised)

end Sys2Proof.Machine
end

