-- ==== Sys2Proof/Machine/Queues.lean ====
section
/-! DEFINITION. Queues of a context: their counters and status wherever they stand (R41 to R48, R55), their error state, completion signals (R57, R58), and what the packet processor reads and writes for itself (R56, R466). -/
namespace Sys2Proof.Machine

/-! ### Queues -/

/-- Address of a queue descriptor (R41). -/
def queueDesc (c : Ctx) (q : Nat) : Nat := c.desc + 64 + 32 * q

/-- Bytes 0 to 15 of a queue descriptor: RING, LOGSIZE, KIND, and whether a reserved bit is set (R41). -/
structure QDesc where
  ring : Nat
  logsize : Nat
  kind : Nat
  bad : Bool
deriving DecidableEq, Repr

def State.readQDesc (s : State) (c : Ctx) (q : Nat) : QDesc :=
  let a := queueDesc c q
  ⟨s.ld a 8, s.ld (a + 8) 1 % 32, s.ld (a + 9) 1,
   decide (s.ld (a + 8) 1 / 32 ≠ 0 ∨ s.ld (a + 10) 6 ≠ 0 ∨ s.ld a 8 % 4096 ≠ 0)⟩

/-- Whether LOGSIZE and KIND are in range and no reserved bit is set (R41, R42). -/
def QDesc.ok (d : QDesc) : Bool := !d.bad && decide (4 ≤ d.logsize ∧ d.logsize ≤ 16 ∧ d.kind ≤ 1)

/-- QSTATUS (R55). -/
def Queue.status (x : Queue) : Nat :=
  (if x.slot.isSome then 1 else 0) + (if x.error then 2 else 0) + (if x.consumed then 4 else 0) + x.errcode.toNat * 256 + x.errcount.toNat * 2 ^ 32

/-- A queue with the counters and status that bytes 16 to 31 of its descriptor hold (R41, R42). -/
def State.loadQueue (s : State) (c : Ctx) (q : Nat) (x : Queue) : Queue :=
  let a := queueDesc c q
  let w := s.ld (a + 24) 8
  { x with tail := BitVec.ofNat 32 (s.ld (a + 16) 4), progress := BitVec.ofNat 32 (s.ld (a + 20) 4),
           error := w.testBit 1, consumed := w.testBit 2, errcode := BitVec.ofNat 8 (bitsOf w 8 8), errcount := BitVec.ofNat 32 (bitsOf w 32 32) }

/-- Counters and status written into the descriptor at a switch-out (R42, R48). -/
def State.saveQueue (s : State) (c : Ctx) (q : Nat) (x : Queue) : State :=
  s.sto (queueDesc c q + 16) (leBytes x.tail.toNat 4 ++ leBytes x.progress.toNat 4 ++ leBytes x.status 8)

/-- What an operation on a switched-out queue changes is written into its descriptor (R42, R48). -/
def State.saveChanges (s : State) (c : Ctx) (q : Nat) (old x : Queue) : State :=
  let a := queueDesc c q
  let s := if old.tail = x.tail then s else s.stoN (a + 16) 4 x.tail.toNat
  let s := if old.progress = x.progress then s else s.stoN (a + 20) 4 x.progress.toNat
  if old.status = x.status then s else s.stoN (a + 24) 8 x.status

/-- A queue as operations find it (R42, R44, R48): bytes 0 to 15 of the descriptor of a queue of context 0 are read until its first map or accepted tail write; the counters are those that the Z9 holds, because it reads bytes 16 to 31 only at a switch-in. -/
def State.queueNow (s : State) (c : Ctx) (q : Nat) : Queue :=
  let x := c.queues.getD q Queue.absent
  if c.num = 0 ∧ !x.latched then
    let d := s.readQDesc c q
    { x with ring := d.ring, logsize := d.logsize, kind := d.kind }
  else x

/-- A queue changed where it stands. -/
def State.putQueue (s : State) (c : Ctx) (q : Nat) (x : Queue) : State :=
  let old := c.queues.getD q Queue.absent
  let s := s.modCtx c.num fun c => { c with queues := vmod c.queues q fun _ => x }
  if x.slot.isSome then s else if old.slot.isSome then s.saveQueue c q x else s.saveChanges c q old x

def Queue.fill (x : Queue) : Nat := (x.tail - x.progress).toNat

/-- Address of the slot of a counter (R45). -/
def Queue.slotAddr (x : Queue) (c : Word) : Nat := x.ring + 128 * (c.toNat % 2 ^ x.logsize)

/-- The error state (R55). -/
def Queue.fail (x : Queue) (code : BitVec 8) (consumed : Bool) (counter : Word) : Queue :=
  { x with error := true, consumed := consumed, errcode := code, errcount := counter, wait := none }

/-- Work that fails after its packet was consumed (R55, R57, R58, R64): its queue enters the error state. A grid or a signal that fails does so only while no later packet has been consumed; the failure is then only logged, as is one whose queue is in the error state already. -/
def State.failWork (s : State) (w : Work) (code : BitVec 8) (onlyLast : Bool) : State :=
  match s.ctx? w.ctx with
  | none => s
  | some c =>
    let x := s.queueNow c w.q.toNat
    if (onlyLast = false ∨ x.progress = w.counter + 1) ∧ !x.error then s.putQueue c w.q.toNat (x.fail code true w.counter)
    else s.logErr 7 0 4 0 w.ctx 0 w.sigaddr 0

/-! ### Reads and writes of the Z9 itself -/

/-- What a read for the Z9 itself gives. -/
inductive Got where
  | bytes (b : List Byte)
  | prot | nonres
  /-- uncorrectable data, in the bytes, in a walk or at a peer -/
  | bad (x : Spot)
deriving DecidableEq, Repr

/-- The key under which a peer's line stands while the Z9 reads it. -/
def stageLine (dev : BitVec 10) (pa : Nat) : Nat := 2 ^ 60 + peerLine dev pa

/-- Bytes of a peer, which lie in one line: a request goes out first, and its answer stands in the constant cache of a core until the read is over (R185). -/
def State.readPeer (s : State) (stage : Nat) (ctx : BitVec 8) (dev : BitVec 10) (pa n : Nat) : Res Got :=
  let key := stageLine dev pa
  match (s.core stage).kcache.find? (·.line = key) with
  | some l => .ok s (match l.err.toNat with
      | 0 => .bytes ((l.data.drop (pa % 128)).take n)
      | 5 => .nonres
      | 6 => .bad peerSpot
      | _ => .prot)
  | none =>
    if s.outstanding.any fun r => r.want = .line stage key false then .hold s 0
    else match s.request dev (readTxn ctx (lineOf pa * 128) 128) (.line stage key false) with
      | .sent s => .hold s 0
      | .full => .hold s 0
      | .noPort => .ok s .prot

/-- Lines of peers read for the Z9 itself are not kept (R216). -/
def State.dropStage (s : State) (stage : Nat) : State := s.modCore stage fun c => { c with kcache := c.kcache.filter fun l => decide (l.line < 2 ^ 60 ∨ 2 ^ 61 ≤ l.line) }

/-- Bytes within one 128-byte line read for the Z9 itself (R56, R65, R466). -/
def State.readLine (s : State) (w : Who) (va n : Nat) (need : Need) : Res Got :=
  if w.ctx ≠ 0 ∧ 2 ^ 57 ≤ va then .ok s .prot
  else match s.place w va need with
    | (s, .here pa _) =>
      if pa < 65536 then .ok s (.bytes (s.physBytes pa n))
      else if s.bad pa n then .ok s (.bad (s.spot pa n))
      else .ok (if s.held pa then s else s.useL2 w pa va 1) (.bytes (memRead s.mem pa n))
    | (s, .peer d pa) => s.readPeer (w.core.getD 0) w.ctx d pa n
    | (s, .prot) => .ok s .prot
    | (s, .nonres) => .ok s .nonres
    | (s, .hold) => .hold s 0
    | (s, .abort x) => .ok s (.bad x)

/-- What two reads give together: the worse of them. -/
def Got.join (a b : Got) : Got :=
  match a, b with
  | .bytes x, .bytes y => .bytes (x ++ y)
  | .bad p, _ | _, .bad p => .bad p
  | .prot, _ | _, .prot => .prot
  | _, _ => .nonres

/-- Lines that a span touches: address and length of each piece. -/
def spanPieces (va n : Nat) : List (Nat × Nat) :=
  (upFrom (va / 128) ((va + n + 127) / 128 - va / 128)).map fun l => (max va (128 * l), min (va + n) (128 * l + 128) - max va (128 * l))

/-- A span read for the Z9 itself. -/
def State.readSpan (s : State) (w : Who) (va n : Nat) (need : Need) : Res Got :=
  (spanPieces va n).foldl (fun (r : Res Got) p => r.bind fun s g => (s.readLine w p.1 p.2 need).bind fun s h => .ok s (g.join h)) (.ok s (.bytes []))

/-- How a slot that the Z9 is to write stands. -/
inductive SlotRes where
  | here (pa va : Nat)
  | peer (dev : BitVec 10) (pa : Nat)
  | unusable
  | hold
  /-- its walk has met uncorrectable data -/
  | lost (x : Spot)
deriving DecidableEq, Repr

/-- An address that the Z9 writes, or adds to, for a context. -/
def State.writeSlot (s : State) (w : Who) (va : Nat) (need : Need) : State × SlotRes :=
  if w.ctx ≠ 0 ∧ 2 ^ 57 ≤ va then (s, .unusable)
  else match s.place w va need with
    | (s, .here pa _) => (s, .here pa va)
    | (s, .peer d pa) => (s, .peer d pa)
    | (s, .hold) => (s, .hold)
    | (s, .abort x) => (s, .lost x)
    | (s, _) => (s, .unusable)

/-! ### Completion signals (R57, R58) -/

/-- How a completion signal ends. -/
inductive SigRes where
  | done | failed | wait | sent
deriving DecidableEq, Repr

/-- An addition to the signal at an address for a work or node: failed where R58 says so, which is logged; it waits while a Sill run holds the line or a page has no frame yet, and one at a peer is sent and answered later (R185). -/
def State.signalAt (s : State) (w : Who) (addr : Nat) (val : DWord) (o : Option Origin) : State × SigRes :=
  if addr = 0 then (s, .done)
  else match s.writeSlot w addr .both with
    | (s, .here pa va) =>
      if pa < 65536 then (s.physWrite pa (leBytes (leNat (s.physBytes pa 8) + val.toNat) 8), .done)
      else if s.held pa then (s, .wait)
      else if s.bad pa 8 then (s.consumed w.ctx pa 8, .failed)
      else ((s.writeHome w none pa va (leBytes (s.ld pa 8 + val.toNat) 8) 1).1, .done)
    | (s, .peer d pa) =>
      match s.request d (atomicTxn w.ctx pa 0 8 val.toNat 0) (.signal o) with
      | .sent s => (s, .sent)
      | .full => (s, .wait)
      | .noPort => (s.logErr 7 0 4 0 w.ctx 0 addr 0, .failed)
    | (s, .unusable) => (s.logErr 7 0 4 0 w.ctx 0 addr 0, .failed)
    | (s, .hold) => (s, .wait)
    | (s, .lost x) => (s.lose w.ctx x, .failed)

/-- How far the signal of a work or node has come. -/
def State.setSig (s : State) (o : Origin) (x : SigStage) : State :=
  match o with
  | .queue id => { s with works := lmod s.works (·.id = id) fun (w : Work) => { w with sig := x } }
  | .node g k => { s with graphs := lmod s.graphs (·.id = g) fun (y : Graph) => { y with nodes := y.nodes.modify k fun n => { n with sig := x } } }

/-- A signal at a peer answered (R58, R185): anything but OK is a signal that was not performed, and is logged. -/
def State.answerSignal (s : State) (o : Option Origin) (status : Nat) : State :=
  let s := if status = 0 then s else s.logErr 7 0 4 0 0 0 0 0
  match o with
  | some o => s.setSig o (if status = 0 then .done else .failed)
  | none => s

/-- The key under which the outcome of a LAUNCH to a ring at a peer stands until its strand takes it. -/
def launchKey (r : StrandRef) : Nat := 2 ^ 61 + ((r.g.ctx.toNat * 65536 + r.g.vteam.toNat) * 256 + r.g.gidx) * 32 + r.num

/-- A packet written to the ring of a queue at a peer answered (R68, R70, R185): the tail advances with the write, and the strand finds the status with the counter. -/
def State.answerLaunch (s : State) (r : StrandRef) (q status : Nat) : State :=
  match s.ctx? r.g.ctx with
  | none => s
  | some c =>
    let x := s.queueNow c q
    let s := if status = 0 then s.putQueue c q { x with tail := x.tail + 1, parents := x.parents ++ [(x.tail, r.g.vteam)] } else s
    match s.team? r.g.ctx r.g.vteam with
    | none => s
    | some t => s.modCore t.core fun c => { c with kcache := ⟨launchKey r, leBytes x.tail.toNat 4, BitVec.ofNat 8 status⟩ :: c.kcache }

/-- A released part of a killed team answered (R57). -/
def State.answerGridPart (s : State) (record id : Nat) : State :=
  { s with grids := lmod s.grids (·.record = record) fun g => { g with parts := lmod g.parts (·.id = id) fun p => { p with out := false } } }

end Sys2Proof.Machine
end

