-- ==== Sys2Proof/Machine/SillChecks.lean ====
section
/-! DEFINITION. Sill runs before they start: the run descriptor (R63, R433), the checks of R434, the queues of the stack controllers (R434), and the check for a void run (R444 to R446, R454). -/
namespace Sys2Proof.Machine

/-! ### The run descriptor (R63) -/

/-- The 128 bytes of a Sill-run packet or run descriptor. -/
structure RunDesc where
  raw : List Byte
deriving DecidableEq, Repr

namespace RunDesc
def num (d : RunDesc) (lo n : Nat) : Nat := leNat ((d.raw.drop lo).take n)
def header (d : RunDesc) : Nat := d.num 0 8
def sigaddr (d : RunDesc) : Nat := d.num 8 8
def sigval (d : RunDesc) : DWord := BitVec.ofNat 64 (d.num 16 8)
def prog (d : RunDesc) : Nat := d.num 24 8
def plen (d : RunDesc) : Nat := d.num 32 1
def rbase (d : RunDesc) : Nat := d.num 40 8
def rlen (d : RunDesc) : Nat := d.num 48 8
def q (d : RunDesc) : Vector Word 16 := Vector.ofFn fun k => BitVec.ofNat 32 (d.num (64 + 4 * k.val) 4)

/-- Check 2 of R434, but the header, which each issuer checks for itself. SIGADDR must be 8-byte aligned (R58). -/
def ok (d : RunDesc) : Bool :=
  d.num 33 7 = 0 && d.num 56 8 = 0 && d.sigaddr % 8 = 0 && decide (1 ≤ d.plen ∧ d.plen ≤ 64) && d.prog % 4 = 0 && d.rbase % 32 = 0
    && decide (d.rlen ≠ 0) && d.rlen % 32 = 0
end RunDesc

/-! ### The checks of R434 -/

/-- What the checks of a run come to. -/
inductive RunRes where
  | ok (words : List Word) (pages : List (Nat × Nat))
  | fail (code : BitVec 8)
deriving DecidableEq, Repr

/-- The 64 KiB pieces that a span touches. -/
def pagesOf (va n : Nat) : List Nat := (upFrom (va / 65536) ((va + n + 65535) / 65536 - va / 65536)).map (65536 * ·)

/-- How a page of a run stands: usable at a physical piece, wrong, non-resident. -/
inductive RunPage where
  | usable (pa : Nat)
  | remote
  | wrong | nonres
deriving DecidableEq, Repr

/-- A page of the range: a leaf with SILL, READ and WRITE of this device (R434, log 33). -/
def State.rangePage (s : State) (w : Who) (va : Nat) : Res RunPage :=
  match s.lookup w va with
  | (s, .leaf l) =>
    let pa := l.base + va % l.size
    .ok s (if l.sill && l.read && l.write && l.remote.isNone && decide (65536 ≤ pa ∧ pa < memTop) then .usable pa else .wrong)
  | (s, .nonres) => .ok s .nonres
  | (s, .prot) => .ok s .wrong
  | (s, .hold) => .hold s 0
  | (s, .abort x) => .gone s x

/-- A page of the program: a leaf with READ. -/
def State.progPage (s : State) (w : Who) (va : Nat) : Res RunPage :=
  match s.place w va .read with
  | (s, .here pa _) => .ok s (.usable pa)
  | (s, .peer _ _) => .ok s .remote
  | (s, .nonres) => .ok s .nonres
  | (s, .prot) => .ok s .wrong
  | (s, .hold) => .hold s 0
  | (s, .abort x) => .gone s x

/-- Every page of a list checked, in order. -/
def runPages (f : State → Nat → Res RunPage) (s : State) (vas : List Nat) : Res (List (Nat × RunPage)) :=
  vas.foldl (fun (r : Res (List (Nat × RunPage))) va => r.bind fun s l => (f s va).bind fun s p => .ok s (l ++ [(va, p)])) (.ok s [])

/-- Whether n bytes at an address lie in the memory of context 0 that R434 accepts. -/
def dramSpan (a n : Nat) : Bool := decide (65536 ≤ a ∧ a + n ≤ memTop)

/-- Checks 2 to 5 of R434 for a descriptor whose header has been checked, with the program words as they stand now. -/
def State.checkRun (s : State) (w : Who) (d : RunDesc) : Res RunRes :=
  let words (s : State) (ps : List (Nat × Nat)) : Res RunRes :=
    (s.readSpan w d.prog (4 * d.plen) .read).bind fun s g =>
      match g with
      | .bytes b => .ok s (.ok ((List.range d.plen).map fun k => BitVec.ofNat 32 (leNat ((b.drop (4 * k)).take 4))) ps)
      | .bad x => .gone s x
      | .prot => .ok s (.fail 3)
      | .nonres => .ok s (.fail 6)
  if !d.ok then .ok s (.fail 3)
  else if w.ctx = 0 then
    if dramSpan d.prog (4 * d.plen) && dramSpan d.rbase d.rlen then words s ((pagesOf d.rbase d.rlen).map fun p => (p, p)) else .ok s (.fail 3)
  else if 2 ^ 57 < d.prog + 4 * d.plen ∨ 2 ^ 57 < d.rbase + d.rlen then .ok s (.fail 3)
  else (runPages (fun s va => s.progPage w va) s (pagesOf d.prog (4 * d.plen))).bind fun s ps =>
    (runPages (fun s va => s.rangePage w va) s (pagesOf d.rbase d.rlen)).bind fun s rs =>
      let all := (ps ++ rs).map (·.2)
      if all.contains .wrong then .ok s (.fail 3)
      else if all.contains .nonres then .ok s (.fail 6)
      else words s (rs.filterMap fun (va, p) => match p with
        | .usable pa => some (va, pa)
        | _ => none)

/-! ### Runs and their stacks -/

/-- The physical address of a virtual address of a run. -/
def SillRun.pa (r : SillRun) (va : Nat) : Option Nat := (r.pages.find? fun p => decide (p.1 ≤ va ∧ va < p.1 + 65536)).map fun p => p.2 + (va - p.1)

/-- The stacks that hold the range (R434, R444). -/
def SillRun.stackCtls (r : SillRun) : List Nat := (List.range 12).filter fun k => r.pages.any fun p => stackOfPa p.2 = k

def State.stack (s : State) (k : Nat) : StackCtl := s.stackCtls.getD k ⟨[], 0, none⟩
def State.modStack (s : State) (k : Nat) (f : StackCtl → StackCtl) : State := { s with stackCtls := vmod s.stackCtls k f }
def State.run? (s : State) (id : Nat) : Option SillRun := s.runs.find? (·.id = id)
def State.modRun (s : State) (id : Nat) (f : SillRun → SillRun) : State := { s with runs := lmod s.runs (·.id = id) f }

/-- A run as its issuer forms it. -/
def mkRun (id : Nat) (ctx : BitVec 8) (origin : SillOrigin) (d : RunDesc) (words : List Word) (pages : List (Nat × Nat)) (acq rel : Nat) (acqw : Option AcqWait) : SillRun :=
  ⟨id, ctx, origin, words, d.rbase, d.rlen, pages, d.q, acq, rel, acqw, d.sigaddr, d.sigval, false, .queued, 0⟩

/-- Whether a queue that the range needs is full (R434). -/
def State.runFull (s : State) (r : SillRun) : Bool := r.stackCtls.any fun k => decide (32 ≤ (s.stack k).queue.length)

/-- A run enters the queues of the stacks that hold its range (R434). -/
def State.queueRun (s : State) (r : SillRun) : State :=
  r.stackCtls.foldl (fun (s : State) k => s.modStack k fun c => { c with queue := c.queue ++ [r.id] }) { s with runs := s.runs ++ [r] }

/-! ### Planes and void runs -/

/-- NPL and PLN of a run (R444 to R446). -/
def SillRun.planes (r : SillRun) : Nat × Nat :=
  match r.words.head?.map decodeSill with
  | some (.ok (.zplanes x)) =>
    let n := (x.imm.extractLsb' 0 3).toNat + 1
    (n, if n = 1 then r.rlen else (x.imm.extractLsb' 3 9).toNat * 3 * 2 ^ 20)
  | _ => (1, r.rlen)

/-- Whether a word is ZPLANES or ZROW, and whether it is ZLD or ZST. -/
def isZplanes (w : Word) : Bool := match decodeSill w with
  | .ok (.zplanes _) => true
  | _ => false
def isZrow (w : Word) : Bool := match decodeSill w with
  | .ok (.zrow _) => true
  | _ => false
def isZmem (w : Word) : Bool := match decodeSill w with
  | .ok (.zld _) | .ok (.zst _) => true
  | _ => false

/-- Index of the first word of the body (R445). -/
def SillRun.bodyStart (r : SillRun) : Nat :=
  match r.words.findIdx? isZrow with
  | some k => k + 1
  | none => if r.words.head?.any isZplanes then 1 else 0

/-- Index of the first word of the prologue, or of the body where there is none. -/
def SillRun.start (r : SillRun) : Nat := if r.words.head?.any isZplanes then 1 else 0

def SillRun.hasPrologue (r : SillRun) : Bool := r.words.any isZrow && decide (r.start + 1 < r.bodyStart)

/-- R446 for word 0. -/
def SillRun.spacingOk (r : SillRun) : Bool :=
  match r.words.head?.map decodeSill with
  | some (.ok (.zplanes x)) =>
    let sp := (x.imm.extractLsb' 3 9).toNat
    if x.imm.extractLsb' 0 3 = 0 then sp = 0 else decide (1 ≤ sp) && r.rlen = r.planes.1 * r.planes.2
  | _ => true

/-- The frame condition of R444. -/
def SillRun.framesOk (r : SillRun) : Bool :=
  let (npl, pln) := r.planes
  (pagesOf r.rbase pln).all fun va => (upFrom 1 (npl - 1)).all fun p =>
    match r.pages.find? (·.1 = va), r.pages.find? (·.1 = va + p * pln) with
    | some f, some g => g.2 = f.2 + p * pln && stackOfPa g.2 = stackOfPa f.2
    | _, _ => false

/-- Whether a run is void (R454). -/
def SillRun.isVoid (r : SillRun) : Bool :=
  let npl := r.planes.1
  let wordOk (w : Word) : Bool := match decodeSill w with
    | .ok i => sillOk i (some npl)
    | .error _ => false
  !(r.words.all wordOk) || !r.spacingOk || (r.words.drop 1).any isZplanes
    || decide (1 < (r.words.filter isZrow).length) || r.words.getLast?.any isZrow
    || (match r.words.findIdx? isZrow with
      | some k => (r.words.take k).any isZmem
      | none => false)
    || !r.framesOk

end Sys2Proof.Machine
end

