-- ==== Sys2Proof/Machine/SillWords.lean ====
section
/-! DEFINITION. The words of a Sill program as a unit executes them (R442 to R456). -/
namespace Sys2Proof.Machine

/-! ### Units and home atoms -/

/-- The number of the unit of an atom within its stack (R443). -/
def sillUnitOf (pa : Nat) : Nat :=
  let o := pa % (48 * 2 ^ 30)
  o / 65536 % 48 * 128 + o / 256 % 128

/-- The wave of a unit (R447). -/
def waveOf (unit : Nat) : Nat := unit / 1536

/-- The home atoms of a run in a stack as physical and virtual addresses, in increasing stack offset (R444, R445). -/
def SillRun.homeAtoms (r : SillRun) (k : Nat) : List (Nat × Nat) :=
  let pln := r.planes.2
  let mine := r.pages.filter fun p => stackOfPa p.2 = k && decide (p.1 < r.rbase + pln)
  let sorted := mine.foldl (fun l p => l.takeWhile (fun q => decide (q.2 < p.2)) ++ [p] ++ l.dropWhile (fun q => decide (q.2 < p.2))) ([] : List (Nat × Nat))
  sorted.flatMap fun (va, pa) =>
    let lo := max va r.rbase
    let hi := min (va + 65536) (r.rbase + pln)
    (List.range ((hi - lo) / 32)).map fun j => (pa + (lo - va) + 32 * j, lo + 32 * j)

/-- The home atoms of one unit. -/
def SillRun.unitAtoms (r : SillRun) (k unit : Nat) : List Nat := ((r.homeAtoms k).filter fun a => sillUnitOf a.1 = unit).map (·.2)

/-- The units of a wave that have home atoms. -/
def SillRun.waveUnits (r : SillRun) (k wave : Nat) : List Nat := (((r.homeAtoms k).map fun a => sillUnitOf a.1).filter fun u => waveOf u = wave).eraseDups

/-- A unit as it starts its part of a run (R442, R445). -/
def SillRun.unit (r : SillRun) (k wave unit : Nat) (rest : List Nat) (miss : Nat) : SillUnit :=
  let atoms := r.unitAtoms k unit
  ⟨r.id, wave, unit, if r.words.length ≤ r.bodyStart then atoms.take 1 else atoms, r.words.any isZrow, 0, Vector.replicate 8 0, Vector.replicate 8 0, [], rest, miss, false⟩

/-- The unit's number on the device (R303). -/
def sillNumber (k unit : Nat) : Nat := 6144 * k + unit

/-! ### Steps -/

/-- A run stops on every stack (R456). -/
def State.abortRun (s : State) (id : Nat) : State :=
  let stop (c : StackCtl) : StackCtl := if c.unit.any (·.run = id) then { c with unit := none } else c
  State.modRun { s with stackCtls := s.stackCtls.map stop } id fun r => { r with stage := .aborted }

/-- The bent whose strand issued a run, while its team lives. -/
def State.issuerOf (s : State) (r : SillRun) : Option Bent :=
  match r.origin with
  | .team c v _ => (s.anyTeam? c v).bind fun t => s.bent? t.bent
  | _ => none

/-- A run has met uncorrectable data or a quarantined unit: logged with the grid of its issuer and reported, and the run stops (R286, R293, R300, R456). -/
def State.loseRun (s : State) (r : SillRun) (x : Spot) : State :=
  let die := if x.level = 6 then x.loc / 6144 / 3 else dieOfLoc x.level x.loc
  let grid := match s.issuerOf r with
    | some b => recGrid s b.record
    | none => 0
  ((s.logErr x.level x.struct 3 die r.ctx 0x31#8 x.loc ((BitVec.ofNat 32 grid) ++ 0#32)).interrupt 2 die r.ctx 0x31#8 grid).abortRun r.id

/-- The bent that issued a run which has stopped is killed; the error was logged when it was met (R286, R291, R456). -/
def State.killIssuer (s : State) (r : SillRun) : State :=
  match s.issuerOf r with
  | some b => if b.doomed.isSome then s else s.applyKill b 0x31#8 true
  | none => s

/-- A unit is quarantined, and its run stops (R293, R456). -/
def State.quarantineSill (s : State) (k unit : Nat) (run : Nat) (ctx : BitVec 8) : State :=
  let n := sillNumber k unit
  let s := { s with root := { s.root with quarSill := s.root.quarSill ++ [n] } }
  let s := (s.logErr 6 0x0F 5 (k / 3) ctx 0 n 0).interrupt 4 (k / 3) ctx 0 0
  s.abortRun run

/-- Buffered stores performed in program order (R449). -/
def State.writeAtoms (s : State) (buf : List (Nat × BitVec 256)) : State :=
  buf.foldl (fun s (pa, v) => { (s.cleanse pa 32) with mem := memWrite s.mem pa (leBytes v.toNat 32) }) s

/-- The unit goes on: the next word, the next step, the next unit of the wave, or the end of the wave (R445, R447). -/
def State.nextWord (s : State) (k : Nat) (r : SillRun) (u : SillUnit) : State :=
  if u.pc + 1 < r.words.length then s.modStack k fun c => { c with unit := some { u with pc := u.pc + 1 } }
  else
    let s := s.writeAtoms u.buf
    match u.atoms.tail with
    | a :: as => s.modStack k fun c => { c with unit := some { u with atoms := a :: as, pc := r.bodyStart, zStart := u.z, buf := [], replayed := false } }
    | [] => match u.rest with
      | n :: ns => s.modStack k fun c => { c with unit := some (r.unit k u.wave n ns u.miss) }
      | [] => s.modStack k fun c => { c with unit := none, wavesDone := u.wave + 1 }

/-- What a word does to its unit. -/
inductive SillAct where
  | go (u : SillUnit)
  /-- an uncorrectable read (R456) -/
  | abort (x : Spot)
deriving DecidableEq, Repr

/-- The step starts again after a first mismatch (R449). -/
def SillUnit.restart (u : SillUnit) (r : SillRun) : SillUnit :=
  { u with pc := if u.inPrologue then r.start else r.bodyStart, z := u.zStart, buf := [], miss := u.miss - 1, replayed := true }

/-- A word of the program is executed by the unit at work. -/
def State.sillWord (s : State) (f : State → SillRun → SillUnit → SillAct) : Out :=
  match s.curSill with
  | none => .fault .noSillUnit
  | some k =>
    match (s.stack k).unit with
    | none => .fault .noSillUnit
    | some u =>
      match s.run? u.run with
      | none => .fault .noSillUnit
      | some r => match f s r u with
        | .go u => .next (s.nextWord k r u)
        | .abort x => .next (s.loseRun r x)

/-- A word that computes: its result is checked, a first mismatch in a step replays the step, and a second quarantines the unit (R449, R456). -/
def State.sillCompute (s : State) (f : SillRun → SillUnit → SillUnit) : Out :=
  match s.curSill with
  | none => .fault .noSillUnit
  | some k =>
    match (s.stack k).unit with
    | none => .fault .noSillUnit
    | some u =>
      match s.run? u.run with
      | none => .fault .noSillUnit
      | some r =>
        if u.miss = 0 then .next (s.nextWord k r (f r u))
        else if u.replayed then .next (s.quarantineSill k u.bank r.id r.ctx)
        else .next ((s.logErr 6 0x0F 2 (k / 3) r.ctx 0 (sillNumber k u.bank) 0).modStack k fun c => { c with unit := some (u.restart r) })

/-! ### Operands -/

/-- Lanes of the shape that T gives (R443): their width and number. -/
def laneWidth (t : Bool) : Nat := if t then 16 else 32
def laneCount (t : Bool) : Nat := if t then 16 else 8

/-- Lane i of a register. -/
def zlane (t : Bool) (v : BitVec 256) (i : Nat) : Nat := bitsOf v.toNat (laneWidth t * i) (laneWidth t)

/-- A register from its lanes. -/
def zpack (t : Bool) (f : Nat → Nat) : BitVec 256 :=
  BitVec.ofNat 256 ((List.range (laneCount t)).foldl (fun n i => n + f i % 2 ^ laneWidth t * 2 ^ (laneWidth t * i)) 0)

def SillUnit.reg (u : SillUnit) (k : Nat) : BitVec 256 := u.z.getD k 0
def SillUnit.set (u : SillUnit) (k : Nat) (v : BitVec 256) : SillUnit := { u with z := vmod u.z k fun _ => v }

/-- Source B in every lane: a register, or a parameter (R450). -/
def sillB (r : SillRun) (u : SillUnit) (x : SillForm) (i : Nat) : Nat :=
  if x.qb then (r.q.getD x.b.toNat 0).toNat % 2 ^ laneWidth x.t else zlane x.t (u.reg x.b.toNat) i

/-- A form that computes each lane from a, b and c (R451). -/
def sillLanes (x : SillForm) (f : FloatFmt → Nat → Nat → Nat → Nat) (s : State) : Out :=
  s.sillCompute fun r u => u.set x.d.toNat (zpack x.t fun i =>
    f (sillFmt x.t) (zlane x.t (u.reg x.a.toNat) i) (sillB r u x i) (zlane x.t (u.reg x.c.toNat) i))

/-- The physical address of the cursor's plane-p atom (R444). -/
def cursorAtom (r : SillRun) (u : SillUnit) (p : Nat) : Option Nat := (u.atoms.head?).bind fun a => r.pa (a + p * r.planes.2)

def planeOf (x : SillForm) : Nat := (x.imm.extractLsb' 0 3).toNat

/-! ### The words -/

/-- ZNOP (R452). -/
def execZnop (_ : SillForm) (s : State) : Out := s.sillWord fun _ _ u => .go u

/-- ZLD (R449, R452): an atom that the step has stored gives the stored value. -/
def execZld (x : SillForm) (s : State) : Out :=
  s.sillWord fun s r u =>
    match cursorAtom r u (planeOf x) with
    | none => .go (u.set x.d.toNat 0)
    | some pa => match u.buf.find? (·.1 = pa) with
      | some b => .go (u.set x.d.toNat b.2)
      | none => if s.bad pa 32 then .abort (s.spot pa 32) else .go (u.set x.d.toNat (BitVec.ofNat 256 (s.ld pa 32)))

/-- ZST (R449, R452): buffered until the end of the step; a later one to the same atom replaces it. -/
def execZst (x : SillForm) (s : State) : Out :=
  s.sillCompute fun r u =>
    match cursorAtom r u (planeOf x) with
    | none => u
    | some pa => { u with buf := u.buf.filter (·.1 ≠ pa) ++ [(pa, u.reg x.a.toNat)] }

/-- ZMOV (R452). -/
def execZmov (x : SillForm) (s : State) : Out :=
  s.sillCompute fun r u => u.set x.d.toNat (if x.qb then zpack x.t (sillB r u x) else u.reg x.b.toNat)

/-- ZADD (R452). -/
def execZadd (x : SillForm) (s : State) : Out := sillLanes x (fun f a b _ => f.addRn a b) s
/-- ZSUB (R452). -/
def execZsub (x : SillForm) (s : State) : Out := sillLanes x (fun f a b _ => f.subRn a b) s
/-- ZMUL (R452). -/
def execZmul (x : SillForm) (s : State) : Out := sillLanes x (fun f a b _ => f.mulRn a b) s
/-- ZFMA (R452). -/
def execZfma (x : SillForm) (s : State) : Out := sillLanes x (fun f a b c => f.fmaRn a b c) s
/-- ZFMS (R452). -/
def execZfms (x : SillForm) (s : State) : Out := sillLanes x (fun f a b c => f.fmsRn a b c) s
/-- ZMIN (R366, R452). -/
def execZmin (x : SillForm) (s : State) : Out := sillLanes x (fun f a b _ => f.minmax false a b) s
/-- ZMAX (R366, R452). -/
def execZmax (x : SillForm) (s : State) : Out := sillLanes x (fun f a b _ => f.minmax true a b) s
/-- ZABS (R452). -/
def execZabs (x : SillForm) (s : State) : Out := sillLanes x (fun f a _ _ => f.absCode a) s
/-- ZNEG (R452). -/
def execZneg (x : SillForm) (s : State) : Out := sillLanes x (fun f a _ _ => f.negCode a) s
/-- ZRSQE (R453). -/
def execZrsqe (x : SillForm) (s : State) : Out := sillLanes x (fun _ a _ _ => rsqrtEst x.t a) s
/-- ZRCPE (R453). -/
def execZrcpe (x : SillForm) (s : State) : Out := sillLanes x (fun _ a _ _ => rcpEst x.t a) s

/-- ZRSQS (R453). -/
def execZrsqs (x : SillForm) (s : State) : Out :=
  sillLanes x (fun f a b _ => f.mulRn a (f.subRn (f.const 3 (-1)) (f.mulRn (f.const 1 (-1)) (f.mulRn b (f.mulRn a a))))) s

/-- ZRCPS (R453). -/
def execZrcps (x : SillForm) (s : State) : Out :=
  sillLanes x (fun f a b _ => f.mulRn a (f.subRn (f.const 2 0) (f.mulRn b a))) s

/-- ZCMP (R452). -/
def execZcmp (x : SillForm) (s : State) : Out :=
  sillLanes x (fun f a b _ => if Num.fcmp (x.imm.extractLsb' 0 3).toNat (f.decode a) (f.decode b) then 2 ^ f.width - 1 else 0) s

/-- ZSEL (R452). -/
def execZsel (x : SillForm) (s : State) : Out := sillLanes x (fun _ a b c => if c ≠ 0 then a else b) s

/-- ZCVTN (R452). -/
def execZcvtn (x : SillForm) (s : State) : Out :=
  s.sillCompute fun _ u => u.set x.d.toNat (zpack true fun i =>
    ffBF16.roundRn (ffF32.decode (zlane false (u.reg (if i < 8 then x.a.toNat else x.b.toNat)) (i % 8))))

/-- ZCVTW (R452). -/
def execZcvtw (x : SillForm) (s : State) : Out :=
  s.sillCompute fun _ u => u.set x.d.toNat (zpack false fun i =>
    ffF32.roundRn (ffBF16.decode (zlane true (u.reg x.a.toNat) (8 * (x.imm.extractLsb' 0 1).toNat + i))))

/-- ZROW (R445): the prologue, which counts as one step, is over. -/
def execZrow (_ : SillForm) (s : State) : Out := s.sillWord fun _ _ u => .go { u with inPrologue := false, zStart := u.z, replayed := false }

/-- ZPLANES (R446): it declares the planes, and a unit does nothing for it. -/
def execZplanes (_ : SillForm) (s : State) : Out := s.sillWord fun _ _ u => .go u

end Sys2Proof.Machine
end

