-- ==== Sys2Proof/Machine/SillRuns.lean ====
section
/-! DEFINITION. The start, the waves and the end of a Sill run (R229 to R231, R434, R447, R454 to R456). -/
namespace Sys2Proof.Machine

/-- Whether a run stands first in the queue of every stack that holds its range. -/
def State.runHead (s : State) (r : SillRun) : Bool := r.stackCtls.all fun k => (s.stack k).queue.head? = some r.id

/-! ### Start -/

/-- Whether a run that waits for its signal may hold a line of another run: it has a frame of its range (R229). -/
def SillRun.ends (o r : SillRun) : Bool := o.stage = .ending && o.pages.any fun p => r.pages.any (·.2 = p.2)

/-- Whether a queued run may be checked and started: it is first on its stacks, its acquire is met, and no run before it holds its lines any more (R227, R229, R447). -/
def State.runStartDue (s : State) (r : SillRun) : Bool := r.stage = .queued && s.runHead r && !s.acquireWaits r.acqw && !(s.runs.any (·.ends r))

/-- The latest lease that may be outstanding on a line of the range (R212, R229). -/
def State.rangeLease (s : State) (r : SillRun) : Nat :=
  let held : SillRun := { r with stage := .running }
  let lines := (s.l2.filter fun x => held.holds (x.line * 128)).foldl (fun m x => max m (max x.e1 x.e2)) 0
  s.l2es.foldl (fun m e => max m e.2) lines

/-- The start of a run (R229, R454): a void run runs no wave; else its lines leave the L2 and are held, and its first step waits for the last lease. -/
def State.startSill (s : State) (r : SillRun) : State :=
  if r.isVoid then s.modRun r.id fun r => { r with stage := .void }
  else
    let at_ := s.rangeLease r
    let held : SillRun := { r with stage := .running }
    let s := (s.l2.filter fun x => held.holds (x.line * 128)).foldl (fun s x => s.dropL2 x) s
    s.modRun r.id fun r => { r with stage := .running, startAt := at_ }

/-- SILL_RUN_START (R229): operand n names the run. -/
def execSillRunStart (s : State) : Out :=
  match s.run? s.operand.n with
  | none => .next s
  | some r => .next (if s.runStartDue r then s.startSill r else s)

/-! ### Waves -/

/-- The next wave of a run on a stack that holds a home atom (R447). -/
def State.nextWave (s : State) (r : SillRun) (k : Nat) : Option Nat :=
  (List.range 4).find? fun w => decide ((s.stack k).wavesDone ≤ w) && r.waveUnits k w ≠ []

/-- The run whose waves a stack may run: the head of its queue, once started and past its start time. -/
def State.waveRun (s : State) (k : Nat) : Option SillRun :=
  match (s.stack k).queue.head? with
  | none => none
  | some id => (s.run? id).filter fun r => r.stage = .running && decide (r.startAt ≤ s.timeOf (k / 3))

/-- The units of the banks that a run covers, by their numbers on the device (R303). -/
def SillRun.units (r : SillRun) : List Nat := r.stackCtls.flatMap fun k => (r.homeAtoms k).map fun a => sillNumber k (sillUnitOf a.1)

/-- Whether a bank of the run's range has a quarantined unit (R293). -/
def State.quarantinedBank (s : State) (r : SillRun) : Bool :=
  r.units.any s.root.quarSill.contains

/-- SILL_WAVE (R447): operand n names the stack, whose next wave starts with its first unit. -/
def execSillWave (s : State) : Out :=
  let k := s.operand.n
  match (s.stack k).unit, s.waveRun k with
  | none, some r =>
    if s.quarantinedBank r then .next (s.loseRun r ⟨6, 0x0F, (r.units.find? s.root.quarSill.contains).getD 0⟩)
    else match s.nextWave r k with
      | none => .next s
      | some w => match r.waveUnits k w with
        | [] => .next s
        | n :: ns => .next (s.modStack k fun c => { c with unit := some (r.unit k w n ns 0) })
  | _, _ => .next s

/-! ### Completion -/

/-- Whether a run has ended: it is void or aborted, or every stack has run its last wave (R455). -/
def State.runEnded (s : State) (r : SillRun) : Bool :=
  match r.stage with
  | .void | .aborted => true
  | .ending => r.origin = .gone
  | .running => r.stackCtls.all fun k => (s.stack k).queue.head? = some r.id && (s.stack k).unit.isNone && (s.nextWave r k).isNone
  | .queued => false

/-- A held write reaches memory (R230): the elements of CPYRED are applied to what stands there now. -/
def State.applyHeld (s : State) (w : HeldWrite) : State := s.sto w.pa (redBytes w.op (memRead s.mem w.pa w.data.length) w.data)

/-- The completion time of writes that a run has held, applied now (R212). -/
def State.heldTime (s : State) (r : SillRun) (pas : List Nat) : Nat :=
  (pas.filter r.holds).foldl (fun m pa => max m (max (s.timeOf (dieOfPa pa)) (s.es pa))) 0

/-- Whatever waits for writes that a run has held takes their completion time (R212, R230): acknowledgements, copies, completions over Ridge, and the grids of killed teams. -/
def State.timeHeldWrites (s : State) (r : SillRun) : State :=
  let s : State := { s with
    teams := s.teams.map fun t => { t with groups := t.groups.map fun g => { g with acks := g.acks.map fun a => { a with time := max a.time (s.heldTime r a.held) } } }
    cores := s.cores.map fun c => { c with copies := c.copies.map fun k => { k with wmax := max k.wmax (s.heldTime r k.held) } }
    sysCopies := s.sysCopies.map fun k => { k with wmax := max k.wmax (s.heldTime r k.held) }
    replies := s.replies.map fun x => { x with after_ := max x.after_ (s.heldTime r x.lines) }
    grids := s.grids.map fun g => { g with wmax := g.parts.foldl (fun m p => max m (s.heldTime r p.held)) g.wmax } }
  s.grids.foldl (fun s g => if !g.ended then s else match g.origin with
    | .queue w => s.endWork w 0 g.wmax
    | .node gr n => s.endNode gr n 0 g.wmax) s

/-- A run leaves the queues of its stacks, whose waves begin anew for the next. -/
def State.leaveStacks (s : State) (r : SillRun) : State :=
  { s with stackCtls := s.stackCtls.map fun c => if c.queue.contains r.id then { c with queue := c.queue.filter (· ≠ r.id), wavesDone := 0 } else c }

/-- A run is over: the writes that it has held are applied in arrival order (R230). -/
def State.releaseRun (s : State) (r : SillRun) : State :=
  let mine := s.heldWrites.filter fun w => r.holds w.pa
  let s := (s.timeHeldWrites r).leaveStacks r
  mine.foldl State.applyHeld { s with runs := s.runs.filter (·.id ≠ r.id), heldWrites := s.heldWrites.filter fun w => !r.holds w.pa }

/-- The Sill run of a packet or node lets its lines go, as its completion signal is performed (R229). -/
def State.closeRun (s : State) (o : Origin) : State :=
  (s.runs.filter fun r => r.stage = .ending && match r.origin, o with
    | .packet w, .queue v => w = v
    | .node g n, .node h m => g = h && n = m
    | _, _ => false).foldl State.releaseRun s

/-- The run of a packet or node that has ended: it holds its lines until its completion signal (R229); a void one has held none. -/
def State.awaitSignal (s : State) (r : SillRun) : State :=
  if r.stage = .void then s.releaseRun r else (s.leaveStacks r).modRun r.id fun r => { r with stage := .ending }

/-- The end of a run (R434, R454 to R456): the token, the signal, the held writes, and what a failure brings on. The packet's own completion signal follows as PACKET_COMPLETION_SIGNAL, a node's as TASK_NODE_COMPLETE. none while the signal must wait. -/
def State.finishRun (s : State) (r : SillRun) : Option State :=
  let now := s.timeOf 0
  let code : BitVec 8 := match r.stage with
    | .void => 3#8
    | .aborted => 6#8
    | _ => 0#8
  match r.origin with
  | .packet w =>
    let f (x : Work) : Work := { x with noSignal := x.noSignal || r.stage = .void }
    let s := s.awaitSignal r
    some (State.endWork { s with works := lmod s.works (·.id = w) f } w code now)
  | .node g n =>
    let f (x : Node) : Node := if r.stage = .void then { x with sigaddr := 0 } else x
    let s := s.awaitSignal r
    some (State.endNode { s with graphs := lmod s.graphs (·.id = g) fun x => { x with nodes := x.nodes.modify n f } } g n code now)
  | .team ctx v tok =>
    let s := s.releaseRun r
    let s := match tok with
      | some (t, amt) => if r.stage = .running && !r.muted then s.addToken ctx v t (BitVec.ofNat 32 amt) else s
      | none => s
    if r.muted ∨ r.stage = .void then some s
    else match s.signalAt ⟨ctx, none, none, none⟩ r.sigaddr r.sigval none with
      | (_, .wait) => none
      | (s, _) => some (if r.stage = .aborted then s.killIssuer r else s)
  | .gone =>
    let s := s.releaseRun r
    if r.muted ∨ r.stage = .void then some s
    else match s.signalAt ⟨r.ctx, none, none, none⟩ r.sigaddr r.sigval none with
      | (_, .wait) => none
      | (s, _) => some s

/-- SILL_RUN_COMPLETE (R455): operand n names the run. -/
def execSillRunComplete (s : State) : Out :=
  match s.run? s.operand.n with
  | none => .next s
  | some r => .next (if s.runEnded r then (s.finishRun r).getD s else s)

end Sys2Proof.Machine
end

