-- ==== Sys2Proof/Machine/Operands.lean ====
section
/-! DEFINITION. An instruction as it issues, its operands (R120 to R124, R307 to R315, R395) and the registers it reads and writes, which the hazard rules ask for (R137 to R139, R149). -/
namespace Sys2Proof.Machine

/-- An instruction as it issues: its strand, its group and team as they stand, its fields, the device time, and the word or pair that its window operand supplies. -/
structure Iss where
  r : StrandRef
  t : Team
  g : Group
  st : Strand
  x : Enc
  time : Nat := 0
  wv : DWord := 0
deriving DecidableEq, Repr

namespace Iss

/-- A predicate's bits: p0 is all ones (R124). -/
def pred (i : Iss) (k : Nat) : Mask := if k = 0 then i.t.lanes else i.g.p.getD k 0

/-- Lanes that pass the guard (R309). -/
def guardMask (i : Iss) : Mask :=
  let p := i.pred (i.x.guard.extractLsb' 0 3).toNat
  if i.x.guard.msb then ~~~p else p

/-- active(S): the lanes of MASK that pass the guard (R8, R309). -/
def active (i : Iss) : Mask := if i.x.hasW1 then i.st.mask &&& i.guardMask else i.st.mask

/-- A special register that is read once for the strand (R93, R123). -/
def special (i : Iss) (code : Nat) : DWord :=
  let n (v : Nat) : DWord := BitVec.ofNat 64 v
  match code with
  | 193 => n i.g.gidx
  | 194 => n (i.t.roles.foldl (fun k r => k + r.groups) 0)
  | 195 => n i.g.role
  | 196 => n i.t.bpos
  | 197 => n i.t.bx
  | 198 => n i.t.bY
  | 199 => n i.t.bz
  | 200 => n i.t.gx
  | 201 => n i.t.gy
  | 202 => n i.t.gz
  | 203 => n i.t.core
  | 204 => n i.time
  | 205 => if i.r.handler then i.g.record.primary.zeroExtend 64 else n i.r.sid
  | 206 => i.st.mask.zeroExtend 64
  | 207 => i.st.evn.zeroExtend 64
  | _ => 0

/-- A scalar-class operand (R122, R123, R273): s0 reads as zero, 144 to 155 name the supervisor registers in the handler strand, 156 to 159 are the strand's own. -/
def scalar (i : Iss) (c : BitVec 8) : DWord :=
  let k := c.toNat
  if k = 0 then 0
  else if k < 156 then (if i.r.handler ∧ 144 ≤ k then i.g.sup.getD (k - 144) 0 else i.g.s.getD k 0)
  else if k < 160 then i.st.priv.getD (k - 156) 0
  else i.special k

/-- A scalar-class operand as a vector instruction reads it, per lane (R123, R314). -/
def scalarLane (i : Iss) (c : BitVec 8) (lane : Nat) : DWord :=
  if c = 192#8 then BitVec.ofNat 64 lane
  else if c = 208#8 then (i.g.seed.toArray.getD lane 0).zeroExtend 64
  else i.scalar c

/-- Lane of a vector register. -/
def vreg (i : Iss) (k lane : Nat) : Word := (i.g.v.getD k Lanes.zero).toArray.getD lane 0

/-- An even-odd pair (R121). -/
def vpair (i : Iss) (k lane : Nat) : DWord := i.vreg (k + 1) lane ++ i.vreg k lane

/-- A vector operand, one register or a pair. -/
def vop (i : Iss) (wide : Bool) (k lane : Nat) : DWord :=
  if wide then i.vpair k lane else (i.vreg k lane).zeroExtend 64

/-- A 32-bit operand keeps its low word. -/
def cut (wide : Bool) (x : DWord) : DWord := if wide then x else (x.extractLsb' 0 32).zeroExtend 64

/-- Source A of a vector instruction (R314). -/
def srcA (i : Iss) (wide : Bool) (lane : Nat) : DWord :=
  if i.x.sa then cut wide (i.scalarLane i.x.a lane) else i.vop wide i.x.a.toNat lane

/-- Whether a window operand replaces source B, or C (R312, R313). -/
def winB (i : Iss) : Bool := i.x.hasW1 && i.x.w2kind = .k && i.x.ken && !i.x.ksel
def winC (i : Iss) : Bool := i.x.hasW1 && i.x.w2kind = .k && i.x.ken && i.x.ksel

/-- Source B of a vector instruction: B6 in the S form, the literal, the window operand, a scalar or a vector register (R306, R313 to R315). -/
def srcB (i : Iss) (wide : Bool) (lane : Nat) : DWord :=
  match i.x.form with
  | .s => i.vop wide i.x.b6.toNat lane
  | .l | .x => cut wide i.x.lit
  | .e =>
    if i.winB then cut wide i.wv
    else if i.x.sb then cut wide (i.scalarLane i.x.b lane)
    else i.vop wide i.x.b.toNat lane

/-- Source C of a vector instruction. -/
def srcC (i : Iss) (wide : Bool) (lane : Nat) : DWord :=
  if i.winC then cut wide i.wv
  else if i.x.sc then cut wide (i.scalarLane i.x.c lane)
  else i.vop wide i.x.c.toNat lane

/-- A shift amount (R342): B6 of kind i in the S form. -/
def shiftB (i : Iss) (lane : Nat) : Nat :=
  match i.x.form with
  | .s => i.x.b6.toNat
  | _ => (i.srcB false lane).toNat

/-- Source B of a scalar instruction: B6 of kind s, the literal, the window operand or a scalar (R306, R315, R345). -/
def scalarB (i : Iss) : DWord :=
  match i.x.form with
  | .s => i.scalar (i.x.b6.zeroExtend 8)
  | .l | .x => i.x.lit
  | .e => if i.winB then i.wv else i.scalar i.x.b

/-- Address of the next instruction in address order (R304). -/
def nextPc (i : Iss) : DWord := i.st.pc + BitVec.ofNat 64 (4 * i.x.form.words)

/-- The offset of a control instruction (R352): word 2 sign-extended, or the literal. -/
def target (i : Iss) : DWord := i.st.pc + (if i.x.hasLit then i.x.lit else i.x.w2.signExtend 64)

/-- The memory address that a lane forms (R395). -/
def addr (i : Iss) (lane : Nat) : DWord :=
  let off := i.x.offset.signExtend 64
  if i.x.idx ∧ i.x.a = 0 then i.vpair i.x.b.toNat lane + off
  else
    let ix : DWord := if i.x.idx then ((i.vreg i.x.b.toNat lane).signExtend 64) <<< i.x.scale else 0
    i.scalarLane i.x.a lane + ix + off

/-- The address that is formed once for the strand (R395, R402). -/
def addrOnce (i : Iss) : DWord := i.scalar i.x.a + i.x.offset.signExtend 64

/-- The scope of word 2 (R312). -/
def scope (i : Iss) : Scope :=
  match i.x.scopeCode with
  | 0 => .strand | 1 => .group | 2 => .team | 3 => .core | 4 => .bent | 5 => .device | _ => .system

/-- The residency flag that field C names: 0 names p7 (R393). -/
def flagReg (i : Iss) : Nat := if i.x.c = 0 then 7 else i.x.c.toNat

/-- Whether the strand carries a write set (R129, R132). -/
def hasSet (i : Iss) : Bool := i.st.arm || i.st.folds ≠ 0

/-- The fold record on top of a strand's stack (R132). -/
def topFold (i : Iss) : Option FoldRec := (i.g.folds.filter (·.sid = i.r.num)).getLast?

/-- The current write set: the top record's while FOLDS is non-zero, else the strand's own (R132, R134). -/
def curSet (i : Iss) : BitVec 256 × BitVec 8 :=
  if i.st.folds ≠ 0 then
    match i.topFold with
    | some f => (f.fvset, f.fpset)
    | none => (0, 0)
  else (i.st.vset &&& ~~~i.st.vseal, i.st.pset &&& ~~~i.st.pseal)

end Iss

/-- The scope of an acquire or release code (R56). -/
def scopeOfCode (c : Nat) : Scope := if c = 2 then .system else .device

/-! ### Registers read and written -/

/-- A field read as a source of its kind. -/
def Kind.reads (k : Kind) (code : Nat) : Uses :=
  match k with
  | .v n _ => { rv := upFrom code n }
  | .su | .sl => { rs := [code], seed := code = 208 }
  | .p => { rp := [code] }
  | _ => {}

/-- A field written as a destination of its kind. -/
def Kind.writes (k : Kind) (code : Nat) : Uses :=
  match k with
  | .v n _ => { wv := upFrom code n }
  | .sd => { ws := [code] }
  | .p => { wp := [code] }
  | _ => {}

/-- Whether field D is a source: the data of ST and SST, the destination address of a copy (R393). -/
def Enc.dReads (x : Enc) : Bool := [0xA1, 0xA4, 0xAC, 0xAD, 0xAE].contains x.o

/-- Whether field D is a source and a destination: the atomics (R403, R404, R406). -/
def Enc.dBoth (x : Enc) : Bool := [0xA5, 0xA6, 0xA7].contains x.o

/-- Registers of field D. A CAS leaves its new-value registers unchanged (R404). -/
def usesD (x : Enc) : Uses :=
  let k := (fieldKinds x).d
  let c := x.d.toNat
  if x.o = 0x03 then {}
  else if Enc.dReads x then k.reads c
  else if x.o = 0xA7 then (k.reads c).join { wv := upFrom c (if x.sub = 3 then 2 else 1) }
  else if Enc.dBoth x then (k.reads c).join (k.writes c)
  else k.writes c

/-- Registers of field C: a carry is read and written (R339), a residency flag is written and 0 names p7 (R393). -/
def usesC (x : Enc) : Uses :=
  let c := x.c.toNat
  if x.hasW1 = false then {}
  else if x.o = 0x1B then { rp := [c], wp := [c] }
  else match x.o with
    | 0xA0 | 0xA1 | 0xA3 | 0xA4 | 0xA5 | 0xA6 | 0xA7 => { wp := [if c = 0 then 7 else c] }
    | _ => if x.w2kind = .k ∧ x.ken ∧ x.ksel then {} else (fieldKinds x).c.reads c

/-- Registers of field B: CVT and BPACK write a flag predicate there (R373, R376). -/
def usesB (x : Enc) : Uses :=
  let k := (fieldKinds x).b
  let b := x.b.toNat
  if x.form = .s then
    match x.o with
    | 0x04 | 0x10 | 0x11 | 0x12 | 0x13 | 0x17 | 0x18 | 0x1E | 0x1F | 0x20 | 0x21
    | 0x60 | 0x61 | 0x62 | 0x64 | 0x65 | 0x6B | 0x6C | 0x6D | 0x90 => { rv := [x.b6.toNat] }
    | 0x6F | 0x70 => { rv := upFrom x.b6.toNat 2 }
    | 0x40 | 0x41 | 0x42 | 0x43 | 0x44 | 0x45 => { rs := [x.b6.toNat] }
    | 0x4F | 0x50 | 0x51 => { rp := [x.b6.toNat] }
    | _ => {}
  else if x.form ≠ .e then {}
  else if x.o = 0x7A ∨ x.o = 0x7C then { wp := if b = 0 then [] else [b] }
  else if x.w2kind = .k ∧ x.ken ∧ !x.ksel then {}
  else k.reads b

/-- Registers of field A; LOOP writes its count (R355). -/
def usesA (x : Enc) : Uses :=
  let k := (fieldKinds x).a
  let a := x.a.toNat
  match k with
  | .loop => { rs := [a], ws := [a] }
  | _ => k.reads a

/-- Whether the instruction rounds under SR and so reads and steps `$seed` (R244). -/
def Enc.stochastic (x : Enc) : Bool := 0x60 ≤ x.o && x.o ≤ 0x8F && x.rm = 5#3

/-- The registers that the fields of an instruction name. -/
def Enc.uses (x : Enc) : Uses :=
  let g : Uses := if x.hasW1 ∧ x.guard ≠ 0 then { rp := [(x.guard.extractLsb' 0 3).toNat] } else {}
  let fixed : Uses := match x.o with
    | 0x06 => { ws := [159] }
    | 0x07 => { rs := [159] }
    | 0x56 => if x.w2.extractLsb' 0 8 = 0x81#8 then { seed := true } else {}
    | _ => {}
  ((usesD x).join (usesA x)).join (((usesB x).join (usesC x)).join (g.join (fixed.join { seed := Enc.stochastic x })))

end Sys2Proof.Machine
end

