-- ==== Sys2Proof/Machine/Flags.lean ====
section
/-! DEFINITION. Integer types and their values (R336), and what is computed into predicates and flags: comparisons (R340, R347), carries (R339), votes (R349). -/
namespace Sys2Proof.Machine

/-- An integer type: its width W and whether it is signed (R335, R336). -/
structure IntTy where
  w : Nat
  signed : Bool
deriving DecidableEq, Repr

def Enc.intTy (x : Enc) : IntTy := ⟨x.width, x.signed⟩

namespace IntTy

/-- lo(T) and hi(T) (R336). -/
def lo (t : IntTy) : Int := if t.signed then -(2 ^ (t.w - 1)) else 0
def hi (t : IntTy) : Int := if t.signed then 2 ^ (t.w - 1) - 1 else 2 ^ t.w - 1

/-- val(x) of the low W bits (R336). -/
def val (t : IntTy) (x : DWord) : Int :=
  let n := x.toNat % 2 ^ t.w
  if t.signed ∧ 2 ^ (t.w - 1) ≤ n then (n : Int) - 2 ^ t.w else n

/-- An integer modulo 2^W. -/
def wrap (t : IntTy) (e : Int) : DWord := BitVec.ofNat 64 (e % 2 ^ t.w).toNat

/-- An exact result as it is written: saturated, or modulo 2^W (R336). -/
def store (t : IntTy) (sat : Bool) (e : Int) : DWord := t.wrap (if sat then max t.lo (min t.hi e) else e)

end IntTy

/-- The comparisons of ICMP, ISET and SCMP (R340). -/
def intCmp (sub : Nat) (x y : Int) : Bool :=
  match sub with
  | 0 => decide (x = y)
  | 1 => decide (x ≠ y)
  | 2 => decide (x < y)
  | 3 => decide (x ≤ y)
  | 4 => decide (y < x)
  | _ => decide (y ≤ x)

/-- IADDC: the exact sum or difference with the carry (R339). -/
def carryExact (sub : Nat) (x y : Nat) (c : Bool) : Int :=
  if sub = 0 then (x : Int) + y + c.toNat else (x : Int) - y - c.toNat

/-- The carry that IADDC writes (R339). -/
def carryOut (w : Nat) (e : Int) : Bool := decide (2 ^ w ≤ e ∨ e < 0)

/-- VOTE all, any and uniform over the lanes of a mask (R349). -/
def voteBit (sub : Nat) (lanes p : Mask) : Bool :=
  match sub with
  | 0 => lanes &&& p = lanes
  | 1 => lanes &&& p ≠ 0#32
  | _ => lanes &&& p = 0#32 || lanes &&& p = lanes

end Sys2Proof.Machine
end

