-- ==== Sys2Proof/Machine/Issue.lean ====
section
/-! DEFINITION. How an instruction issues: what it waits for (R137, R138, R142, R144, R149, R150, R221, R261, R409), the checks in the order of R317, the checks of R138 and R139, and the advance to the next instruction (R304). -/
namespace Sys2Proof.Machine

/-! ### Waits -/

/-- Instructions that issue only when no live earlier strand shares a lane (R136, R143, R144, R351, R425). -/
def Enc.gated (x : Enc) : Bool :=
  [0x09, 0x0A, 0xA6, 0xA7, 0xA8, 0xA9, 0xAC, 0xAD, 0xAE, 0xC0, 0xC1, 0xC3, 0xC5, 0xC6, 0xC7, 0xC9, 0xCB, 0xCC, 0xCD, 0xCE].contains x.o
    || (x.o = 0x56 && x.w2.extractLsb' 0 8 = 0x81#8) || (x.o = 0xA3 && x.ord ≠ 3)

/-- Instructions that wait for every earlier long-latency instruction of the strand (R150). -/
def Enc.endsWindow (x : Enc) : Bool :=
  [0x01, 0x02, 0x05, 0x06, 0x07, 0x08, 0x09, 0x0B, 0x0C, 0x0D, 0xA8, 0xA9, 0xC2, 0xC3, 0xC8, 0xCA].contains x.o || (0xE0 ≤ x.o && x.o ≤ 0xEF)

/-- Instructions that wait for a release fence of the strand (R409), the fences among them. -/
def Enc.afterFence (x : Enc) : Bool :=
  [0x0A, 0x9C, 0xA1, 0xA4, 0xA5, 0xA6, 0xA7, 0xA8, 0xA9, 0xAA, 0xAC, 0xAD, 0xAE, 0xC1, 0xC3, 0xC9, 0xCD, 0xCE, 0xE1, 0xE3].contains x.o

/-- Loads that an acquire orders (R221). -/
def Enc.orderedLoad (x : Enc) : Bool := ([0xA0, 0xA3].contains x.o && x.ord ≠ 3) || [0x9D, 0xA5, 0xA6, 0xA7].contains x.o

/-- A wait: whether the scoreboard causes it (R149), and its dead-wait descriptor (R175). -/
structure Hold where
  board : Bool := false
  why : DWord := 0
deriving DecidableEq, Repr

/-- Registers pending in a lane of a mask for a strand: by its own loads and long-latency results, and for the handler strand by those of every strand (R149, R273). -/
def Group.pendingFor (g : Group) (num : Nat) (lanes : Mask) : Uses :=
  let mine (sid : Nat) : Bool := sid = num || num = handlerSid
  let ls := (g.loads.filter fun l => mine l.sid && ((l.lanes &&& lanes) != 0#32 || match l.dest with
    | .scalar _ _ _ => true
    | _ => false)).map (·.pending)
  let os := (g.longs.filter fun l => mine l.sid && (l.mask &&& lanes) != 0#32).map fun l => ({ wv := l.writes.map (·.1) } : Uses)
  let fs := (g.failing.filter fun f => !f.raised && mine f.sid && ((f.mask &&& lanes) != 0#32 || f.ws ≠ [])).map fun f => ({ wv := f.wv, wp := f.wp, ws := f.ws } : Uses)
  (ls ++ os ++ fs).foldl Uses.join {}

/-- Whether an instruction names a register of a list of pending ones. -/
def Uses.touches (u p : Uses) : Bool :=
  (u.rv ++ u.wv).any (p.wv.contains ·) || (u.rp ++ u.wp).any (p.wp.contains ·) || (u.rs ++ u.ws).any fun k => k ≠ 0 && p.ws.contains k

/-- Whether an instruction waits on a matrix mark (R261). -/
def Group.marked (g : Group) (u : Uses) : Bool :=
  g.marks.any fun m => if m.pending then (u.rv ++ u.wv).contains m.reg else u.wv.contains m.reg

/-- The descriptor of a wait on matrix marks: only the read of a pending register is a wait of R173 (R175). -/
def Group.markWhy (g : Group) (u : Uses) : DWord :=
  match g.marks.find? fun m => m.pending && u.rv.contains m.reg with
  | some m => waitDesc 4 m.reg
  | none => 0

/-- Whether a write set of an earlier live strand holds a register of the instruction back (R137). -/
def Group.setHolds (g : Group) (st : Strand) (u : Uses) : Bool :=
  g.live.any fun (k, o) => orderBefore o.order st.order && (g.lanesOfStrand k o &&& (st.mask ||| u.lanes)) != 0#32 &&
    ((u.rv ++ u.wv).any (o.vset.getLsbD ·) || (u.rp ++ u.wp).any (o.pset.getLsbD ·) || (u.seed && (o.arm || o.folds ≠ 0)))

/-- Whether the lookahead windows of the strand's incomplete long-latency instructions let an instruction issue (R149, R150). A store is complete once its parts are in the buffer (R399). -/
def Group.inWindows (g : Group) (num : Nat) (ends : Bool) : Bool :=
  let ok (sid la n : Nat) : Bool := sid ≠ num || (!ends && decide (n < la))
  g.loads.all (fun l => l.dest = .store || ok l.sid l.la l.issuedAfter) && g.longs.all (fun l => ok l.sid l.la l.issuedAfter) && g.failing.all fun f => f.raised || ok f.sid f.entry.la.toNat f.issuedAfter

/-- Whether a release fence of the strand still waits (R220, R409). -/
def Iss.fenced (i : Iss) : Bool :=
  match i.st.rel with
  | some w => w.fence && !(i.g.stepRelease i.r.num w i.t.fused i.time).done
  | none => false

/-- Instructions that wait until every line of an earlier slide image of the strand has been acknowledged (R392): loads, stores, atomics, and writes of slide storage. -/
def Enc.afterImage (x : Enc) : Bool := [0xA0, 0xA1, 0xA3, 0xA4, 0xA5, 0xA6, 0xA7, 0x97, 0x98, 0x9A, 0x9B, 0x9C, 0x9D].contains x.o

/-- Whether a slide image of the strand is still on its way (R392). -/
def Iss.imagesWait (i : Iss) : Bool :=
  i.g.acks.any (fun a => a.sid = i.r.num && decide (32 ≤ a.lane)) || i.g.sb.any fun e => e.sid = i.r.num && e.parts.any fun p => decide (32 ≤ p.lane)

/-- What keeps the instruction from issuing, if anything does. -/
def Iss.held (i : Iss) (u : Uses) : Option Hold :=
  let x := i.x
  let earlier := i.g.sharesEarlier i.st
  if !i.g.inWindows i.r.num (Enc.endsWindow x) then some {}
  else if u.touches (i.g.pendingFor i.r.num (i.st.mask ||| u.lanes)) then some { board := true }
  else if i.g.marked u then some { board := true, why := i.g.markWhy u }
  else if i.g.setHolds i.st u then some {}
  else if earlier && (Enc.gated x || (!i.hasSet && u.ws.any fun k => decide (1 ≤ k ∧ k ≤ 155))) then some {}
  else if Enc.afterFence x && i.fenced then some {}
  else if Enc.afterImage x && i.imagesWait then some {}
  else if Enc.orderedLoad x && i.g.loads.any (fun l => l.acq && l.sid = i.r.num && (l.lanes &&& i.st.mask) != 0#32) then some {}
  else none

/-! ### Checks -/

/-- Whether the group is in supervisor mode for this instruction: the handler strand issues it (R273, R274). -/
def Iss.supervisor (i : Iss) : Bool := i.r.handler

/-- Whether an instruction is privileged (R274, R351, R435). -/
def Enc.privileged (x : Enc) : Bool :=
  (0xE0 ≤ x.o && x.o ≤ 0xE7) || ((x.o = 0x55 || x.o = 0x56) && decide ((x.w2.extractLsb' 0 8).toNat ≤ 0x0C))

/-- Instructions that the handler strand may not issue (R360). -/
def Enc.notInHandler (x : Enc) : Bool := [0x02, 0x03, 0x04, 0x05, 0x09, 0x0A, 0x0B].contains x.o

/-- The first register that the instruction writes outside the current write set (R139). -/
def Iss.undeclared (i : Iss) (u : Uses) : Option Nat :=
  if !i.hasSet then none
  else match u.wv.find? (!i.curSet.1.getLsbD ·) with
    | some k => some k
    | none => u.wp.find? fun k => k ≠ 0 && !i.curSet.2.getLsbD k

def undecl (k : Nat) : Trap := { cause := 0x0B#8, detail := k % 256 }
def scalw : Trap := { cause := 0x0C#8 }

/-- The checks of R138 and R139. -/
def Iss.setFault (i : Iss) (u : Uses) : Option Trap :=
  if i.hasSet && u.ws.any fun k => decide (1 ≤ k ∧ k ≤ 155) then some scalw
  else (i.undeclared u).map undecl

/-- The word or pair of the window operand (R313). -/
def State.readWindow (s : State) (i : Iss) : Res Iss :=
  if i.x.hasW1 && i.x.w2kind = .k && i.x.ken then
    (s.windowWord i.t i.x.win i.x.ofs).bind fun s lo =>
      if operandBits i.x i.x.ksel = 64 then
        (s.windowWord i.t i.x.win (i.x.ofs + 1)).bind fun s hi => .ok s { i with wv := hi ++ lo }
      else .ok s { i with wv := lo.zeroExtend 64 }
  else .ok s i

/-- The checks of an instruction that issues, in the order of R317, then those of R138 and R139. -/
def State.checked (s : State) (i : Iss) (u : Uses) : Res Iss :=
  if Enc.privileged i.x && !i.supervisor then .trap s { cause := 0x03#8 }
  else if Enc.notInHandler i.x && i.r.handler then .trap s illop
  else match encFault i.g.vregs (some i.t.wins) i.x with
    | some d => .trap s (illenc d.toNat)
    | none =>
      (s.readWindow i).bind fun s i => match i.setFault u with
        | some t => .trap s t
        | none => .ok s i

/-! ### The pipeline -/

/-- The strand of a reference with its group and team, as an instruction issues. -/
def State.iss? (s : State) (r : StrandRef) (x : Enc) : Option Iss :=
  match s.team? r.g.ctx r.g.vteam, s.group? r.g with
  | some t, some g =>
    if (g.strand r.num).valid then some { r := r, t := t, g := g, st := g.strand r.num, x := x, time := s.leaseNow t } else none
  | _, _ => none

/-- A strand that does not issue waits (R127); a scoreboard stall is counted (R149). -/
def State.holdStrand (s : State) (r : StrandRef) (h : Hold) : State :=
  let s := s.modStrand r fun st => { st with state := .waiting, why := h.why, look := false, readyAt := s.cycle }
  match h.board, s.team? r.g.ctx r.g.vteam with
  | true, some t => s.modCore t.core fun c => { c with sbstall := c.sbstall + 1 }
  | _, _ => s

/-- The end of an attempt to issue. -/
def State.settle (r : StrandRef) (la : BitVec 4) : Res Unit → State
  | .ok s _ => s
  | .hold s why => s.holdStrand r { why := why }
  | .trap s t => s.takeTrap r { t with la := if t.la = 0 then la else t.la }
  | .gone s x => s.abortTeam r.g.ctx r.g.vteam x

/-! ### Completion -/

/-- The strand goes on at an address: it is ready, and every incomplete long-latency instruction of it counts one more after it (R149). -/
def Group.advance (g : Group) (num : Nat) (pc : DWord) (cycle : Nat) : Group :=
  let load (l : Load) : Load := if l.sid = num then { l with issuedAfter := l.issuedAfter + 1 } else l
  let long (l : LongOp) : LongOp := if l.sid = num then { l with issuedAfter := l.issuedAfter + 1 } else l
  let g := (g.countIssue num).wake
  let fail (f : Failing) : Failing := if f.sid = num then { f with issuedAfter := f.issuedAfter + 1 } else f
  let g := { g with loads := g.loads.map load, longs := g.longs.map long, failing := g.failing.map fail, watch := 0 }
  g.modStrand num fun st =>
    { st with pc := pc, state := .ready, why := 0, spilled := false, arrived := false, look := false, skips := st.skips.drop 1, readyAt := cycle,
              rel := st.rel.filter (·.fence), placed := 0 }

/-- A release fence of the strand looked at again (R220): its wait goes on, or it is over. -/
def Group.stepFence (g : Group) (num : Nat) (fused : Bool) (now : Nat) : Group :=
  match (g.strand num).rel with
  | none => g
  | some w =>
    if !w.fence then g
    else
      let w := g.stepRelease num w fused now
      if w.done then (g.passRelease w).wake.modStrand num fun st => { st with rel := none }
      else g.modStrand num fun st => { st with rel := some w }

/-- Long-latency memory accesses: instructions of their window issue before their checks are over (R149, R151), and with LA 0 the next instruction is held, so the strand is waiting when the fault shows (R127). -/
def Enc.memoryOp (x : Enc) : Bool := 0xA0 ≤ x.o && x.o ≤ 0xA7

/-- An access that does not pass its checks has issued: its strand goes on within the window until the fault is raised (R151, R272, log 41). -/
def State.failLater (s : State) (i : Iss) (u : Uses) (t : Trap) : State :=
  s.modGroup i.r.g fun g =>
    let g := (g.stepFence i.r.num i.t.fused i.time).advance i.r.num i.nextPc s.cycle
    let e : FaultEntry := ⟨i.st.pc, t.cause, i.x.la, 0, t.lanes, t.faddr, t.lcause, BitVec.ofNat 64 t.detail⟩
    { g with failing := g.failing ++ [⟨g.nextId, i.r.num, 0, u.wv, u.wp, u.ws, i.st.mask, e, false⟩], nextId := g.nextId + 1 }

/-- An instruction issues: it waits, faults, or has its effect. more: registers that it uses beyond those its fields name. -/
def State.issueWith (s : State) (x : Enc) (more : State → Iss → Uses) (eff : State → Iss → Res Unit) : Out :=
  match s.cur with
  | none => .fault .noStrand
  | some r =>
    match s.iss? r x with
    | none => .fault .noStrand
    | some i =>
      let u := (Enc.uses x).join (more s i)
      match i.held u with
      | some h => .next (s.holdStrand r h)
      | none => .next (match s.checked i u with
        | .ok s i => match eff s i with
          | .trap s t =>
            if Enc.memoryOp x && x.la ≠ 0 && !r.handler then s.failLater i u t
            else if Enc.memoryOp x then (State.settle r 0 (.trap s t)).modStrand r fun st => { st with state := .waiting }
            else State.settle r x.la (.trap s t)
          | o => State.settle r x.la o
        | .hold s why => State.settle r x.la (.hold s why)
        | .trap s t => State.settle r x.la (.trap s t)
        | .gone s a => State.settle r x.la (.gone s a))

def State.issue (s : State) (x : Enc) (eff : State → Iss → Res Unit) : Out := s.issueWith x (fun _ _ => {}) eff

/-- Energy classes: vector issue and special-function issue (R284, log 9). -/
def State.issueEnergy (s : State) (i : Iss) : State :=
  let o := i.x.o
  if 0x72 ≤ o && o ≤ 0x79 then s.useEnergy i.t.core i.t.ctx 1 1
  else if (0x10 ≤ o && o ≤ 0x3F) || (0x60 ≤ o && o ≤ 0x9F) then s.useEnergy i.t.core i.t.ctx 0 1
  else s

/-- The instruction has its effect on the group and its strand goes on at an address. -/
def State.doneAt (s : State) (i : Iss) (pc : DWord) (f : Group → Group) : Res Unit :=
  .ok ((s.issueEnergy i).modGroup i.r.g fun g => f ((g.stepFence i.r.num i.t.fused i.time).advance i.r.num pc s.cycle)) ()

/-- The instruction has its effect on the group and the next one follows (R304). -/
def State.done (s : State) (i : Iss) (f : Group → Group) : Res Unit := s.doneAt i i.nextPc f

/-- Seals take effect once no write of the strand to the register is in flight (R134). -/
def Group.settleSeals (g : Group) (num : Nat) : Group :=
  let p := ((g.loads.filter (·.sid = num)).map (·.pending)).foldl Uses.join {}
  let q := ((g.longs.filter (·.sid = num)).flatMap fun l => l.writes.map (·.1)) ++ (g.failing.filter (·.sid = num)).flatMap (·.wv)
  g.modStrand num fun st =>
    let vs := (List.range 256).filter fun k => st.vseal.getLsbD k && !p.wv.contains k && !q.contains k
    let ps := (List.range 8).filter fun k => st.pseal.getLsbD k && !p.wp.contains k
    let vm := vs.foldl (fun (m : BitVec 256) k => m ||| (1#256 <<< k)) 0
    let pm := ps.foldl (fun (m : BitVec 8) k => m ||| (1#8 <<< k)) 0
    { st with vset := st.vset &&& ~~~vm, pset := st.pset &&& ~~~pm, vseal := st.vseal &&& ~~~vm, pseal := st.pseal &&& ~~~pm }

/-- A release before an effect (R217, R218, R222): the strand waits until it has passed. -/
def State.afterRelease (s : State) (i : Iss) (scope : Scope) (k : State → Iss → Res Unit) : Res Unit :=
  let w := match i.st.rel with
    | some w => if w.fence then i.g.newRelease scope i.active false none else w
    | none => i.g.newRelease scope i.active false none
  let w := i.g.stepRelease i.r.num w i.t.fused i.time
  if w.done then k ((s.modGroup i.r.g (·.passRelease w)).modStrand i.r fun st => { st with rel := some w }) i
  else .hold (s.modStrand i.r fun st => { st with rel := some w }) 0

/-! ### Register results -/

/-- What an instruction writes: vector registers and predicates in its active lanes, scalars, and `$seed`. -/
structure RegOut where
  v : List (Nat × Lanes) := []
  p : List (Nat × Mask) := []
  s : List (Nat × DWord) := []
  seed : Option Lanes := none
deriving DecidableEq, Repr

/-- Results written in the lanes of a mask (R8, R120 to R124, R309). -/
def Group.commit (g : Group) (num : Nat) (m : Mask) (o : RegOut) : Group :=
  let g := o.v.foldl (fun (g : Group) x => g.setV x.1 m x.2) g
  let g := o.p.foldl (fun (g : Group) x => g.setP x.1 m x.2) g
  let g := o.s.foldl (fun (g : Group) x => g.setScalar num x.1 x.2) g
  match o.seed with
  | some d => { g with seed := lanesMerge g.seed m d }
  | none => g

/-- A result of a checked unit (R289): residue mismatches that stand as injected data make it run again, and a third one is a PIPEERR. -/
def State.resultChecked (s : State) (i : Iss) (k : State → Res Unit) : Res Unit :=
  match s.arithmetic i.t with
  | (s, true) => k s
  | (s, false) => .ok s ()

/-- A memory instruction issues: its addresses and its store parts are checked results (R289). -/
def State.issueMem (s : State) (x : Enc) (eff : State → Iss → Res Unit) : Out := s.issue x fun s i => s.resultChecked i (eff · i)

/-- An instruction that computes registers from registers. -/
def State.regOp (s : State) (x : Enc) (f : Iss → RegOut) : Out :=
  s.issue x fun s i => s.resultChecked i fun s => s.done i fun g => g.commit i.r.num i.active (f i)

/-- As regOp, with lane faults before anything is written (R270). -/
def State.regOpTrap (s : State) (x : Enc) (f : Iss → Except Trap RegOut) : Out :=
  s.issue x fun s i => match f i with
    | .error t => .trap s t
    | .ok o => s.resultChecked i fun s => s.done i fun g => g.commit i.r.num i.active o

/-- A long-latency instruction that computes vector registers: its results stand in flight until they are written (R149). -/
def State.longOp (s : State) (x : Enc) (f : Iss → List (Nat × Lanes)) : Out :=
  s.issue x fun s i => s.resultChecked i fun s => s.done i fun g =>
    { g with longs := g.longs ++ [⟨g.nextId, i.r.num, x.la.toNat, 0, i.active, f i⟩], nextId := g.nextId + 1 }

/-- A vector result of one register or a pair (R121). -/
def vout (wide : Bool) (d : Nat) (f : Nat → DWord) : List (Nat × Lanes) :=
  if wide then [(d, lanesFn fun l => (f l).extractLsb' 0 32), (d + 1, lanesFn fun l => (f l).extractLsb' 32 32)]
  else [(d, lanesFn fun l => (f l).extractLsb' 0 32)]

end Sys2Proof.Machine
end

