-- ==== Sys2Proof/Machine/MemoryOps.lean ====
section
/-! DEFINITION. Loads, stores, atomics, fences, page requests and prefetch, opcodes 0xA0 to 0xAB (R393 to R411). -/
namespace Sys2Proof.Machine

/-! ### Widths -/

/-- Bytes of an access width (R397). -/
def accessBytes (sub : Nat) : Nat := 2 ^ (sub % 8)

/-- Whether a width is sign-extended (R397). -/
def accessSigned (sub : Nat) : Bool := decide (8 ≤ sub)

/-- The n bytes that a lane's data registers hold (R397). -/
def Iss.dataBytes (i : Iss) (d n lane : Nat) : List Byte :=
  ((List.range (regsOf n)).flatMap fun j => leBytes (i.vreg (d + j) lane).toNat 4).take n

/-- The residency flags of an access, written in its lanes (R188). -/
def Group.setFlags (g : Group) (k : Nat) (m nonres : Mask) : Group := g.setP k m nonres

/-- The lanes whose page is non-resident. -/
def nonresLanes (ts : List (Nat × Target)) : Mask := maskOf fun k => ts.any fun t => t.1 = k && t.2 = .nonres

/-- The address that a strand forms once, checked and translated; a cause is recorded on every lane of MASK, and lane 0's stack serves a stack address (R396, R402). -/
def State.targetOnce (s : State) (i : Iss) (a : DWord) (size : Nat) (need : Need) (only : Bool) : Res Target :=
  match s.target i.t i.g 0 a size need only with
  | (s, .ok t) => .ok s t
  | (s, .hold) => .hold s 0
  | (s, .abort y) => .gone s y
  | (s, .fault c) => match laneTrap i.st.mask (fun _ => c) (fun _ => a) with
    | some tr => .trap s tr
    | none => .trap s { cause := laneCauseCode c }

/-! ### Entering loads and stores -/

/-- A load or atomic in flight (R143, R149). -/
def Group.addLoad (g : Group) (i : Iss) (id : Nat) (dest : LoadDest) (flag : Option Nat) (op : Option AtomOp) (parts : List LoadPart) : Group :=
  { g with loads := g.loads ++ [⟨id, i.r.num, i.x.la.toNat, 0, dest, i.x.fe, flag, i.x.ord = 1 || (dest ≠ .store && i.x.fe ≠ 0), i.x.ord = 3, i.x.cache, op, i.st.pc, i.st.mask, parts⟩] }

/-- A store entry (R141). Its remote writes have a record that hears of their completion, and sets the flag where a peer finds its page non-resident (R185, R188, log 89). -/
def Group.addStore (g : Group) (i : Iss) (full scalar : Bool) (flag : Nat) (parts : List StorePart) : Group :=
  let id := g.nextId
  if parts = [] then g
  else
    let g := { g.enterStore ⟨id, i.r.num, i.st.order, full, scalar, false, i.x.cache, parts⟩ with nextId := id + 1 }
    let far := parts.filter fun p => match p.target with
      | .remote _ _ _ => true
      | _ => false
    match far with
    | [] => g
    | p :: _ =>
      let lp (p : StorePart) : LoadPart := ⟨p.lane, p.target, .gated, 0, 0, none⟩
      g.addLoad i id .store (some flag) none (if scalar then [{ lp p with lane := pieceLane 0 }] else far.map lp)

/-- The strand parks while its `.fe` or `.fec` load waits on a granule (R127, R198, R398). -/
def State.parkFe (s : State) (i : Iss) (id : Nat) : State :=
  s.modGroup i.r.g fun g =>
    match g.loads.find? (·.id = id) with
    | some l =>
      if l.fe ≠ 0 && !l.whole then
        g.modStrand i.r.num fun st => { st with state := .parked, park := some (.granule id), why := waitDesc 3 0 }
      else g
    | none => g

/-- A load or atomic issues, and the lanes that may be performed are (R143). -/
def State.startLoad (s : State) (i : Iss) (f : Nat → Group → Group) : Res Unit :=
  let id := match s.group? i.r.g with
    | some g => g.nextId
    | none => 0
  (s.done i fun g => { (f id g) with nextId := id + 1 }).bind fun s _ => .ok ((s.performAll i.r.g id).parkFe i id) ()

/-! ### Loads -/

/-- LD (R398). -/
def execLd (x : XForm) (s : State) : Out :=
  let e := x.enc 0xA0
  s.issueMem e fun s i =>
    let n := accessBytes e.sub
    (s.targets i.t i.g i.active i.addr n .read (e.fe ≠ 0)).bind fun s ts =>
      if ts = [] then s.done i id
      else s.startLoad i (fun id g => g.addLoad i id (.vector e.d.toNat n (accessSigned e.sub)) (some i.flagReg) none
        (ts.map fun (k, t) => ⟨k, t, .gated, 0, 0, none⟩))

/-- SLD (R402). -/
def execSld (x : XForm) (s : State) : Out :=
  let e := x.enc 0xA3
  s.issueMem e fun s i =>
    let n := accessBytes e.sub
    (s.targetOnce i i.addrOnce n .read (e.fe ≠ 0)).bind fun s t =>
      s.startLoad i (fun id g => g.addLoad i id (.scalar e.d n (accessSigned e.sub)) (some i.flagReg) none
        [⟨(lowLane i.st.mask).getD 0, t, .gated, 0, 0, none⟩])

/-- The word index of a lane of LDK (R401). -/
def Iss.ldkIndex (i : Iss) (l : Nat) : Nat :=
  i.x.ofs + (i.scalarLane i.x.a l).toNat % 2 ^ 32 + (if i.x.idx then (i.vreg i.x.b.toNat l).toNat else 0)

/-- The words of a window that the lanes read, in lane order (R195, R401). -/
def State.windowWords (s : State) (i : Iss) (idx : List (Nat × Nat)) : Res (List (Nat × Word)) :=
  idx.foldl (fun r (l, k) => r.bind fun s ws => (s.windowWord i.t i.x.win k).bind fun s w => .ok s (ws ++ [(l, w)])) (.ok s [])

/-- LDK (R401). -/
def execLdk (x : XForm) (s : State) : Out :=
  let e := x.enc 0xA2
  s.issueMem e fun s i =>
    let n := if e.sub = 3 then 2 else 1
    let len := (i.t.windows.getD e.win ⟨0, 0, false⟩).len
    let ls := lanesOf i.active
    if ls.any fun l => decide (len < i.ldkIndex l + n - 1 ∨ (n = 2 ∧ i.ldkIndex l % 2 = 1)) then .trap s (illenc e.win)
    else (s.windowWords i (ls.map fun l => (l, i.ldkIndex l))).bind fun s lo =>
      (s.windowWords i (if n = 2 then ls.map fun l => (l, i.ldkIndex l + 1) else [])).bind fun s hi =>
        let word (ws : List (Nat × Word)) (l : Nat) : Word := match ws.find? (·.1 = l) with
          | some w => w.2
          | none => 0
        let writes := (e.d.toNat, lanesFn (word lo)) :: (if n = 2 then [(e.d.toNat + 1, lanesFn (word hi))] else [])
        s.done i fun g => { g with longs := g.longs ++ [⟨g.nextId, i.r.num, e.la.toNat, 0, i.active, writes⟩], nextId := g.nextId + 1 }

/-! ### Stores -/

/-- ST (R399): a full store buffer holds it (R142), and `.rel` releases first (R400). -/
def storeOp (x : Enc) (s : State) : Out :=
  s.issueMem x fun s i =>
    let n := accessBytes x.sub
    if i.active ≠ 0 && i.g.bufferFull i.st i.active then .hold s 0
    else (s.targets i.t i.g i.active i.addr n .write (x.fe ≠ 0)).bind fun s ts =>
      let put (s : State) (i : Iss) : Res Unit :=
        s.done i fun g =>
          (g.addStore i (x.fe ≠ 0) false i.flagReg ((ts.filter (·.2 ≠ .nonres)).map fun (k, t) => ⟨k, t, i.dataBytes x.d.toNat n k, false⟩)).setFlags
            i.flagReg i.active (nonresLanes ts)
      if x.ord = 2 then s.afterRelease i i.scope put else put s i
def execSt (x : XForm) (s : State) : Out := storeOp (x.enc 0xA1) s

/-- SST (R402): one write, with a part on every lane of MASK. -/
def execSst (x : XForm) (s : State) : Out :=
  let e := x.enc 0xA4
  s.issueMem e fun s i =>
    let n := accessBytes e.sub
    if i.g.bufferFull i.st i.st.mask then .hold s 0
    else (s.targetOnce i i.addrOnce n .write (e.fe ≠ 0)).bind fun s t =>
      let part (k : Nat) : StorePart := ⟨k, t, leBytes (i.scalar e.d).toNat n, false⟩
      let parts := if t = .nonres then [] else (lanesOf i.st.mask).map part
      let put (s : State) (i : Iss) : Res Unit :=
        s.done i fun g =>
          (g.addStore i (e.fe ≠ 0) true i.flagReg parts).setFlags
            i.flagReg i.st.mask (if t = .nonres then i.st.mask else 0)
      if e.ord = 2 then s.afterRelease i i.scope put else put s i

/-! ### Atomics -/

/-- The operator of an ATOM sub-operation (R403). -/
def atomOf (sub : Nat) : AtomOp :=
  let uns := 16 ≤ sub
  match sub % 8 with
  | 0 => .add
  | 1 => if uns then .minU else .minS
  | 2 => if uns then .maxU else .maxS
  | 3 => .and | 4 => .or | 5 => .xor | 6 => .xchg | _ => .fadd

/-- A value of n bytes in registers from d. -/
def Iss.regNat (i : Iss) (d n lane : Nat) : Nat := leNat (i.dataBytes d n lane)

/-- An atomic enters: its store parts and its load parts share a number (R141, R403, R404). -/
def State.startAtomic (s : State) (i : Iss) (dest : LoadDest) (op : AtomOp) (parts : List LoadPart) : Res Unit :=
  s.startLoad i (fun id g =>
    let part (k : Nat) (t : Target) : StorePart := ⟨k, t, [], false⟩
    let lanes := parts.flatMap fun (p : LoadPart) => match dest with
      | .agg _ _ xs => xs.map fun x => part x.1 p.target
      | _ => [part p.lane p.target]
    (g.enterStore ⟨id, i.r.num, i.st.order, false, false, true, i.x.cache, lanes⟩).addLoad i id dest (some i.flagReg) (some op) parts)

/-- ATOM and CAS (R403, R404): the operand of a lane, and the value it compares with. -/
def atomicOp (x : Enc) (n : Nat) (op : AtomOp) (operand compare : Iss → Nat → Nat) (s : State) : Out :=
  s.issueMem x fun s i =>
    if i.active ≠ 0 && i.g.bufferFull i.st i.active then .hold s 0
    else (s.targets i.t i.g i.active i.addr n .both false).bind fun s ts =>
      let put (s : State) (i : Iss) : Res Unit :=
        if ts = [] then s.done i id
        else s.startAtomic i (.atomic x.d.toNat n) op (ts.map fun (k, t) => ⟨k, t, .gated, operand i k, compare i k, none⟩)
      if x.ord = 2 then s.afterRelease i i.scope put else put s i

/-- ATOM (R403). -/
def execAtom (x : XForm) (s : State) : Out :=
  let e := x.enc 0xA5
  let n := if e.sub / 8 % 2 = 1 then 8 else 4
  atomicOp e n (atomOf e.sub) (fun i k => i.regNat e.d.toNat n k) (fun _ _ => 0) s

/-- CAS (R404). -/
def execCas (x : XForm) (s : State) : Out :=
  let e := x.enc 0xA7
  let n := if e.sub = 3 then 8 else 4
  atomicOp e n .cas (fun i k => i.regNat (e.d.toNat + regsOf n) n k) (fun i k => i.regNat e.d.toNat n k) s

/-- ATOMAGG (R225, R406). -/
def execAtomagg (x : XForm) (s : State) : Out :=
  let e := x.enc 0xA6
  let n := if e.sub = 8 then 8 else 4
  s.issueMem e fun s i =>
    let a := i.addrOnce
    if apertureOf a = .stack then
      match laneTrap i.st.mask (fun _ => laneApert) (fun _ => a) with
      | some t => .trap s t
      | none => .hold s 0
    else if i.active = 0 then s.done i id
    else if i.g.bufferFull i.st i.active then .hold s 0
    else (s.targetOnce i a n .both false).bind fun s t =>
      let xs := (lanesOf i.active).map fun k => (k, i.regNat e.d.toNat n k)
      let sum := xs.foldl (fun t x => (t + x.2) % 2 ^ (8 * n)) 0
      let put (s : State) (i : Iss) : Res Unit :=
        s.startAtomic i (.agg e.d.toNat n xs) .add [⟨(lowLane i.active).getD 0, t, .gated, sum, 0, none⟩]
      if e.ord = 2 then s.afterRelease i i.scope put else put s i

/-! ### Fences -/

/-- A release fence: the strand goes on, and what R409 lists waits until the release is done. -/
def State.fence (s : State) (i : Iss) (scope : Scope) (range : Option (Nat × Nat)) : Res Unit :=
  let w := i.g.stepRelease i.r.num (i.g.newRelease scope i.active true range) i.t.fused i.time
  s.done i fun g => if w.done then g.passRelease w else g.modStrand i.r.num fun st => { st with rel := some w }

/-- FENCE (R407): the waits of R144 and R150 have already completed every earlier load, so its acquire is met when it issues. -/
def execFence (x : XForm) (s : State) : Out :=
  let e := x.enc 0xA8
  s.issue e fun s i => if e.sub = 1 then s.done i id else s.fence i i.scope none

/-- FENCER (R408). -/
def execFencer (x : XForm) (s : State) : Out :=
  let e := x.enc 0xA9
  s.issue e fun s i => s.fence i i.scope (some ((i.scalar e.a).toNat, (i.scalar e.b).toNat))

/-! ### Page requests and prefetch -/

/-- How a page stands to a TOUCH (R189, R410). -/
inductive TouchPage where
  | resident | pending | hold | fault (cause : Nat) | abort (x : Spot)
deriving DecidableEq, Repr

def State.touchPage (s : State) (t : Team) (a : DWord) : State × TouchPage :=
  if apertureOf a ≠ .global then (s, .fault laneApert)
  else
    let va := a.toNat % 2 ^ 57
    if t.ctx = 0 then (s, if va < memTop then .resident else .fault laneProt)
    else match s.lookup (s.whoTeam t) va with
      | (s, .leaf _) => (s, .resident)
      | (s, .nonres) => (s, .pending)
      | (s, .hold) => (s, .hold)
      | (s, .prot) => (s, .fault laneProt)
      | (s, .abort x) => (s, .abort x)

/-- A lane's amount recorded in the die's pending-touch table (R189). -/
def State.recordTouch (s : State) (t : Team) (page tok : Nat) (amount : Word) : State :=
  let die := dieOfCore t.core
  let l := s.touches.getD die []
  let hit (p : Touch) : Bool := p.ctx = t.ctx && p.page = page && p.vteam = t.vteam && p.tok = tok
  let l := if l.any hit then lmod l hit fun p => { p with amount := p.amount + amount }
    else l ++ [⟨t.ctx, page, t.vteam, tok, amount, !(l.any fun p => p.ctx = t.ctx && p.page = page), false, s.timeOf die⟩]
  { s with touches := vmod s.touches die fun _ => l }

/-- Uncorrectable data that the walk for a lane has met. -/
def TouchPage.lost? : TouchPage → Option Spot
  | .abort x => some x
  | _ => none

/-- Whether the die's table takes a lane's record (R189). -/
def State.touchRoom (s : State) (t : Team) (page tok : Nat) : Bool :=
  let l := s.touches.getD (dieOfCore t.core) []
  decide (l.length < 4096) || l.any fun p => p.ctx = t.ctx && p.page = page && p.vteam = t.vteam && p.tok = tok

/-- One lane of a TOUCH dealt with, if its page and the table let it (R189). -/
def State.touchLane (s : State) (t : Team) (page tok : Nat) (amount : Word) : TouchPage → Option State
  | .resident => some (s.addToken t.ctx t.vteam tok amount)
  | .pending => if s.touchRoom t page tok then some (s.recordTouch t page tok amount) else none
  | _ => none

/-- Lanes of a TOUCH dealt with in turn: the state, and the lanes that wait (R189). -/
def State.touchLanes (s : State) (t : Team) (page : Nat → Nat) (tok : Nat) (amount : Word) (rs : List (Nat × TouchPage)) : State × List Nat :=
  rs.foldl (fun (s, left) r => match s.touchLane t (page r.1) tok amount r.2 with
    | some s => (s, left)
    | none => (s, left ++ [r.1])) (s, [])

/-- TOUCH (R189, R410): each lane as soon as its page lets it; the instruction waits for the last. -/
def execTouch (x : XForm) (s : State) : Out :=
  let e := x.enc 0xAA
  s.issueMem e fun s i =>
    let tok := e.d.toNat
    let amount := (i.scalar e.c).extractLsb' 0 32
    let (s, rs) := (lanesOf (i.active &&& ~~~i.st.placed)).foldl (fun (s, l) k => let (s, r) := s.touchPage i.t (i.addr k); (s, l ++ [(k, r)])) (s, ([] : List (Nat × TouchPage)))
    let cause (k : Nat) : Nat := match rs.find? (·.1 = k) with
      | some (_, .fault c) => c
      | _ => 0
    let page (k : Nat) : Nat := (i.addr k).toNat % 2 ^ 57 / 65536
    match laneTrap i.active cause i.addr with
    | some tr => .trap s tr
    | none =>
      match rs.findSome? (·.2.lost?) with
      | some y => .gone s y
      | none =>
      if (s.touchLanes i.t page tok amount rs).2 = [] then
        (s.done i id).bind fun s _ => .ok (s.touchLanes i.t page tok amount rs).1 ()
      else
        let (s, left) := s.touchLanes i.t page tok amount rs
        .hold (s.modStrand i.r fun st => { st with placed := i.active &&& ~~~(maskOf (left.contains ·)) }) 0

/-- One line prefetched, if it lies on a resident, readable page of device memory and no copy is at hand (R185, R203, R411); the class of a copy at hand may rise (R200). -/
def State.prefetch (s : State) (t : Team) (a : DWord) (cls : Nat) : State :=
  if apertureOf a ≠ .global then s
  else
    let va := a.toNat % 2 ^ 57
    let w := s.whoTeam t
    match s.place w va .read with
    | (s, .here pa _) =>
      let k := s.l1Core t pa
      let live := ((s.core k).l1? pa).any (·.live (s.timeOf (dieOfCore k)))
      if live then s.modCore k fun c => { c with l1 := lmod c.l1 (·.line = lineOf pa) fun l => { l with cls := max l.cls cls } }
      else if pa < 65536 || s.held pa || s.bad (lineOf pa * 128) 128 || s.unackedLine (fun u => s.l1Core u pa = k) va then s
      else
        let s := s.useL2 w pa va cls
        let (s, e) := s.grant k pa (s.timeOf (dieOfPa pa))
        (s.fillL1 k pa e cls true).modCore t.core fun c => { c with pffetch := c.pffetch + 1 }
    | (s, _) => s

/-- PREF (R411). -/
def execPref (x : XForm) (s : State) : Out :=
  let e := x.enc 0xAB
  s.issueMem e fun s i =>
    (s.done i id).bind fun s _ => .ok ((lanesOf i.active).foldl (fun s k => s.prefetch i.t (i.addr k) (hintClass e.cache)) s) ()

end Sys2Proof.Machine
end

