-- ==== Sys2Proof/Machine/Copies.lean ====
section
/-! DEFINITION. Streamer copies, opcodes 0xAC to 0xAE: their issue (R412 to R414, R417) and what the streamer does with them (R227, R415 to R419). -/
namespace Sys2Proof.Machine

/-! ### Issue -/

/-- The element formats of CPYRED (R413). -/
def redFmt (f : Nat) : Option Fmt :=
  if f = 0 ∨ f = 3 ∨ f = 9 ∨ f = 10 ∨ f = 13 ∨ f = 14 then Fmt.ofCode (BitVec.ofNat 4 f) else none

/-- The control scalar of a copy (R413). -/
structure CopyCtl where
  raw : DWord
deriving DecidableEq, Repr

namespace CopyCtl
def fmt (c : CopyCtl) : Nat := bitsOf c.raw.toNat 24 4
def rel (c : CopyCtl) : Bool := c.raw.getLsbD 23
def acq (c : CopyCtl) : Bool := c.raw.getLsbD 22
def bar (c : CopyCtl) : Option Nat := if c.raw.getLsbD 21 then some (bitsOf c.raw.toNat 16 5) else none
def tok (c : CopyCtl) : Option (Nat × Nat) := if c.raw.getLsbD 14 then some (bitsOf c.raw.toNat 8 6, bitsOf c.raw.toNat 0 8) else none
def reserved (c : CopyCtl) : Bool := decide (2 ^ 28 ≤ c.raw.toNat) || c.raw.getLsbD 15
end CopyCtl

/-- Steps 1 to 3 of R396 for one end of a copy (R414): the stack aperture has no place in a copy, and CPYX fills scratch alone (R417). -/
def State.copyEndCause (s : State) (t : Team) (a : DWord) (size len : Nat) (scratchOnly : Bool) : Nat :=
  let ap := apertureOf a
  if ap = .stack ∨ (scratchOnly = true ∧ ap ≠ .scratch) then laneApert
  else match s.ctx? t.ctx with
    | none => laneApert
    | some c =>
      let k := addrCause c t a size false
      if k ≠ 0 then k
      else if ap = .scratch ∧ t.units * 32768 < bitsOf a.toNat 0 20 + len then laneRange
      else 0

/-- The team whose token and barrier a copy names: for CPYX that of the destination member (R417). -/
def State.copyTeam (s : State) (t : Team) (dst : DWord) (x : Bool) : Team :=
  if x then (s.member? t.bent (bitsOf dst.toNat 20 4)).getD t else t

/-- CPY, CPYRED and CPYX as they issue (R412 to R417): the streamer accepts the copy, and the strand goes on. -/
def copyOp (x : Enc) (red fill : Bool) (s : State) : Out :=
  s.issue x fun s i =>
    let dst := i.scalar x.d
    let src := i.scalar x.a
    let len := (i.scalar x.b).toNat
    let ctl : CopyCtl := ⟨i.scalar x.c⟩
    let size := if red then (match redFmt ctl.fmt with
      | some f => f.bits / 8
      | none => 1) else 1
    let fail (s : State) (c : Nat) (a : DWord) : Res Unit := match laneTrap i.st.mask (fun _ => c) (fun _ => a) with
      | some t => .trap s t
      | none => .trap s { cause := laneCauseCode c }
    let cs := s.copyEndCause i.t src size len false
    let cd := s.copyEndCause i.t dst size len fill
    if i.g.gidx ≠ 0 ∨ !i.t.streamer then .trap s { cause := 0x10#8 }
    else if ctl.reserved ∨ (if red then (redFmt ctl.fmt).isNone else ctl.fmt ≠ 0) then .trap s (illenc x.c.toNat)
    else if 2 ^ 31 < len then .trap s (illenc x.b.toNat)
    else if len % size ≠ 0 then fail s laneAlign src
    else if cs ≠ 0 then fail s cs src
    else if cd ≠ 0 then fail s cd dst
    else
      let dt := s.copyTeam i.t dst fill
      let accept (s : State) : Res Unit :=
        let (s, num) := s.fresh
        let acqw : Option AcqWait := if ctl.acq then some ⟨i.r.g, i.r.num, i.g.newRelease i.scope i.active true none⟩ else none
        let op := if red then (redFmt ctl.fmt).map fun f => (x.sub, f) else none
        let c : Copy := ⟨num, i.t.ctx, i.t.vteam, dt.vteam, src, dst, len, op, i.scope, ctl.rel, acqw, ctl.bar, ctl.tok, false, false, [], 0, 0, none, []⟩
        (s.modCore i.t.core fun k => { k with copies := k.copies ++ [c] }).done i id
      match ctl.bar with
      | none => if 16 ≤ (s.core i.t.core).copies.length then .hold s 0 else accept s
      | some num =>
        match s.barOwner dt num with
        | none => .trap s (barMisuse num)
        | some o => (s.findBar o num i.st.spilled).bind fun s e =>
          match e with
          | none => .trap s (barMisuse num)
          | some e =>
            if 16 ≤ (s.core i.t.core).copies.length ∨ 255 ≤ e.agents then .hold s 0
            else accept (s.modBar ((s.anyTeam? o.ctx o.vteam).getD o) num fun e => { e with agents := e.agents + 1 })

/-- CPY (R415). -/
def execCpy (x : XForm) (s : State) : Out := copyOp (x.enc 0xAC) false false s
/-- CPYRED (R416). -/
def execCpyred (x : XForm) (s : State) : Out := copyOp (x.enc 0xAD) true false s
/-- CPYX (R417). -/
def execCpyx (x : XForm) (s : State) : Out := copyOp (x.enc 0xAE) false true s

/-! ### The streamer -/

/-- The pieces of a copy: offset and length, none of which crosses a 128-byte line at either end (R415). -/
def copyPieces (src dst len : Nat) : Nat → Nat → List (Nat × Nat)
  | 0, _ => []
  | fuel + 1, ofs =>
    if len ≤ ofs then []
    else
      let n := min (len - ofs) (min (128 - (src + ofs) % 128) (128 - (dst + ofs) % 128))
      (ofs, n) :: copyPieces src dst len fuel (ofs + n)

def Copy.pieces (c : Copy) : List (Nat × Nat) := copyPieces c.src.toNat c.dst.toNat c.len c.len 0

/-- Where one end of a piece lies for the streamer. -/
inductive CopyEnd where
  | phys (va pa : Nat)
  | peer (dev : BitVec 10) (va pa : Nat)
  | scratch (member offset : Nat)
  | fail (page : Nat) (nonres : Bool)
  | hold
  | abort (x : Spot)
deriving DecidableEq, Repr

/-- Who the streamer of a core is when it translates for a context. -/
def Copy.who (c : Copy) (core : Nat) (s : State) : Who :=
  ⟨c.ctx, some core, none, ((s.anyTeam? c.ctx c.vteam).bind fun t => s.bent? t.bent).map (·.record)⟩

/-- One end of a piece, translated (R418): past the end of the global window no page is mapped. -/
def State.copyEnd (s : State) (core : Nat) (c : Copy) (a : DWord) (need : Need) : State × CopyEnd :=
  if apertureOf a = .scratch then (s, .scratch (bitsOf a.toNat 20 4) (bitsOf a.toNat 0 20))
  else if apertureOf a ≠ .global then (s, .fail (a.toNat / 65536) false)
  else
    let va := a.toNat % 2 ^ 57
    match s.place (c.who core s) va need with
    | (s, .here pa _) => (s, .phys va pa)
    | (s, .peer d pa) => (s, .peer d va pa)
    | (s, .prot) => (s, .fail (va / 65536) false)
    | (s, .nonres) => (s, .fail (va / 65536) true)
    | (s, .hold) => (s, .hold)
    | (s, .abort x) => (s, .abort x)

/-- The failing page that stands: the lowest, and at one page the lower code (R418). -/
def worseFail (a : Option (Nat × Nat)) (page code : Nat) : Option (Nat × Nat) :=
  match a with
  | none => some (page, code)
  | some (p, c) => if page < p ∨ (page = p ∧ code < c) then some (page, code) else some (p, c)

def State.modCopy (s : State) (core id : Nat) (f : Copy → Copy) : State :=
  s.modCore core fun k => { k with copies := lmod k.copies (·.id = id) f }

/-- A copy whose team consumes uncorrectable data ends with it (R286, R418). -/
def State.abortCopy (s : State) (c : Copy) (core : Nat) (x : Spot) : State :=
  (s.abortTeam c.ctx c.vteam x).modCore core fun k => { k with copies := k.copies.filter (·.id ≠ c.id) }

/-- The member team of a bent that a scratch end names. -/
def State.copyMember (s : State) (c : Copy) (m : Nat) : Option Team :=
  (s.anyTeam? c.ctx c.vteam).bind fun t => s.member? t.bent m

/-- The code of an ATOMIC request for an integer CPYRED element (R51, R416). -/
def redAop (op : Nat) (f : Fmt) : Option Nat :=
  match op, f with
  | 0, .i32 | 0, .n32 | 0, .i64 | 0, .n64 => some 0
  | 1, .i32 | 1, .i64 => some 1
  | 2, .i32 | 2, .i64 => some 2
  | _, _ => none

/-- A piece that must wait, for a frame, a move, a tag or an entry of its core (R26, R194, R203, R208). -/
def State.waitPiece (s : State) (core id ofs n : Nat) : State := s.modCopy core id fun c => { c with rest := c.rest ++ [(ofs, n)] }

/-- One request of a copy sent to a peer: it is awaited, its piece waits, or the copy fails at its page with a code. -/
def State.sendPiece (s : State) (core : Nat) (c : Copy) (d : BitVec 10) (t : Txn) (ofs n va code : Nat) (write : Bool) (left : Nat) : State :=
  match s.request d t (.copy core c.id ofs n write) with
  | .sent s => (s.sample core c.ctx va (if write then 5 else 4)).modCopy core c.id fun c => { c with out := c.out + 1 }
  | .full => s.waitPiece core c.id ofs left
  | .noPort => s.modCopy core c.id fun c => { c with fail := worseFail c.fail (va / 65536) code }

/-- Whether the last piece that a copy had waits at its end. -/
def State.pieceWaits (s : State) (core id ofs : Nat) : Bool :=
  (s.core core).copies.any fun c => c.id = id && c.rest.any (·.1 = ofs)

/-- The elements of a CPYRED piece sent to a peer, one atomic for each, until one must wait (R416). -/
def State.sendElems (s : State) (core : Nat) (c : Copy) (d : BitVec 10) (va pa a w ofs : Nat) : List Nat → List Byte → State
  | [], _ => s
  | k :: r, new =>
    let s := s.sendPiece core c d (atomicTxn c.ctx (pa + w * k) a w (leNat (new.take w)) 0) (ofs + w * k) w va 2 true new.length
    if s.pieceWaits core c.id (ofs + w * k) then s else s.sendElems core c d va pa a w ofs r (new.drop w)

/-- Bytes of a copy applied at their home (R198, R212, R213, R228, R230). -/
def State.copyHome (s : State) (core : Nat) (c : Copy) (va pa : Nat) (new : List Byte) : State :=
  let k := match s.anyTeam? c.ctx c.vteam with
    | some t => s.l1Core t pa
    | none => core
  let bytes := redBytes c.op (memRead s.mem pa new.length) new
  let s := s.sampleMiss k c.ctx pa va 5
  if s.held pa then
    let s := if c.op.isSome then s.dropL1 k pa else s.updateL1 k pa bytes 1
    State.modCopy { s with heldWrites := s.heldWrites ++ [⟨pa, new, c.op⟩] } core c.id fun c => { c with held := pa :: c.held }
  else
    let s := if c.op.isSome then s.dropL1 k pa else s.updateL1 k pa bytes 1
    let (s, wt) := s.writeHome (c.who core s) (some k) pa va bytes 1
    s.modCopy core c.id fun c => { c with wmax := max c.wmax wt }

/-- Bytes written at a destination: a piece to a peer leaves as a request, and for CPYRED as one atomic for each element. -/
def State.copyWrite (s : State) (core : Nat) (c : Copy) (ofs : Nat) (e : CopyEnd) (new : List Byte) : State :=
  match e with
  | .phys va pa =>
    if pa < 65536 then s.physWrite pa (redBytes c.op (s.physBytes pa new.length) new)
    else if s.badWrite pa new.length ∨ (c.op.isSome ∧ s.bad pa new.length) then s.abortCopy c core (s.spot pa new.length)
    else s.copyHome core c va pa new
  | .scratch m o =>
    match s.copyMember c m with
    | none => s
    | some u =>
      if c.op.isSome ∧ u.badScratch o new.length then s.abortCopy c core (scratchSpot u.core)
      else s.modTeam u.ctx u.vteam (·.putScratch o (redBytes c.op (memRead u.scratch o new.length) new) true)
  | .peer d va pa =>
    match c.op with
    | none => s.sendPiece core c d (writeTxn c.ctx pa new) ofs new.length va 2 true new.length
    | some (op, f) =>
      match redAop op f with
      | none => s.modCopy core c.id fun c => { c with fail := worseFail c.fail (va / 65536) 2 }
      | some a => s.sendElems core c d va pa a (f.bits / 8) ofs (List.range (new.length / (f.bits / 8))) new
  | .fail page nonres => s.modCopy core c.id fun c => { c with fail := worseFail c.fail page (if nonres then 4 else 2) }
  | .hold => s.waitPiece core c.id ofs new.length
  | .abort x => s.abortCopy c core x

/-- One piece of a copy: read, then written; a piece that touches a failing page is skipped (R415, R418), and one that must wait waits. -/
def State.copyPiece (s : State) (core : Nat) (c : Copy) (p : Nat × Nat) : State :=
  let (ofs, n) := p
  let (s, e1) := s.copyEnd core c (c.src + BitVec.ofNat 64 ofs) .read
  let (s, e2) := s.copyEnd core c (c.dst + BitVec.ofNat 64 ofs) (if c.op.isSome then .both else .write)
  let failS (s : State) (page : Nat) (nonres : Bool) : State :=
    s.modCopy core c.id fun c => { c with fail := worseFail c.fail page (if nonres then 3 else 1) }
  match e1, e2 with
  | .fail p1 n1, .fail p2 n2 => (failS s p1 n1).copyWrite core c ofs (.fail p2 n2) []
  | .fail p1 n1, _ => failS s p1 n1
  | _, .fail p2 n2 => s.copyWrite core c ofs (.fail p2 n2) []
  | .abort x, _ | _, .abort x => s.abortCopy c core x
  | .hold, _ | _, .hold => s.waitPiece core c.id ofs n
  | .phys va pa, e2 =>
    if pa < 65536 then s.copyWrite core c ofs e2 (s.physBytes pa n)
    else if s.bad pa n then s.abortCopy c core (s.spot pa n)
    else
      let s := s.sampleMiss core c.ctx pa va 4
      (if s.held pa then s else s.useL2 (c.who core s) pa va 1).copyWrite core c ofs e2 (memRead s.mem pa n)
  | .scratch m o, e2 =>
    match s.copyMember c m with
    | none => s
    | some u => if u.badScratch o n then s.abortCopy c core (scratchSpot u.core) else s.copyWrite core c ofs e2 (memRead u.scratch o n)
  | .peer d va pa, _ => s.sendPiece core c d (readTxn c.ctx pa n) ofs n va 1 false n

/-- The status word of a copy (R418). -/
def Copy.status (c : Copy) : DWord :=
  match c.fail with
  | none => 0x4000#64
  | some (page, code) => BitVec.ofNat 64 (page % 2 ^ 41 * 2 ^ 23 + 0x4000 + code)

/-- Whether the release of a copy has passed (R217, R227). -/
def State.copyReleased (s : State) (core : Nat) (c : Copy) : Bool :=
  let fused := match s.anyTeam? c.ctx c.vteam with
    | some t => t.fused
    | none => false
  !c.rel || !(scopeNeeds c.scope fused).2 || decide (c.wmax ≤ s.timeOf (dieOfCore core))

/-- The end of a copy: the status word and the arrival, then the token (R415, R417); nothing of these for an orphan (R419). -/
def State.finishCopy (s : State) (core : Nat) (c : Copy) : State :=
  let s := s.modCore core fun k => { k with copies := k.copies.filter (·.id ≠ c.id) }
  if c.orphan then s
  else
    let s := match c.bar, s.anyTeam? c.ctx c.dteam with
      | some num, some t => match s.barOwner t num with
        | some o => s.agentArrive o num (some c.status)
        | none => s
      | _, _ => s
    match c.tok with
    | some (tok, amt) => s.addToken c.ctx c.dteam tok (BitVec.ofNat 32 amt)
    | none => s

/-- The pieces of a copy tried in turn; those that must wait stay. -/
def State.runCopy (s : State) (core : Nat) (c : Copy) : State :=
  c.rest.foldl (fun s p => if (s.core core).copies.any (·.id = c.id) then s.copyPiece core c p else s)
    (s.modCopy core c.id fun c => { c with moved := true, rest := [] })

/-- One move of a copy: it starts once its acquire is met, performs its lines, and ends once its peers have answered and its release has passed (R227, R415). -/
def State.stepCopy (s : State) (core id : Nat) : State :=
  match (s.core core).copies.find? (·.id = id) with
  | none => s
  | some c =>
    if !c.moved then if s.acquireWaits c.acqw then s else s.runCopy core { c with rest := c.pieces }
    else if !c.rest.isEmpty then s.runCopy core c
    else if c.out ≠ 0 ∨ c.held.any s.held ∨ !s.copyReleased core c then s
    else s.finishCopy core c

end Sys2Proof.Machine
end

