-- ==== Sys2Proof/Machine/SysCopies.lean ====
section
/-! DEFINITION. The system streamer, which performs copy packets (R64): its pieces, its reads and writes, and its end. -/
namespace Sys2Proof.Machine

/-- The system streamer of a die as it translates (R466). -/
def SysCopy.who (c : SysCopy) : Who := ⟨c.ctx, none, some c.die, none⟩

def State.sysCopy? (s : State) (id : Nat) : Option SysCopy := s.sysCopies.find? (·.id = id)
def State.modSys (s : State) (id : Nat) (f : SysCopy → SysCopy) : State := { s with sysCopies := lmod s.sysCopies (·.id = id) f }

/-- A fault or an uncorrectable error ends the copy (R64). -/
def State.failSys (s : State) (id : Nat) : State := s.modSys id fun c => { c with failed := true }

/-- The pieces of a copy: none crosses a line at either end. -/
def SysCopy.pieces (c : SysCopy) : List (Nat × Nat) := copyPieces c.src c.dst c.len c.len 0

/-- The place of an address of a system copy. -/
def State.sysPlace (s : State) (c : SysCopy) (va : Nat) (need : Need) : State × Place :=
  if c.ctx ≠ 0 ∧ 2 ^ 57 ≤ va then (s, .prot) else s.place c.who va need

/-- A piece that must wait, for a frame, a move or a tag (R26, R194, R208). -/
def State.waitSys (s : State) (id ofs n : Nat) : State := s.modSys id fun c => { c with rest := c.rest ++ [(ofs, n)] }

/-- A request of a piece sent to a device: its answer is awaited. -/
def State.sysSend (s : State) (c : SysCopy) (dev : BitVec 10) (t : Txn) (ofs n : Nat) (write : Bool) : State :=
  match s.request dev t (.sysCopy c.id ofs n write) with
  | .sent s => s.modSys c.id fun c => { c with out := c.out + 1 }
  | .full => s.waitSys c.id ofs n
  | .noPort => s.failSys c.id

/-- Bytes of a piece written at the destination. -/
def State.sysWrite (s : State) (id ofs : Nat) (bytes : List Byte) : State :=
  match s.sysCopy? id with
  | none => s
  | some c =>
    let va := c.dst + ofs
    match c.remote with
    | some dev => if 2 ^ 48 < va + bytes.length then s.failSys id else s.sysSend c dev (writeTxn c.ctx va bytes) ofs bytes.length true
    | none =>
      match s.sysPlace c va .write with
      | (s, .here pa _) =>
        if pa < 65536 then s.physWrite pa bytes
        else if s.badWrite pa bytes.length then (s.consumed c.ctx pa bytes.length).failSys id
        else
          let (s, wt) := s.writeHome c.who none pa va bytes 1
          s.modSys id fun c => { c with wmax := max c.wmax wt, held := if s.held pa then pa :: c.held else c.held }
      | (s, .peer d pa) => s.sysSend c d (writeTxn c.ctx pa bytes) ofs bytes.length true
      | (s, .hold) => s.waitSys id ofs bytes.length
      | (s, .abort x) => (s.lose c.ctx x).failSys id
      | (s, _) => s.failSys id

/-- One piece moved, unless the copy has ended. -/
def State.sysPiece (s : State) (id : Nat) (p : Nat × Nat) : State :=
  match s.sysCopy? id with
  | none => s
  | some c =>
    if c.failed then s
    else
      let va := c.src + p.1
      match s.sysPlace c va .read with
      | (s, .here pa _) =>
        if pa < 65536 then s.sysWrite id p.1 (s.physBytes pa p.2)
        else if s.bad pa p.2 then (s.consumed c.ctx pa p.2).failSys id
        else (if s.held pa then s else s.useL2 c.who pa va 1).sysWrite id p.1 (memRead s.mem pa p.2)
      | (s, .peer d pa) => s.sysSend c d (readTxn c.ctx pa p.2) p.1 p.2 false
      | (s, .hold) => s.waitSys id p.1 p.2
      | (s, .abort x) => (s.lose c.ctx x).failSys id
      | (s, _) => s.failSys id

/-- A piece answered by a device (R53, R64). -/
def State.answerSys (s : State) (id ofs len : Nat) (write : Bool) (status : Nat) (data : List Byte) : State :=
  let s := s.modSys id fun c => { c with out := c.out - 1 }
  if status ≠ 0 then s.failSys id
  else if write then s
  else s.sysWrite id ofs (data.take len)

/-- The pieces of a system copy tried in turn; those that must wait stay. -/
def State.runSys (s : State) (c : SysCopy) : State :=
  c.rest.foldl (fun s p => s.sysPiece c.id p) (s.modSys c.id fun c => { c with moved := true, rest := [] })

/-- One move of a system copy: its pieces, then, once devices have answered, its end (R57, R64). -/
def State.stepSys (s : State) (id : Nat) : State :=
  match s.sysCopy? id with
  | none => s
  | some c =>
    if !c.moved then s.runSys { c with rest := c.pieces }
    else if !c.rest.isEmpty then s.runSys c
    else if c.out ≠ 0 ∨ c.held.any s.held then s
    else State.endWork { s with sysCopies := s.sysCopies.filter (·.id ≠ id) } c.work (if c.failed then 6#8 else 0#8) c.wmax

end Sys2Proof.Machine
end

