-- ==== Sys2Proof/Machine/Packets.lean ====
section
/-! DEFINITION. The packet processor (R45, R46, R56 to R66): packets of a queue read, checked and consumed, launch records and code bindings (R60 to R62, R85, R87), task graphs (R115 to R118), and completion signals (R57). A packet's meaning takes its queue from operands ctx and q; one that must wait is taken up again by a later step. -/
namespace Sys2Proof.Machine

/-- The 128 bytes of a packet (R56). -/
structure Pkt where
  raw : List Byte
deriving DecidableEq, Repr

namespace Pkt
def num (p : Pkt) (lo n : Nat) : Nat := leNat ((p.raw.drop lo).take n)
def zero (p : Pkt) (lo n : Nat) : Bool := p.num lo n = 0
def typ (p : Pkt) : Nat := p.num 0 1
def order (p : Pkt) : Bool := (p.num 0 8).testBit 8
def acq (p : Pkt) : Nat := bitsOf (p.num 0 8) 9 2
def rel (p : Pkt) : Nat := bitsOf (p.num 0 8) 11 2
def prio (p : Pkt) : Nat := bitsOf (p.num 0 8) 13 2
def sigaddr (p : Pkt) : Nat := p.num 8 8
def sigval (p : Pkt) : DWord := BitVec.ofNat 64 (p.num 16 8)

/-- The header's fields (R56, R58); a device-side packet's PRIO is cut to CPRIO instead (R69). -/
def headerOk (p : Pkt) (c : Ctx) (device : Bool) : Bool :=
  decide (p.num 0 8 < 2 ^ 15) && p.acq ≠ 3 && p.rel ≠ 3 && (device || decide (p.prio ≤ (if c.num = 0 then 3 else c.cprio))) && p.sigaddr % 8 = 0
end Pkt

/-- Packet status codes of R56. -/
def psOk : BitVec 8 := 0
def psBadtype : BitVec 8 := 2
def psBadfield : BitVec 8 := 3
def psNofit : BitVec 8 := 4
def psBadcode : BitVec 8 := 5
def psFault : BitVec 8 := 6
def psNoteam : BitVec 8 := 7
def psBadctx : BitVec 8 := 10

/-- The packet processor of a context as it translates (R466). -/
def queueWho (c : Ctx) : Who := ⟨c.num, none, none, none⟩

/-- A packet that fails a check: it is not consumed (R55, R56). -/
def State.failPacket (s : State) (c : Ctx) (q : Nat) (code : BitVec 8) : State :=
  match s.ctx? c.num with
  | none => s
  | some c =>
    let x := s.queueNow c q
    s.putQueue c q { x.fail code false x.progress with parents := x.parents.filter (·.1 ≠ x.progress) }

/-- Whether a queue's type rules admit a packet type (R56). -/
def typeAllowed (c : Ctx) (x : Queue) (t : Nat) : Bool := if x.kind = 1 then t = 1 else decide (1 ≤ t ∧ t ≤ 6) || (t = 7 && c.num = 0)

/-- Whether work of earlier packets of a queue has not completed (R46). -/
def State.queueBusy (s : State) (c : Ctx) (q : Nat) : Bool := s.works.any fun w => w.ctx = c.num && w.q.toNat = q

/-- Whether a queue has a packet to process: mapped, not in the error state, and not empty (R43, R46, R55). -/
def Queue.due (x : Queue) : Bool := x.slot.isSome && !x.error && x.fill ≠ 0

/-- A packet of a type read and checked as far as every packet is (R46, R56): FAULT of its own read and of what it names, whose reading the meaning of its type gives, then BADTYPE and the BADFIELD of its header; the meaning goes on. -/
def State.packetNaming (before : State) (mine : Nat → Bool) (reads : State → Ctx → Pkt → Res Bool) (f : State → Ctx → Nat → Queue → Pkt → State) : Out :=
  let s := before
  match s.ctx? s.operand.ctx with
  | none => .next s
  | some c =>
    let q := s.operand.q.toNat
    let x := s.queueNow c q
    if !x.due || x.wait.isSome || s.root.phase ≠ .running then .next s
    else match s.readSpan (queueWho c) (x.slotAddr x.progress) 128 .read with
      | .ok s g =>
        let s := s.dropStage 0
        match g with
        | .bytes b =>
          let p : Pkt := ⟨b⟩
          if !mine p.typ then .next before
          else match reads s c p with
            | .ok s readable =>
              if !readable then .next (s.failPacket c q psFault)
              else if !typeAllowed c x p.typ then .next (s.failPacket c q psBadtype)
              else if !p.headerOk c (x.kind = 1) then .next (s.failPacket c q psBadfield)
              else if p.order && s.queueBusy c q then .next before
              else .next (f s c q x p)
            | .hold s _ | .trap s _ | .gone s _ => .next s
        | .bad x => .next ((s.lose c.num x).failPacket c q psFault)
        | _ => .next (s.failPacket c q psFault)
      | .hold s _ | .trap s _ | .gone s _ => .next s

/-- A packet that names nothing else to be read. -/
def State.packet (before : State) (mine : Nat → Bool) (f : State → Ctx → Nat → Queue → Pkt → State) : Out := before.packetNaming mine (fun s _ _ => .ok s true) f

/-- A packet consumed (R45): the queue moves on, and its work stands until its signal. The number of the work. -/
def State.consume (s : State) (c : Ctx) (q : Nat) (p : Pkt) (kind : WorkKind) : State × Nat :=
  let (s, id) := s.fresh
  match s.ctx? c.num with
  | none => (s, id)
  | some c =>
    let x := s.queueNow c q
    let w : Work := ⟨id, c.num, BitVec.ofNat 4 q, x.progress, kind, p.sigaddr, p.sigval, p.rel, false, 0, 0, false, .todo⟩
    let s := s.putQueue c q { x with progress := x.progress + 1, wait := none, parents := x.parents.filter (·.1 ≠ x.progress) }
    ({ s with works := s.works ++ [w] }, id)

/-- A packet whose work is over as it is consumed. -/
def State.consumeDone (s : State) (c : Ctx) (q : Nat) (p : Pkt) (kind : WorkKind) : State :=
  let (s, id) := s.consume c q p kind
  s.endWork id 0 0

/-! ### Launches (R59 to R62, R85, R87) -/

/-- A role field of a launch packet. -/
def Pkt.role (p : Pkt) (k : Nat) : Role := ⟨p.num (44 + 4 * k) 1, 8 * p.num (45 + 4 * k) 1, (p.num (46 + 4 * k) 1).testBit 0⟩

def Pkt.roleOk (p : Pkt) (k : Nat) : Bool :=
  if k < p.num 42 1 then
    let r := p.role k
    decide (r.groups ≤ 192 ∧ 8 ≤ r.vregs ∧ r.vregs ≤ 256) && decide (p.num (46 + 4 * k) 1 < 2) && p.zero (47 + 4 * k) 1 && (r.spawn || decide (1 ≤ r.groups))
  else p.zero (44 + 4 * k) 4

/-- The fields of a launch packet in range (R59). -/
def Pkt.launchOk (p : Pkt) : Bool :=
  p.num 24 8 % 4 = 0 && p.num 32 2 ≠ 0 && p.num 34 2 ≠ 0 && p.num 36 2 ≠ 0
    && decide (1 ≤ p.num 38 1 ∧ p.num 38 1 ≤ 8 ∧ 1 ≤ p.num 39 1 ∧ p.num 39 1 ≤ 8 ∧ p.num 38 1 * p.num 39 1 ≤ 12)
    && decide (p.num 40 1 ≤ 14) && decide (p.num 41 1 < 64) && decide (1 ≤ p.num 42 1 ∧ p.num 42 1 ≤ 4) && p.zero 43 1 && p.zero 60 4
    && (List.range 4).all p.roleOk && (List.range 8).all fun k => !(p.num (64 + 8 * k) 8).testBit 1

/-- The code-table entry that a launch binds to (R85); none where it gives BADCODE. NOTE of the Z9 is 0x30. -/
def Ctx.bind? (c : Ctx) (entry : Nat) (legacy : Bool) : Option (Nat × CodeEntry) :=
  match (List.range 48).find? fun k => let e := c.code.getD k .empty; decide (e.base ≠ 0 ∧ e.base ≤ entry ∧ entry < e.base + e.size) with
  | none => none
  | some k =>
    let e := c.code.getD k .empty
    if 0x30 < e.note.toNat ∨ (e.note.toNat / 16 < 3 ∧ legacy = false) then none else some (k, e)

/-- The checks of a launch packet after its header (R56, R60): BADFIELD, NOFIT, BADCODE, or 0. -/
def State.launchCheck (s : State) (ctx : BitVec 8) (p : Pkt) : BitVec 8 :=
  let rs := (List.range (p.num 42 1)).map p.role
  match s.ctx? ctx with
  | none => psBadctx
  | some c =>
    if !p.launchOk then psBadfield
    else if !fitsEmpty rs (p.num 40 1) ((p.num 41 1).testBit 3) then psNofit
    else if (c.bind? (p.num 24 8) ((p.num 41 1).testBit 2)).isNone then psBadcode
    else 0

/-- The launch record's bytes (R62). -/
def recordBytes (p : Pkt) (k : Nat) (e : CodeEntry) (grid : Nat) : List Byte :=
  p.raw ++ leBytes e.base 8 ++ leBytes e.size 4 ++ leBytes e.ver.toNat 2 ++ leBytes k 1 ++ [0] ++ leBytes grid 8 ++ leBytes 0 8 ++ leBytes 0 24
    ++ leBytes 0 8 ++ leBytes 0 8 ++ leBytes (p.num 32 2 * p.num 34 2 * p.num 36 2) 8 ++ List.replicate 304 0

/-- A grid dispatched (R61, R85, R87, R114): its code is bound and its record written. none while no slot is free or nothing binds. -/
def State.startGrid (s : State) (ctx : BitVec 8) (p : Pkt) (origin : Origin) (parent : Option (BitVec 16)) : Option State :=
  match s.ctx? ctx, s.freeSlot with
  | some c, some a =>
    match c.bind? (p.num 24 8) ((p.num 41 1).testBit 2) with
    | none => none
    | some (k, e) =>
      let e' := { e with live := e.live + 1 }
      let s := (s.modCtx ctx fun c => { c with code := vmod c.code k fun _ => e' }).writeLive c.desc k e'
      let s := s.sto a (recordBytes p k e s.gridCount)
      let g : Grid := ⟨a, ctx, min p.prio (if ctx = 0 then 3 else c.cprio), origin, parent, 0, [], [], false, false⟩
      let s := { s with grids := s.grids ++ [g], gridCount := s.gridCount + 1 }
      some (match parent with
        | none => s
        | some v => s.modAnyTeam ctx v fun t => { t with children := t.children ++ [a] })
  | _, _ => none

/-- LAUNCH_PACKET (R59 to R62, R69, R85): the context's SWAP bits are examined first (R87). -/
def execLaunchPacket (s : State) : Out :=
  s.packet (· = 1) fun s c q x p =>
    let s := s.swapAll c.num
    let code := s.launchCheck c.num p
    if code ≠ 0 then s.failPacket c q code
    else if s.freeSlot.isNone then s
    else
      let parent := (x.parents.find? (·.1 = x.progress)).map (·.2)
      let (s, id) := s.consume c q p .launch
      (s.startGrid c.num p (.queue id) parent).getD s

/-! ### Task graphs (R115 to R118) -/

/-- The bytes of a node. -/
structure NodeDesc where
  raw : List Byte
deriving DecidableEq, Repr

namespace NodeDesc
def num (d : NodeDesc) (lo n : Nat) : Nat := leNat ((d.raw.drop lo).take n)
def kind (d : NodeDesc) : Nat := d.num 0 1
def acq (d : NodeDesc) : Nat := bitsOf (d.num 1 1) 0 2
def rel (d : NodeDesc) : Nat := bitsOf (d.num 1 1) 2 2
def npred (d : NodeDesc) : Nat := d.num 2 2
def body (d : NodeDesc) : Nat := d.num 8 8
def nsucc (d : NodeDesc) : Nat := d.num 16 2
def succ (d : NodeDesc) : List Nat := (List.range d.nsucc).map fun k => d.num (18 + 2 * k) 2

/-- The node's own fields in range (R115, R116). -/
def ok (d : NodeDesc) (nodes : Nat) : Bool :=
  decide (d.kind ≤ 2) && decide (d.num 1 1 < 16) && d.acq ≠ 3 && d.rel ≠ 3 && decide (d.npred ≤ 4095) && d.num 4 4 = 0
    && (if d.kind = 2 then d.body = 0 else d.body % 128 = 0) && decide (d.nsucc ≤ 12) && (d.succ.all fun k => decide (k < nodes))
    && ((List.range 12).all fun k => decide (d.num (18 + 2 * k) 2 < 4096)) && d.num 42 6 = 0 && d.num 56 8 = 0
end NodeDesc

/-- What reading for the packet processor comes to. -/
inductive Fetched (α : Type) where
  | ok (a : α)
  | fail (code : BitVec 8)
deriving DecidableEq, Repr

/-- A span that the packet processor reads; what cannot be read is FAULT (R56). -/
def State.fetchSpan (s : State) (c : Ctx) (a n : Nat) : Res (Fetched (List Byte)) :=
  (s.readSpan (queueWho c) a n .read).bind fun s g => match g with
    | .bytes b => .ok s (.ok b)
    | .bad x => .ok (s.lose c.num x) (.fail psFault)
    | _ => .ok s (.fail psFault)

/-- Every node of a graph with its body, as read (R116): a failed read decides (R56). -/
def State.fetchNodes (s : State) (c : Ctx) (graph n : Nat) : Res (Fetched (List (NodeDesc × Pkt))) :=
  (List.range n).foldl (fun (r : Res (Fetched (List (NodeDesc × Pkt)))) k => r.bind fun s acc => match acc with
    | .fail e => .ok s (.fail e)
    | .ok l => (s.fetchSpan c (graph + 64 * k) 64).bind fun s b => match b with
      | .fail e => .ok s (.fail e)
      | .ok raw =>
        let d : NodeDesc := ⟨raw⟩
        if d.kind ≤ 1 ∧ d.body % 128 = 0 then
          (s.fetchSpan c d.body 128).bind fun s b => match b with
            | .fail e => .ok s (.fail e)
            | .ok body => .ok s (.ok (l ++ [(d, ⟨body⟩)]))
        else .ok s (.ok (l ++ [(d, ⟨[]⟩)]))) (.ok s (.ok []))

/-- The edges into a node. -/
def edgesInto (ds : List NodeDesc) (k : Nat) : Nat := ds.foldl (fun (n : Nat) (d : NodeDesc) => n + (d.succ.filter (· = k)).length) 0

/-- Nodes that some node of a set precedes. -/
def reachable (ds : List NodeDesc) : Nat → List Nat → List Nat
  | 0, s => s
  | n + 1, s => reachable ds n ((s ++ s.flatMap fun k => (ds.getD k ⟨[]⟩).succ).eraseDups)

/-- Whether the edges contain a cycle (R116): some node is reached from its own successors. -/
def cyclic (ds : List NodeDesc) : Bool := (List.range ds.length).any fun k => (reachable ds ds.length (ds.getD k ⟨[]⟩).succ).contains k

/-- The header rules of a body packet (R115). -/
def bodyHeaderOk (c : Ctx) (kind : Nat) (p : Pkt) : Bool :=
  p.typ = (if kind = 0 then 1 else 3) && !p.order && p.acq = 0 && p.rel = 0 && p.headerOk c false

/-- The checks of a body (R116, R434): 0, or the code of its failure. -/
def State.bodyCheck (s : State) (c : Ctx) (kind : Nat) (p : Pkt) : Res (BitVec 8) :=
  if kind = 2 then .ok s 0
  else if !bodyHeaderOk c kind p then .ok s psBadfield
  else if kind = 0 then .ok s (s.launchCheck c.num p)
  else match s.checkRun (queueWho c) ⟨p.raw⟩ with
    | .ok s (.ok _ _) => .ok s 0
    | .ok s (.fail e) => .ok s e
    | .hold s w => .hold s w
    | .trap s t => .trap s t
    | .gone s x => .ok (s.lose c.num x) psFault

/-- Of two failures the one that R56 puts first: BADFIELD of any body, else that of the earlier body. -/
def worseCode (a b : BitVec 8) : BitVec 8 := if a = psBadfield ∨ (b ≠ psBadfield ∧ a ≠ 0) then a else b

/-- The failure that decides among the bodies (R56). -/
def State.bodiesCheck (s : State) (c : Ctx) (ns : List (NodeDesc × Pkt)) : Res (BitVec 8) :=
  ns.foldl (fun (r : Res (BitVec 8)) (n : NodeDesc × Pkt) => r.bind fun s e => (s.bodyCheck c n.1.kind n.2).bind fun s x => .ok s (worseCode e x)) (.ok s 0)

/-- The nodes of a graph as they stand at its start. -/
def startNodes (ns : List (NodeDesc × Pkt)) : List Node :=
  ns.map fun (d, p) => ⟨d.kind, d.acq, d.rel, d.body, d.succ, d.npred, if d.kind = 2 then 0 else p.sigaddr, p.sigval, false, false, 0, 0, .todo, false⟩

/-- Whether GRAPH and NODES of a task-graph packet name nodes (R63). -/
def Pkt.namesNodes (p : Pkt) : Bool := p.num 24 8 % 64 = 0 && decide (1 ≤ p.num 32 4 ∧ p.num 32 4 ≤ 4096)

/-- Whether the nodes and bodies that a task-graph packet names can be read (R56). -/
def State.graphReads (s : State) (c : Ctx) (p : Pkt) : Res Bool :=
  if !p.namesNodes then .ok s true
  else (s.fetchNodes c (p.num 24 8) (p.num 32 4)).bind fun s r => .ok (s.dropStage 0) (match r with
    | .ok _ => true
    | .fail _ => false)

/-- TASK_GRAPH_PACKET (R56, R63, R115, R116). -/
def execTaskGraphPacket (s : State) : Out :=
  s.packetNaming (· = 2) State.graphReads fun s c q _ p =>
    let graph := p.num 24 8
    let n := p.num 32 4
    if !p.namesNodes || !p.zero 36 92 then s.failPacket c q psBadfield
    else match s.fetchNodes c graph n with
      | .ok s (.fail e) => (s.dropStage 0).failPacket c q e
      | .ok s (.ok ns) =>
        let s := s.dropStage 0
        let ds := ns.map (·.1)
        let good := ds.all (·.ok n) && (ds.zipIdx).all (fun (d, k) => d.npred = edgesInto ds k) && !cyclic ds
        if !good then s.failPacket c q psBadfield
        else match s.bodiesCheck c ns with
          | .ok s e =>
            if e ≠ 0 then s.failPacket c q e
            else
              let (s, id) := s.consume c q p .graph
              let (s, gid) := s.fresh
              { s with graphs := s.graphs ++ [⟨gid, c.num, id, graph, startNodes ns, none⟩] }
          | .hold s _ | .trap s _ | .gone s _ => s
      | .hold s _ | .trap s _ | .gone s _ => s

def State.modGraph (s : State) (id : Nat) (f : Graph → Graph) : State := { s with graphs := lmod s.graphs (·.id = id) f }
def State.modNode (s : State) (id k : Nat) (f : Node → Node) : State := s.modGraph id fun g => { g with nodes := g.nodes.modify k f }

/-- A node that fails as it starts (R118): its body's signal is not performed. -/
def State.failNode (s : State) (id k : Nat) (code : BitVec 8) : State :=
  (s.modNode id k fun n => { n with started := true, sigaddr := 0 }).endNode id k code 0

/-- The body of a node run (R117): read again and checked; it waits while no record slot is free or a stack's queue is full. -/
def State.startBody (s : State) (c : Ctx) (g : Graph) (k : Nat) (n : Node) : State :=
  match s.fetchSpan c n.body 128 with
  | .ok s (.fail e) => (s.dropStage 0).failNode g.id k e
  | .ok s (.ok raw) =>
    let s := s.dropStage 0
    let p : Pkt := ⟨raw⟩
    let s := if n.kind = 0 then s.swapAll c.num else s
    let started (n : Node) : Node := { n with started := true, sigaddr := p.sigaddr, sigval := p.sigval }
    match s.bodyCheck c n.kind p with
    | .ok s e =>
      if e ≠ 0 then s.failNode g.id k e
      else if n.kind = 0 then
        match s.startGrid c.num p (.node g.id k) none with
        | some s => s.modNode g.id k started
        | none => s
      else match s.checkRun (queueWho c) ⟨raw⟩ with
        | .ok s (.ok words pages) =>
          let (s, id) := s.fresh
          let run := mkRun id c.num (.node g.id k) ⟨raw⟩ words pages n.acq n.rel none
          if s.runFull run then s else (s.queueRun run).modNode g.id k started
        | .ok s (.fail e) => s.failNode g.id k e
        | .hold s _ | .trap s _ | .gone s _ => s
    | .hold s _ | .trap s _ | .gone s _ => s
  | .hold s _ | .trap s _ | .gone s _ => s

/-- TASK_NODE_START (R117): operands n and k name graph and node. A failed graph starts no node (R118). -/
def execTaskNodeStart (s : State) : Out :=
  let k := s.operand.k
  match s.graphs.find? (·.id = s.operand.n) with
  | none => .next s
  | some g => match g.nodes[k]?, s.ctx? g.ctx with
    | some n, some c =>
      if n.started ∨ n.left ≠ 0 ∨ g.failed.isSome then .next s
      else if n.kind = 2 then .next ((s.modNode g.id k fun n => { n with started := true }).endNode g.id k 0 0)
      else .next (s.startBody c g k n)
    | _, _ => .next s

/-- Whether a release at a packet's scope has passed (R57, R117). -/
def State.relPassed (s : State) (rel t : Nat) : Bool := rel = 0 || decide (t ≤ s.time)

/-- NSTAT of a node written (R115): the state, or none while the write must wait. DONE is set for a node that failed as well, of which R118 says only that its status is recorded (log 82). -/
def State.writeNstat (s : State) (c : Ctx) (va : Nat) (code : BitVec 8) : Option State :=
  let bytes := leBytes (code.toNat + 256) 8
  match s.writeSlot (queueWho c) va .write with
  | (s, .here pa va) => some (if pa < 65536 then s.physWrite pa bytes else (s.writeHome (queueWho c) none pa va bytes 1).1)
  | (s, .peer d pa) => match s.request d (writeTxn c.num pa bytes) .stray with
    | .sent s => some s
    | .full => none
    | .noPort => some (s.logErr 7 0 4 0 c.num 0 va 0)
  | (s, .unusable) => some (s.logErr 7 0 4 0 c.num 0 va 0)
  | (s, .lost x) => some (s.lose c.num x)
  | (_, .hold) => none

/-- The record of a grid whose signal has been performed is freed (R62). -/
def State.dropGrid (s : State) (o : Origin) : State := { s with grids := s.grids.filter fun g => !(g.origin = o && g.ended) }

/-- A graph that has nothing more to do ends its packet's work (R63, R118). -/
def State.settleGraph (s : State) (id : Nat) : State :=
  match s.graphs.find? (·.id = id) with
  | none => s
  | some g =>
    let allDone := if g.failed.isSome then g.nodes.all fun n => !n.started || n.completed else g.nodes.all (·.completed)
    if !allDone then s
    else
      let t := g.nodes.foldl (fun (m : Nat) (n : Node) => max m n.relTime) 0
      State.endWork { s with graphs := s.graphs.filter (·.id ≠ id) } g.work (g.failed.getD 0) t

/-- A node whose body's signal is over tells its successors and writes NSTAT, and a failed one stops the graph (R117, R118); while NSTAT must wait, the outcome of the signal stands. -/
def State.finishNode (s : State) (c : Ctx) (g : Graph) (k : Nat) (n : Node) (signal : BitVec 8) : State :=
  let o : Origin := .node g.id k
  let code := if n.code = 0 then signal else n.code
  match s.writeNstat c (g.addr + 64 * k + 48) code with
  | none => s.setSig o (if signal = 0 then .done else .failed)
  | some s =>
    let s := s.modNode g.id k fun n => { n with completed := true, code := code }
    let s := if code = 0 then s.modGraph g.id fun g => { g with nodes := n.succ.foldl (fun l j => l.modify j fun m => { m with left := m.left - 1 }) g.nodes }
      else s.modGraph g.id fun g => { g with failed := some (g.failed.getD code) }
    (s.dropGrid o).settleGraph g.id

/-- A node completes once its body's work is over: after its release comes its body's signal (R117, R118). -/
def State.completeNode (s : State) (c : Ctx) (g : Graph) (k : Nat) (n : Node) : State :=
  let o : Origin := .node g.id k
  if s.relPassed n.rel n.relTime = false ∨ s.partsOut o = true then s
  else match n.sig with
    | .out => s
    | .todo => match (s.closeRun o).signalAt (queueWho c) n.sigaddr n.sigval (some o) with
      | (_, .wait) => s
      | (s, .sent) => s.setSig o .out
      | (s, .done) => s.finishNode c g k n psOk
      | (s, .failed) => s.finishNode c g k n psFault
    | .done => s.finishNode c g k n psOk
    | .failed => s.finishNode c g k n psFault

/-- TASK_NODE_COMPLETE (R117, R118): operands n and k name graph and node. -/
def execTaskNodeComplete (s : State) : Out :=
  let k := s.operand.k
  match s.graphs.find? (·.id = s.operand.n) with
  | none => .next s
  | some g => match g.nodes[k]?, s.ctx? g.ctx with
    | some n, some c => .next (if n.ended && !n.completed then s.completeNode c g k n else s)
    | _, _ => .next s

/-! ### The other packets (R63 to R66) -/

/-- SILL_RUN_PACKET (R63, R434): a run whose queues are full waits. -/
def execSillRunPacket (s : State) : Out :=
  s.packet (· = 3) fun s c q _ p =>
    match s.checkRun (queueWho c) ⟨p.raw⟩ with
    | .ok s (.fail e) => (s.dropStage 0).failPacket c q e
    | .ok s (.ok words pages) =>
      let s := s.dropStage 0
      let probe := mkRun 0 c.num .gone ⟨p.raw⟩ words pages p.acq p.rel none
      if s.runFull probe then s
      else
        let (s, id) := s.consume c q p .sill
        let (s, num) := s.fresh
        s.queueRun (mkRun num c.num (.packet id) ⟨p.raw⟩ words pages p.acq p.rel none)
    | .gone s x => (s.lose c.num x).failPacket c q psFault
    | .hold s _ | .trap s _ => s

/-- Whether two ranges overlap. -/
def overlaps (a b n : Nat) : Bool := decide (a < b + n ∧ b < a + n)

/-- COPY_PACKET (R64): the streamer of die 0 takes it (log 35). -/
def execCopyPacket (s : State) : Out :=
  s.packet (· = 4) fun s c q _ p =>
    let src := p.num 24 8
    let dst := p.num 32 8
    let len := p.num 40 8
    let dev := p.num 48 2
    let remote := dev.testBit 15
    if len = 0 ∨ 2 ^ 40 < len ∨ bitsOf dev 10 5 ≠ 0 ∨ p.zero 50 78 = false ∨ (remote = false ∧ overlaps src dst len = true) then s.failPacket c q psBadfield
    else
      let (s, id) := s.consume c q p .copy
      let (s, num) := s.fresh
      let copy : SysCopy := ⟨num, c.num, id, 0, src, dst, len, if remote then some (BitVec.ofNat 10 dev) else none, false, [], 0, false, 0, []⟩
      { s with sysCopies := s.sysCopies ++ [copy] }

/-- SYSTEM_COPY_COMPLETE (R64): operand n names the copy. -/
def execSystemCopyComplete (s : State) : Out := .next (s.stepSys s.operand.n)

/-- WCOND of a signal packet (R65): 0 signed at least, 1 equal, 2 not equal, 3 signed below. -/
def signalHolds (cond : Nat) (x v : DWord) : Bool :=
  match cond with
  | 0 => v.sle x
  | 1 => x = v
  | 2 => x ≠ v
  | _ => x.slt v

/-- A read of a waiting signal packet (R65): the packet goes through, fails, or waits on. -/
def State.signalRead (s : State) (c : Ctx) (q : Nat) (p : Pkt) (addr : Nat) (val : DWord) (cond : Nat) : State :=
  let waiting (s : State) : State := match s.ctx? c.num with
    | none => s
    | some c => s.putQueue c q { s.queueNow c q with wait := some (.signal addr val cond s.time) }
  if addr = 0 then s.consumeDone c q p .signal
  else match s.readSpan (queueWho c) addr 8 .read with
    | .ok s g =>
      let s := s.dropStage 0
      match g with
      | .bytes b => if signalHolds cond (BitVec.ofNat 64 (leNat b)) val then s.consumeDone c q p .signal else waiting s
      | .bad x => (s.lose c.num x).failPacket c q psFault
      | _ => s.failPacket c q psFault
    | .hold s _ | .trap s _ | .gone s _ => s

/-- SIGNAL_PACKET (R65). -/
def execSignalPacket (s : State) : Out :=
  s.packet (· = 5) fun s c q _ p =>
    if p.num 24 8 % 8 ≠ 0 ∨ 3 < p.num 40 1 ∨ p.zero 41 87 = false then s.failPacket c q psBadfield
    else s.signalRead c q p (p.num 24 8) (BitVec.ofNat 64 (p.num 32 8)) (p.num 40 1)

/-- The packet in hand of a queue that waits, with its header as the slot holds it: the slot is read again at each recheck, and a changed or failing one decides, of which the spec says nothing (log 83). -/
def State.inHand (s : State) (f : State → Ctx → Nat → Pkt → QWait → State) : Out :=
  match s.ctx? s.operand.ctx with
  | none => .next s
  | some c =>
    let q := s.operand.q.toNat
    let x := s.queueNow c q
    match x.wait with
    | none => .next s
    | some w =>
      if !x.due || s.root.phase ≠ .running then .next s
      else match s.readSpan (queueWho c) (x.slotAddr x.progress) 128 .read with
        | .ok s (.bytes b) => .next (f (s.dropStage 0) c q ⟨b⟩ w)
        | .ok s (.bad x) => .next (((s.dropStage 0).lose c.num x).failPacket c q psFault)
        | .ok s _ => .next ((s.dropStage 0).failPacket c q psFault)
        | .hold s _ | .trap s _ | .gone s _ => .next s

/-- SIGNAL_PACKET_RECHECK (R65). -/
def execSignalPacketRecheck (s : State) : Out :=
  s.inHand fun s c q p w => match w with
    | .signal a v cond _ => s.signalRead c q p a v cond
    | .mailbox _ _ _ => s

/-- A mailbox post from a queue (R66): NOTEAM without the team, a wait while the FIFO is full. -/
def State.mailPacket (s : State) (c : Ctx) (q : Nat) (p : Pkt) (v : BitVec 16) (mb : Nat) (val : DWord) : State :=
  match s.anyTeam? c.num v with
  | none => s.failPacket c q psNoteam
  | some t =>
    if t.mbFull mb then
      match s.ctx? c.num with
      | none => s
      | some c => s.putQueue c q { s.queueNow c q with wait := some (.mailbox v mb val) }
    else (s.consumeDone c q p .mailbox).post c.num v mb val

/-- MAILBOX_POST_PACKET (R66): a post in hand is tried again. -/
def execMailboxPostPacket (s : State) : Out :=
  let waits := match s.ctx? s.operand.ctx with
    | some c => (s.queueNow c s.operand.q.toNat).wait.isSome
    | none => false
  if waits then
    s.inHand fun s c q p w => match w with
      | .mailbox v mb val => s.mailPacket c q p v mb val
      | .signal _ _ _ _ => s
  else
    s.packet (· = 6) fun s c q _ p =>
      if 8 ≤ p.num 26 1 ∨ p.zero 27 5 = false ∨ p.zero 40 88 = false then s.failPacket c q psBadfield
      else s.mailPacket c q p (BitVec.ofNat 16 (p.num 24 2)) (p.num 26 1) (BitVec.ofNat 64 (p.num 32 8))

/-- RESERVED_PACKET_TYPE (R56): BADTYPE. -/
def execReservedPacketType (s : State) : Out :=
  let c := s.ctx? s.operand.ctx
  let admitted (t : Nat) : Bool := match c with
    | some c => typeAllowed c (s.queueNow c s.operand.q.toNat) t
    | none => true
  s.packet (fun t => !admitted t) fun s _ _ _ _ => s

/-! ### Completion (R57, R58) -/

/-- A work whose signal is over leaves: a failed signal, then failed work, puts the queue in the error state, a failed grid and a failed signal only while no later packet has been consumed (R55, R57, R58, R64). -/
def State.finishWork (s : State) (w : Work) (failed : Bool) : State :=
  let s := if failed then s.failWork w psFault true else s
  let s := if w.code ≠ 0 then s.failWork w w.code (w.kind = .launch) else s
  State.dropGrid { s with works := s.works.filter (·.id ≠ w.id) } (.queue w.id)

/-- PACKET_COMPLETION_SIGNAL (R57, R58): operand n names the work, whose release has passed. -/
def execPacketCompletionSignal (s : State) : Out :=
  match s.works.find? (·.id = s.operand.n) with
  | none => .next s
  | some w =>
    let o : Origin := .queue w.id
    if !w.ended ∨ s.relPassed w.rel w.relTime = false ∨ s.partsOut o = true then .next s
    else match w.sig with
      | .out => .next s
      | .todo => match (s.closeRun o).signalAt ⟨w.ctx, none, none, none⟩ (if w.noSignal then 0 else w.sigaddr) w.sigval (some o) with
        | (_, .wait) => .next s
        | (s, .sent) => .next (s.setSig o .out)
        | (s, .done) => .next (s.finishWork w false)
        | (s, .failed) => .next (s.finishWork w true)
      | .done => .next (s.finishWork w false)
      | .failed => .next (s.finishWork w true)

end Sys2Proof.Machine
end

