-- ==== Sys2Proof/Machine/Contexts.lean ====
section
/-! DEFINITION. Context-control packets (R40 to R44, R48, R67, R84) and the swap of code images (R87). -/
namespace Sys2Proof.Machine

/-! ### Fields of a context-control packet (R67) -/

namespace Pkt
def ccop (p : Pkt) : Nat := p.num 24 1
def ctxn (p : Pkt) : BitVec 8 := BitVec.ofNat 8 (p.num 25 1)
def ccQueue (p : Pkt) : Nat := p.num 26 1
def ccSlot (p : Pkt) : Nat := p.num 27 1
def ccDesc (p : Pkt) : Nat := p.num 32 8
end Pkt

/-- Whether DESC may hold a context descriptor page (R67). -/
def descOk (d : Nat) : Bool := decide (d % 4096 = 0 ∧ 65536 ≤ d ∧ d < memTop)

/-- Whether the descriptor that a context-control packet has the Z9 read holds uncorrectable data (R56): the page of a create, or bytes 0 to 15 of the queue descriptor of a map, with bytes 16 to 31 for the switch-in. -/
def State.ccFaults (s : State) (p : Pkt) : Bool :=
  if p.ccop = 1 then descOk p.ccDesc && s.bad p.ccDesc 4096
  else match s.ctx? p.ctxn with
    | some c => p.ccop = 3 && decide (p.ccQueue ≤ 15) && s.bad (queueDesc c p.ccQueue) 32
    | none => false

/-- A context-control packet (R56, R67): its check gives a code, or what the operation does once the packet is consumed. -/
def State.control (s : State) (mine : Nat → Bool) (check : State → Pkt → Except (BitVec 8) (State → State)) : Out :=
  s.packetNaming (· = 7) (fun s _ p => .ok s (!s.ccFaults p)) fun s c q _ p =>
    if !mine p.ccop then s
    else if p.zero 28 4 = false ∨ p.zero 40 88 = false then s.failPacket c q psBadfield
    else match check s p with
      | .error e => s.failPacket c q e
      | .ok f => f (s.consumeDone c q p .control)

/-! ### Create (R40 to R42, R84) -/

/-- The reserved bits of a queue descriptor, and the ranges of one that exists (R41, R42). -/
def State.queueDescOk (s : State) (d q : Nat) : Bool :=
  let a := d + 64 + 32 * q
  decide (s.ld (a + 8) 1 < 32) && s.ld (a + 10) 6 = 0
    && (s.ld a 8 = 0 || (s.ld a 8 % 4096 = 0 && decide (4 ≤ s.ld (a + 8) 1 ∧ s.ld (a + 8) 1 ≤ 16 ∧ s.ld (a + 9) 1 ≤ 1)))

/-- The reserved bits of a code-table entry (R84). -/
def State.codeDescOk (s : State) (d i : Nat) : Bool :=
  let a := codeAddr d i
  decide (s.ld (a + 15) 1 < 2) && s.ld (a + 31) 1 = 0 && s.ld (a + 47) 1 = 0 && s.ld (a + 56) 8 = 0

/-- The fields of a context descriptor page (R40, R41, R84). -/
def State.pageOk (s : State) (d : Nat) : Bool :=
  s.ld (d + 8) 8 % 65536 = 0 && s.ld (d + 16) 8 % 65536 = 0 && decide (s.ld (d + 24) 2 < 1024) && decide (s.ld (d + 26) 1 < 4) && s.ld (d + 27) 37 = 0
    && s.ld (d + 576) 448 = 0 && (List.range 16).all (s.queueDescOk d) && (List.range 48).all (s.codeDescOk d)

/-- A queue as its descriptor gives it; its counters and status are zero until a switch-in reads bytes 16 to 31 (R42, log 81). -/
def State.newQueue (s : State) (d q : Nat) : Queue :=
  let a := d + 64 + 32 * q
  { Queue.absent with ring := s.ld a 8, logsize := s.ld (a + 8) 1 % 32, kind := s.ld (a + 9) 1 }

/-- A code-table entry as system software wrote it (R84). -/
def State.newCode (s : State) (d i : Nat) : CodeEntry :=
  let a := codeAddr d i
  ⟨s.ld a 8, s.ld (a + 8) 4, BitVec.ofNat 16 (s.ld (a + 12) 2), BitVec.ofNat 8 (s.ld (a + 14) 1), 0, 0, 0, 0, 0, 0⟩

/-- A context created (R40, R84): its table's entries are written back. -/
def State.createCtx (s : State) (num : BitVec 8) (d : Nat) : State :=
  let c : Ctx :=
    { num := num, desc := d, ptroot := s.ld d 8, stkbase := s.ld (d + 8) 8, stkbound := s.ld (d + 16) 8
      owner := BitVec.ofNat 10 (s.ld (d + 24) 2), cprio := s.ld (d + 26) 1
      queues := Vector.ofFn fun q => s.newQueue d q.val, code := Vector.ofFn fun i => s.newCode d i.val, energy := 0, sticky := false }
  (List.range 48).foldl (fun s i => s.writeCode d i (c.code.getD i .empty) false) { s with ctxs := s.ctxs ++ [c] }

/-- CREATE_CONTEXT (R67), and BADCTX for a CCOP that is not listed. FAULT, then BADFIELD, then BADCTX (R56). -/
def execCreateContext (s : State) : Out :=
  s.control (fun op => op = 1 || decide (op = 0 ∨ 4 < op)) fun s p =>
    if p.ccop ≠ 1 ∨ descOk p.ccDesc = false then .error psBadctx
    else if !s.pageOk p.ccDesc then .error psBadfield
    else if p.ctxn = 0 ∨ (s.ctx? p.ctxn).isSome then .error psBadctx
    else .ok fun s => s.createCtx p.ctxn p.ccDesc

/-! ### Destroy (R67) -/

/-- A grid of a destroyed context fails: its bents are killed without relaunch, its code binding is released (R87), the failure is logged, and no signal or interrupt follows. -/
def State.destroyGrid (s : State) (g : Grid) : State :=
  if g.ended then s
  else
    let s := (s.bents.filter (·.record = g.record)).foldl (fun s b => s.cleanBent b) s
    let s := (s.dropBents (·.record = g.record)).unbind g.ctx g.record
    s.logErr 7 0 4 0 g.ctx 0 g.record ((BitVec.ofNat 32 (recGrid s g.record)) ++ 0#32)

/-- What a destroy does to the Sill runs of a context: those under way run on, muted, and those still queued leave. -/
def State.destroyRuns (s : State) (ctx : BitVec 8) : State :=
  let out (r : SillRun) : Bool := r.ctx = ctx && r.stage = .queued
  let ids := (s.runs.filter out).map (·.id)
  { s with
    runs := (s.runs.filter fun r => !out r).map (fun (r : SillRun) => if r.ctx = ctx then { r with muted := true, origin := .gone } else r)
    stackCtls := s.stackCtls.map fun k => { k with queue := k.queue.filter fun i => !ids.contains i } }

/-- A context destroyed with its remaining work. -/
def State.destroyCtx (s : State) (ctx : BitVec 8) : State :=
  let s := (s.grids.filter (·.ctx = ctx)).foldl (fun s g => s.destroyGrid g) s
  let s := s.destroyRuns ctx
  { s with
    grids := s.grids.filter (·.ctx ≠ ctx), graphs := s.graphs.filter (·.ctx ≠ ctx), works := s.works.filter (·.ctx ≠ ctx)
    sysCopies := s.sysCopies.filter (·.ctx ≠ ctx), ctxs := s.ctxs.filter (·.num ≠ ctx) }.endPreempt

/-- DESTROY_CONTEXT (R67): all of the context's queues are unmapped. -/
def execDestroyContext (s : State) : Out :=
  s.control (· = 2) fun s p =>
    match s.ctx? p.ctxn with
    | none => .error psBadctx
    | some c => if p.ctxn = 0 ∨ (c.queues.any (·.slot.isSome)) = true then .error psBadctx else .ok fun s => s.destroyCtx p.ctxn

/-! ### Map and unmap (R42 to R44, R48) -/

/-- Whether a hardware slot is taken; slot 0 is the bootstrap queue's (R43, R44). -/
def State.slotTaken (s : State) (k : Nat) : Bool := k = 0 || s.ctxs.any fun c => c.queues.any fun q => q.slot = some k

/-- A queue switched in (R42, R48): a fill that fails the test of R47 is the error BADFIELD. -/
def State.mapQueue (s : State) (ctx : BitVec 8) (q slot : Nat) : State :=
  match s.ctx? ctx with
  | none => s
  | some c =>
    let d := s.readQDesc c q
    let x := s.loadQueue c q (c.queues.getD q Queue.absent)
    let x := { x with ring := d.ring, logsize := d.logsize, kind := d.kind, latched := true, slot := some slot, wait := none }
    let x := if 2 ^ x.logsize < x.fill ∧ x.error = false then x.fail psBadfield false x.progress else x
    s.putQueue c q x

/-- MAP_QUEUE (R42 to R44, R67). -/
def execMapQueue (s : State) : Out :=
  s.control (· = 3) fun s p =>
    match s.ctx? p.ctxn with
    | none => .error psBadctx
    | some c =>
      let q := p.ccQueue
      let d := s.readQDesc c q
      if 15 < q ∨ d.ring = 0 then .error psBadctx
      else if !d.ok then .error psBadfield
      else if (c.queues.getD q Queue.absent).slot.isSome ∨ 63 < p.ccSlot ∨ s.slotTaken p.ccSlot = true then .error psBadctx
      else .ok fun s => s.mapQueue p.ctxn q p.ccSlot

/-- A queue switched out (R48): a packet in hand stays unconsumed, and counters and status go into the descriptor. -/
def State.unmapQueue (s : State) (ctx : BitVec 8) (q : Nat) : State :=
  match s.ctx? ctx with
  | none => s
  | some c => s.putQueue c q { c.queues.getD q Queue.absent with slot := none, wait := none }

/-- UNMAP_QUEUE (R44, R48, R67). -/
def execUnmapQueue (s : State) : Out :=
  s.control (· = 4) fun s p =>
    match s.ctx? p.ctxn with
    | none => .error psBadctx
    | some c =>
      let q := p.ccQueue
      if 15 < q ∨ (p.ctxn = 0 ∧ q = 0) ∨ (c.queues.getD q Queue.absent).slot.isNone = true then .error psBadctx
      else .ok fun s => s.unmapQueue p.ctxn q

/-! ### Code images (R87) -/

/-- CODE_SWAP (R87): operands ctx and k name the entry that is examined. -/
def execCodeSwap (s : State) : Out := .next (if s.operand.k < 48 then s.swapEntry s.operand.ctx s.operand.k else s)

end Sys2Proof.Machine
end

