-- ==== Sys2Proof/Machine/ControlRegs.lean ====
section
/-! DEFINITION. The control registers of R276: their reads and writes, the barrier spill of R160 and the request of a debug stop of R283. -/
namespace Sys2Proof.Machine

/-! ### Barrier spill (R160) -/

/-- The team that owns an entry, resident or saved. -/
def State.entryOwner (s : State) (e : BarEntry) : Option Team := s.anyTeam? e.ctx e.vteam

/-- Whether R160 lets the issuing team spill an entry: it is quiet, its team has a spill area, and is absent or another one than the issuing team. -/
def State.spillable (s : State) (ctx : BitVec 8) (v : BitVec 16) (e : BarEntry) : Bool :=
  match s.entryOwner e with
  | none => false
  | some o => s.quiet o e && o.spillbase ≠ 0 && ((s.team? e.ctx e.vteam).isNone || !(e.ctx = ctx && e.vteam = v))

/-- BSPILL as it reads: the entry acted on and the outcome (R276). -/
def spillOutcome (ctx : BitVec 8) (v : BitVec 16) (num outcome : Nat) : DWord :=
  BitVec.ofNat 64 (ctx.toNat + v.toNat * 2 ^ 8 + num * 2 ^ 24 + outcome * 2 ^ 30)

/-- An entry spilled to its owner's spill image, or refused (R160). -/
def State.spillEntry (s : State) (core : Nat) (ctx : BitVec 8) (v : BitVec 16) (e : BarEntry) : State :=
  let record (s : State) (outcome : Nat) : State := s.modCore core fun c => { c with bspill := spillOutcome e.ctx e.vteam e.num outcome }
  match s.entryOwner e with
  | none => record s 2
  | some o =>
    if !s.spillable ctx v e then record s 1
    else match s.spillPlace o e.num .write with
      | (s, none) => record s 1
      | (s, some pa) =>
        let (s, _) := s.writeHome (s.whoTeam o) none pa (o.spillbase.toNat % 2 ^ 57 / 512 * 512 + 16 * e.num) e.bytes 1
        let s := s.modCore (o.homeOf e.num) fun c => match c.barSlot? o e.num with
          | some k => { c with bars := vmod c.bars k fun _ => none }
          | none => c
        record (s.modAnyTeam o.ctx o.vteam fun t => { t with home := vmod t.home e.num fun _ => none }) 0

/-- A write to BSPILL of a core by a team (R160, R276). -/
def State.bspill (s : State) (core : Nat) (ctx : BitVec 8) (v : BitVec 16) (w : DWord) : State :=
  let n := w.toNat
  let record (outcome : Nat) : State := s.modCore core fun c =>
    { c with bspill := if n.testBit 29 then spillOutcome 0 0 0 outcome else spillOutcome (BitVec.ofNat 8 n) (BitVec.ofNat 16 (bitsOf n 8 16)) (bitsOf n 24 5) outcome }
  if bitsOf n 30 34 ≠ 0 then record 2
  else if n.testBit 29 then
    match ((s.core core).bars.toList.filterMap id).find? (s.spillable ctx v) with
    | some e => s.spillEntry core ctx v e
    | none => record 2
  else
    match s.anyTeam? (BitVec.ofNat 8 n) (BitVec.ofNat 16 (bitsOf n 8 16)) with
    | none => record 2
    | some o => match s.bar? o (bitsOf n 24 5) with
      | some e => s.spillEntry core ctx v e
      | none => record 2

/-! ### Debug stops (R283) -/

/-- A write to DBGSTOP by a group of a context: the named groups are to stop, wherever their team stands. -/
def State.requestStop (s : State) (ctx : BitVec 8) (w : DWord) : State :=
  let n := w.toNat
  s.modAnyTeam ctx (BitVec.ofNat 16 n) fun t =>
    { t with groups := t.groups.map fun g => if n.testBit 24 || g.gidx = bitsOf n 16 8 then { g with dbg := true } else g }

/-! ### Reads and writes (R276, R351) -/

/-- A control register as GETSR reads it. DBGSTOP is write-only, and what a read gives is a free value. -/
def State.readCtl (s : State) (i : Iss) (n : Nat) : State × DWord :=
  let c := s.core i.t.core
  match n with
  | 0x00 => (s, BitVec.ofNat 64 c.fairint)
  | 0x01 => (s, BitVec.ofNat 64 c.wdlog)
  | 0x02 => (s, i.t.spillbase)
  | 0x04 => (s, c.bspill)
  | 0x08 => (s, c.pffetch)
  | 0x09 => (s, c.pfused)
  | 0x0A => (s, c.pftimely)
  | 0x0B => (s, c.sbstall)
  | 0x0C => (s, c.coissue)
  | 0x80 => (s, i.t.vteam.zeroExtend 64)
  | _ => s.draw

/-- A value kept between two bounds (R276). -/
def clamp (lo hi n : Nat) : Nat := max lo (min hi n)

/-- A control register written by SETSR. -/
def State.writeCtl (s : State) (i : Iss) (n : Nat) (v : DWord) : State :=
  let core (f : Core → Core) : State := s.modCore i.t.core f
  match n with
  | 0x00 => core fun c => { c with fairint := clamp 64 4096 v.toNat }
  | 0x01 => core fun c => { c with wdlog := clamp 16 40 v.toNat }
  | 0x02 => s.modTeam i.t.ctx i.t.vteam fun t => { t with spillbase := v }
  | 0x03 => s.requestStop i.t.ctx v
  | 0x04 => s.bspill i.t.core i.t.ctx i.t.vteam v
  | 0x08 => if v = 0 then core fun c => { c with pffetch := 0 } else s
  | 0x09 => if v = 0 then core fun c => { c with pfused := 0 } else s
  | 0x0A => if v = 0 then core fun c => { c with pftimely := 0 } else s
  | 0x0B => if v = 0 then core fun c => { c with sbstall := 0 } else s
  | 0x0C => if v = 0 then core fun c => { c with coissue := 0 } else s
  | _ => s

end Sys2Proof.Machine
end

