-- ==== Sys2Proof/Machine/Crypto.lean ====
section
/-! DEFINITION. The algorithms that R34 and R36 name by their standards: SHAKE256 and SHA3-512 (FIPS 202) and the verification of Ed448 signatures (RFC 8032). The spec does not repeat them, so they stand as those standards lay them down (log 73). -/
namespace Sys2Proof.Machine

/-! ### Keccak (FIPS 202) -/

/-- The state of Keccak-f[1600]: 25 lanes, lane (x, y) at x + 5y. -/
abbrev Keccak := Vector DWord 25

def Keccak.at (a : Keccak) (x y : Nat) : DWord := a.getD (x % 5 + 5 * (y % 5)) 0

/-- The rotation of each lane. -/
def keccakOffsets : List Nat := [0, 1, 62, 28, 27, 36, 44, 6, 55, 20, 3, 10, 43, 25, 39, 41, 45, 15, 21, 8, 18, 2, 61, 56, 14]

/-- The constant of each round. -/
def keccakRounds : List DWord :=
  [0x0000000000000001, 0x0000000000008082, 0x800000000000808A, 0x8000000080008000, 0x000000000000808B, 0x0000000080000001,
   0x8000000080008081, 0x8000000000008009, 0x000000000000008A, 0x0000000000000088, 0x0000000080008009, 0x000000008000000A] ++
  [0x000000008000808B, 0x800000000000008B, 0x8000000000008089, 0x8000000000008003, 0x8000000000008002, 0x8000000000000080,
   0x000000000000800A, 0x800000008000000A, 0x8000000080008081, 0x8000000000008080, 0x0000000080000001, 0x8000000080008008]

/-- One round: theta, rho with pi, chi, iota. -/
def keccakRound (a : Keccak) (rc : DWord) : Keccak :=
  let c : Vector DWord 5 := Vector.ofFn fun x => a.at x 0 ^^^ a.at x 1 ^^^ a.at x 2 ^^^ a.at x 3 ^^^ a.at x 4
  let d : Vector DWord 5 := Vector.ofFn fun x => c.getD ((x + 4) % 5) 0 ^^^ (c.getD ((x + 1) % 5) 0).rotateLeft 1
  let t : Keccak := Vector.ofFn fun i => a.getD i 0 ^^^ d.getD (i % 5) 0
  let b : Keccak := Vector.ofFn fun i =>
    let j := (i % 5 + 3 * (i / 5)) % 5 + 5 * (i % 5)
    (t.getD j 0).rotateLeft (keccakOffsets.getD j 0)
  Vector.ofFn fun i => (b.getD i 0 ^^^ (~~~(b.at (i % 5 + 1) (i / 5)) &&& b.at (i % 5 + 2) (i / 5))) ^^^ (if i.val = 0 then rc else 0)

def keccakF (a : Keccak) : Keccak := keccakRounds.foldl keccakRound a

/-- A block of bytes added into the state. -/
def Keccak.absorb (a : Keccak) (block : List Byte) : Keccak :=
  keccakF (Vector.ofFn fun i => a.getD i 0 ^^^ BitVec.ofNat 64 (leNat ((block.drop (8 * i)).take 8)))

def Keccak.bytes (a : Keccak) : List Byte := a.toList.flatMap fun x => leBytes x.toNat 8

/-- Blocks absorbed in turn. -/
def Keccak.absorbAll (rate : Nat) : Nat → List Byte → Keccak → Keccak
  | 0, _, a => a
  | n + 1, m, a => Keccak.absorbAll rate n (m.drop rate) (a.absorb (m.take rate))

/-- Blocks squeezed in turn. -/
def Keccak.squeeze (rate : Nat) : Nat → Keccak → List Byte
  | 0, _ => []
  | n + 1, a => a.bytes.take rate ++ Keccak.squeeze rate n (keccakF a)

/-- The padding of a message: its suffix, zeros, and the last bit of the block. -/
def keccakPad (rate : Nat) (suffix : Byte) (m : List Byte) : List Byte :=
  let k := rate - m.length % rate
  m ++ (if k = 1 then [suffix ||| 0x80] else suffix :: List.replicate (k - 2) 0 ++ [0x80])

/-- The sponge: a rate and a suffix make the function, and n the bytes of its output. -/
def keccakSponge (rate : Nat) (suffix : Byte) (m : List Byte) (n : Nat) : List Byte :=
  let p := keccakPad rate suffix m
  (Keccak.squeeze rate (n / rate + 1) (Keccak.absorbAll rate (p.length / rate) p (Vector.replicate 25 0))).take n

/-- SHAKE256 with n bytes of output. -/
def shake256 (m : List Byte) (n : Nat) : List Byte := keccakSponge 136 0x1F m n

/-- SHA3-512. -/
def sha3_512 (m : List Byte) : List Byte := keccakSponge 72 0x06 m 64

/-! ### Ed448 (RFC 8032) -/

def edP : Nat := 2 ^ 448 - 2 ^ 224 - 1

/-- The order of the base point. -/
def edL : Nat := 2 ^ 446 - 13818066809895115352007386748515426880336692474882178609894547503885

/-- The curve constant d = -39081. -/
def edD : Nat := edP - 39081

/-- A power modulo p, by the bits of the exponent from the highest. -/
def edPow (b e : Nat) : Nat → Nat → Nat
  | 0, r => r
  | n + 1, r =>
    let q := r * r % edP
    edPow b e n (if e.testBit n then q * b % edP else q)

/-- A point in projective coordinates. -/
structure EdPoint where
  x : Nat
  y : Nat
  z : Nat
deriving DecidableEq, Repr

def EdPoint.zero : EdPoint := ⟨0, 1, 1⟩

def EdPoint.base : EdPoint :=
  ⟨224580040295924300187604334099896036246789641632564134246125461686950415467406032909029192869357953282578032075146446173674602635247710,
   298819210078481492676017930443930673437544040154080242095928241372331506189835876003536878655418784733982303233503462500531545062832660, 1⟩

/-- The complete addition of the curve x² + y² = 1 + d x² y². -/
def EdPoint.add (p q : EdPoint) : EdPoint :=
  let a := p.z * q.z % edP
  let b := a * a % edP
  let c := p.x * q.x % edP
  let d := p.y * q.y % edP
  let e := edD * c % edP * d % edP
  let f := (b + edP - e) % edP
  let g := (b + e) % edP
  let h := (p.x + p.y) * (q.x + q.y) % edP
  ⟨a * f % edP * ((h + 2 * edP - c - d) % edP) % edP, a * g % edP * ((d + edP - c) % edP) % edP, f * g % edP⟩

/-- A multiple of a point, by the bits of the number from the highest. -/
def EdPoint.mul (p : EdPoint) (k : Nat) : Nat → EdPoint → EdPoint
  | 0, r => r
  | n + 1, r =>
    let q := r.add r
    EdPoint.mul p k n (if k.testBit n then q.add p else q)

def EdPoint.eq (p q : EdPoint) : Bool := p.x * q.z % edP = q.x * p.z % edP && p.y * q.z % edP = q.y * p.z % edP

/-- The point that 57 bytes encode, or none. -/
def edDecode (b : List Byte) : Option EdPoint :=
  let n := leNat b
  let y := n % 2 ^ 455
  let sign := n / 2 ^ 455
  if b.length ≠ 57 ∨ edP ≤ y then none
  else
    let u := (y * y + edP - 1) % edP
    let v := (edD * (y * y % edP) + edP - 1) % edP
    let u3v := u * u % edP * u % edP * v % edP
    let w := u3v * u % edP * u % edP * v % edP * v % edP
    let x := u3v * edPow w ((edP - 3) / 4) 446 1 % edP
    if v * (x * x % edP) % edP ≠ u ∨ (x = 0 ∧ sign = 1) then none
    else some ⟨if x % 2 = sign then x else edP - x, y, 1⟩

/-- Whether a signature of 114 bytes over a message is that of a public key of 57 bytes. -/
def ed448Verify (key m sig : List Byte) : Bool :=
  let s := leNat (sig.drop 57)
  let dom : List Byte := [0x53, 0x69, 0x67, 0x45, 0x64, 0x34, 0x34, 0x38, 0, 0]
  match edDecode key, edDecode (sig.take 57) with
  | some a, some r =>
    let k := leNat (shake256 (dom ++ sig.take 57 ++ key ++ m) 114)
    sig.length = 114 && decide (s < edL) &&
      (EdPoint.mul (EdPoint.mul EdPoint.base s 446 .zero) 4 3 .zero).eq (EdPoint.mul (r.add (EdPoint.mul a k 912 .zero)) 4 3 .zero)
  | _, _ => false

end Sys2Proof.Machine
end

