-- ==== Sys2Proof/Machine/Matrix.lean ====
section
/-! DEFINITION. Requests for matrix passes, opcodes 0xCB and 0xCC (R170 to R172, R255 to R263, R429 to R431). -/
namespace Sys2Proof.Machine

/-- The engine of a core (R255). -/
def engineOf (c : Nat) : Nat := 16 * (c / 64) + 4 * (c / 8 % 8 / 2) + c % 8 / 2

/-! ### The pass descriptor (R256) -/

/-- A pass descriptor. -/
structure Desc where
  raw : DWord
deriving DecidableEq, Repr

namespace Desc
def fld (d : Desc) (lo n : Nat) : Nat := bitsOf d.raw.toNat lo n
def m (d : Desc) : Nat := 32 * (d.fld 0 3 + 1)
def n (d : Desc) : Nat := 32 * (d.fld 3 3 + 1)
def ksh (d : Desc) : Nat := d.fld 6 2
def afmt? (d : Desc) : Option Fmt := Fmt.ofCode (d.raw.extractLsb' 8 4)
def bfmt? (d : Desc) : Option Fmt := Fmt.ofCode (d.raw.extractLsb' 12 4)
def afmt (d : Desc) : Fmt := d.afmt?.getD .bf16
def bfmt (d : Desc) : Fmt := d.bfmt?.getD .bf16
def asc (d : Desc) : Bool := d.raw.getLsbD 16
def bsc (d : Desc) : Bool := d.raw.getLsbD 17
def loadw (d : Desc) : Bool := d.raw.getLsbD 18
def acc (d : Desc) : Bool := d.raw.getLsbD 19
def acq (d : Desc) : Nat := d.fld 20 2
def rel (d : Desc) : Nat := d.fld 22 2
def bar (d : Desc) : Nat := d.fld 24 5
def wtag (d : Desc) : BitVec 16 := d.raw.extractLsb' 32 16

/-- K (R256): Kq is 32 for bfloat16, 64 when the wider element has 8 bits, 128 for two 4-bit blocks. -/
def k (d : Desc) : Nat :=
  let w := max d.afmt.bits d.bfmt.bits
  (d.ksh + 1) * (if w = 16 then 32 else if w = 8 then 64 else 128)

/-- Whether D is INT32 (R249): two integer formats without scale bytes. -/
def isInt (d : Desc) : Bool := (d.afmt = .i8 || d.afmt = .n8) && (d.bfmt = .i8 || d.bfmt = .n8) && !d.asc && !d.bsc
end Desc

/-- Formats of matrix operands by their element width: 16 for bfloat16, 8, 4; 0 for a format that no pass takes (R249). -/
def passWidth (f : Option Fmt) : Nat :=
  match f with
  | some .bf16 => 16
  | some .z8e4 | some .z8e5 | some .i8 | some .n8 => 8
  | some .b4 => 4
  | _ => 0

/-- Whether a descriptor passes the checks of R257. -/
def Desc.ok (d : Desc) : Bool :=
  let wa := passWidth d.afmt?
  let wb := passWidth d.bfmt?
  d.fld 48 16 = 0 && d.fld 29 3 = 0 && d.acq ≠ 3 && d.rel ≠ 3 && wa ≠ 0 && wb ≠ 0 && ((wa = 16) == (wb = 16))
    && (wa ≠ 4 || d.asc) && (wb ≠ 4 || d.bsc) && (wa ≠ 16 || !d.asc) && (wb ≠ 16 || !d.bsc)

/-! ### Fragments (R259) -/

/-- Registers of an A or B fragment: its data, and its scale bytes from base + 64. -/
def operandRegs (k w : Nat) (sc : Bool) (base : Nat) : List Nat :=
  upFrom base (k * w / 32) ++ (if sc then upFrom (base + 64) ((k + 127) / 128) else [])

def Desc.aRegs (d : Desc) (base : Nat) : List Nat := operandRegs d.k d.afmt.bits d.asc base
def Desc.bRegs (d : Desc) (base : Nat) : List Nat := operandRegs d.k d.bfmt.bits d.bsc base
def Desc.dRegs (d : Desc) (base : Nat) : List Nat := upFrom base d.m

/-- Registers that a signature supplies to be read, and to be written. -/
def Signature.reads (x : Signature) (d : Desc) : List Nat :=
  (match x.pa with
    | some b => d.aRegs b
    | none => []) ++ (match x.pb with
    | some b => d.bRegs b
    | none => [])
def Signature.writes (x : Signature) (d : Desc) : List Nat := match x.pd with
  | some b => d.dRegs b
  | none => []

/-- Word 2 of MSIGN as a signature (R430). -/
def msignOf (gidx : Nat) (w : Word) : Signature :=
  let base (on lo : Nat) : Option Nat := if w.getLsbD on then some (w.extractLsb' lo 8).toNat else none
  ⟨gidx, (w.extractLsb' 24 3).toNat, base 27 0, base 28 8, base 29 16⟩

/-- Whether a signature selects a part that is not required, B without LOADW, a part already supplied, or overlapping ranges (R259). -/
def Signature.clashes (x : Signature) (d : Desc) (sigs : List Signature) : Bool :=
  let lim (p : Option Nat) (n : Nat) : Bool := p.isSome && decide (n / 32 ≤ x.g)
  lim x.pa d.m || lim x.pb d.n || lim x.pd d.n || (x.pb.isSome && !d.loadw)
    || (sigs.any fun o => o.g = x.g && ((x.pa.isSome && o.pa.isSome) || (x.pb.isSome && o.pb.isSome) || (x.pd.isSome && o.pd.isSome)))
    || (x.writes d).any ((x.reads d).contains ·)

/-- Whether every required fragment is supplied (R259). -/
def allParts (d : Desc) (sigs : List Signature) : Bool :=
  ((List.range (d.m / 32)).all fun g => sigs.any fun o => o.g = g && o.pa.isSome)
    && ((List.range (d.n / 32)).all fun g => sigs.any fun o => o.g = g && o.pd.isSome)
    && (!d.loadw || (List.range (d.n / 32)).all fun g => sigs.any fun o => o.g = g && o.pb.isSome)

/-! ### Convergence registers (R170, R171) -/

def ConvReg.is (c : ConvReg) (t : Team) (name : Nat) : Bool := c.ctx = t.ctx && c.vteam = t.vteam && c.name = name

/-- The collecting register of a team under a name, with its physical number. -/
def Core.conv? (c : Core) (t : Team) (name : Nat) : Option (Nat × ConvReg) :=
  (List.range 16).findSome? fun k => match c.convs.getD k none with
    | some v => if v.is t name then some (k, v) else none
    | none => none

/-- A convergence register for a new use, but for the ones that a saved bent is about to take (R170, R172). -/
def State.freeConv? (s : State) (core : Nat) : Option Nat :=
  if s.freeConvs core = 0 then none else (List.range 16).find? fun k => ((s.core core).convs.getD k none).isNone

def State.setConv (s : State) (core k : Nat) (v : Option ConvReg) : State :=
  s.modCore core fun c => { c with convs := vmod c.convs k fun _ => v }

/-- CVINIT (R170, R257, R429). -/
def execCvinit (x : XForm) (s : State) : Out :=
  let e := x.enc 0xCB
  s.issue e fun s i =>
    let name := e.d.toNat
    let d : Desc := ⟨i.scalar e.a⟩
    let size := (i.scalar e.b).toNat
    let c := s.core i.t.core
    if size = 0 ∨ 8 < size ∨ !d.ok then .trap s (convFault name)
    else match c.conv? i.t name, s.freeConv? i.t.core with
      | none, some k => (s.setConv i.t.core k (some ⟨i.t.ctx, i.t.vteam, name, size, d.raw, []⟩)).done i id
      | _, _ => .hold s (waitDesc 8 name)

/-! ### MSIGN -/

/-- Marks of a pass on the registers of a group (R261). -/
def Group.mark (g : Group) (pass : Nat) (reads writes : List Nat) : Group :=
  { g with marks := g.marks ++ reads.map (⟨·, false, pass⟩) ++ writes.map (⟨·, true, pass⟩) }

/-- What keeps a signature's registers from being read and marked (R261, R431): a mark of an earlier pass, or a write in flight. Only what the pass would read from a pending register is a wait of R173. -/
def Group.signHold (g : Group) (x : Signature) (d : Desc) : Option Hold :=
  let rs := x.reads d
  let ws := x.writes d
  if g.marks.any fun m => (m.pending && rs.contains m.reg) || ws.contains m.reg then some { board := true, why := g.markWhy { rv := rs } }
  else
    if ({ rv := rs ++ ws } : Uses).touches (g.pendingFor handlerSid 0xFFFFFFFF#32) then some { board := true } else none

/-- The request enters the reservation table with its marks, and the barrier's AGENTS rises (R156, R261, R263). -/
def State.placePass (s : State) (i : Iss) (o : Team) (v : ConvReg) (sigs : List Signature) : State :=
  let d : Desc := ⟨v.desc⟩
  let (s, num) := s.fresh
  let s := s.modBar o d.bar fun e => { e with agents := e.agents + 1 }
  let acqw : Option AcqWait := if d.acq = 0 then none else some ⟨i.r.g, i.r.num, i.g.newRelease (scopeOfCode d.acq) i.active true none⟩
  let p : Pass := ⟨num, i.t.ctx, i.t.vteam, i.t.core, i.t.prio, v.desc, sigs, s.cycle, acqw, false, none⟩
  let k := engineOf i.t.core
  let s := { s with engines := vmod s.engines k fun e => { e with table := e.table ++ [p] } }
  sigs.foldl (fun s x => s.modGroup ⟨i.t.ctx, i.t.vteam, x.gidx⟩ (·.mark num (x.reads d) (x.writes d))) s

/-- MSIGN after its checks: an early signature enters, and the last one places the request (R171, R431). -/
def State.sign (s : State) (i : Iss) (k : Nat) (v : ConvReg) (x : Signature) : Res Unit :=
  let d : Desc := ⟨v.desc⟩
  let sigs := v.sigs ++ [x]
  if sigs.length < v.size then (s.setConv i.t.core k (some { v with sigs := sigs })).done i id
  else if !allParts d sigs then .trap (s.setConv i.t.core k none) (convFault v.name)
  else match s.barOwner i.t d.bar with
    | none => .trap s (barMisuse d.bar)
    | some o => (s.findBar o d.bar i.st.spilled).bind fun s e =>
      match e with
      | none => .trap s (barMisuse d.bar)
      | some e =>
        let holds := sigs.findSome? fun y => (i.t.group? y.gidx).bind fun g => g.signHold y d
        if 32 ≤ (s.engines.getD (engineOf i.t.core) Engine.reset).table.length ∨ 255 ≤ e.agents then .hold s 0
        else match holds with
          | some h => .hold s h.why
          | none => ((s.setConv i.t.core k none).placePass i ((s.anyTeam? o.ctx o.vteam).getD o) v sigs).done i id

/-- MSIGN (R171, R259, R261, R430, R431). -/
def execMsign (x : XForm) (s : State) : Out :=
  let e := x.enc 0xCC
  s.issue e fun s i =>
    let name := e.d.toNat
    let sig := msignOf i.g.gidx e.w2
    match (s.core i.t.core).conv? i.t name with
    | none => .trap s (convFault name)
    | some (k, v) =>
      let d : Desc := ⟨v.desc⟩
      let high (rs : List Nat) : Bool := rs.any (i.g.vregs ≤ ·)
      let side (p : Option Nat) (f : Nat → List Nat) : Option Nat := p.bind fun b => if high (f b) then some b else none
      if v.sigs.any (·.gidx = i.g.gidx) then .trap s (convFault name)
      else match (side sig.pa d.aRegs).or ((side sig.pb d.bRegs).or (side sig.pd d.dRegs)) with
        | some b => .trap s (illenc (b % 256))
        | none =>
          match if i.hasSet then (sig.writes d).find? (!i.curSet.1.getLsbD ·) else none with
          | some r => .trap s (undecl r)
          | none => if sig.clashes d v.sigs then .trap s (convFault name) else s.sign i k v sig

end Sys2Proof.Machine
end

