-- ==== Sys2Proof/Machine/Floats.lean ====
section
/-! DEFINITION. Floating-point, conversion and block instructions, opcodes 0x60 to 0x7D (R362 to R377). -/
namespace Sys2Proof.Machine

/-! ### Rounding modes and draws -/

/-- The rounding mode of MOD (R242, R363). -/
def Enc.mode (x : Enc) : RMode := (RMode.ofCode x.rm).getD .rn

/-- A lane's `$seed` after n steps (R244). -/
def seedAfter : Nat → Word → Word
  | 0, w => w
  | n + 1, w => seedStep (seedAfter n w)

/-- The draw that element k of a lane takes under SR: seed[23:0] after its step (R243, R244, R364). -/
def Iss.draw (i : Iss) (lane k : Nat) : Nat := (seedAfter (k + 1) (i.g.seed.toArray.getD lane 0)).toNat % 2 ^ 24

/-- `$seed` after each visited lane has rounded n elements under SR (R364). -/
def Iss.seeds (i : Iss) (n : Nat) : Option Lanes :=
  if (Enc.mode i.x) = .sr then some (lanesFn fun l => seedAfter n (i.g.seed.toArray.getD l 0)) else none

/-! ### Shared shapes -/

/-- A binary32 result of each lane, from its draw. -/
def float1 (x : Enc) (f : Iss → Nat → Nat → Nat) (s : State) : Out :=
  s.regOp x fun i => { v := vout false x.d.toNat fun l => BitVec.ofNat 64 (f i l (i.draw l 0)), seed := i.seeds 1 }

/-- Sources of a lane as values of a floating format. -/
def Iss.fa (i : Iss) (f : FloatFmt) (l : Nat) : Num := f.decode (i.srcA (f.width = 64) l).toNat
def Iss.fb (i : Iss) (f : FloatFmt) (l : Nat) : Num := f.decode (i.srcB (f.width = 64) l).toNat
def Iss.fc (i : Iss) (f : FloatFmt) (l : Nat) : Num := f.decode (i.srcC (f.width = 64) l).toNat

/-- A binary32 result rounded once (R364, R365). -/
def arith32 (x : Enc) (f : RMode → Num → Num → Num) (s : State) : Out :=
  float1 x (fun i l r => ffF32.round (Enc.mode x) (f (Enc.mode x) (i.fa ffF32 l) (i.fb ffF32 l)) r) s

/-- The format of the packed instructions (R369). -/
def packedFmt (sub : Nat) : FloatFmt := if sub = 0 then ffF16 else ffBF16

/-- Two 16-bit results of a 32-bit register, element 0 first (R364, R369). -/
def packed (x : Enc) (f : RMode → Num → Num → Num → Num) (s : State) : Out :=
  s.regOp x fun i =>
    let ff := packedFmt x.sub
    let part (w : DWord) (j : Nat) : Num := ff.decode (w.extractLsb' (16 * j) 16).toNat
    let elem (l j : Nat) : Nat :=
      ff.round (Enc.mode x) (f (Enc.mode x) (part (i.srcA false l) j) (part (i.srcB false l) j) (part (i.srcC false l) j)) (i.draw l j)
    { v := vout false x.d.toNat fun l => BitVec.ofNat 64 (elem l 0 + 65536 * elem l 1), seed := i.seeds 2 }

/-- A binary64 result rounded once (R370). -/
def arith64 (x : Enc) (f : RMode → Num → Num → Num → Num) (s : State) : Out :=
  s.regOp x fun i =>
    { v := vout true x.d.toNat fun l => BitVec.ofNat 64 (ffF64.round (Enc.mode x) (f (Enc.mode x) (i.fa ffF64 l) (i.fb ffF64 l) (i.fc ffF64 l)) 0) }

/-- A special function (R371, R372). -/
def special1 (x : Enc) (f : SpFn) (s : State) : Out :=
  s.longOp x fun i => [(x.d.toNat, lanesFn fun l => f.eval ((i.srcA false l).extractLsb' 0 32))]

/-! ### Results -/

/-- FRND (R368): the integral value with the sign of the operand. -/
def frnd (mode : RMode) (a : Nat) : Nat :=
  match ffF32.decode a with
  | .fin neg m e => ffF32.round .rz (.fin neg (roundInt mode neg m e 0).natAbs 0) 0
  | x => ffF32.round .rz x 0

/-- FSCALE (R368): a times 2^n. A power beyond 1,000 changes no result further. -/
def fscale (mode : RMode) (a : Nat) (n : Int) : Nat :=
  ffF32.round mode ((ffF32.decode a).scale (max (-1000) (min 1000 n))) 0

/-- BSCALE (R377). -/
def bscale (mode : RMode) (a : Nat) (scale : BitVec 8) : Nat :=
  match scale8 scale with
  | none => ffF32.canonNaN
  | some k => ffF32.round mode ((ffF32.decode a).scale k) 0

/-- The lanes of the strand that the group has (R153, R375). -/
def Iss.lanesIn (i : Iss) : Mask := i.st.mask &&& i.t.lanes

/-- The block of BPACK (R247, R375). -/
def Iss.block (i : Iss) : Block :=
  let m := i.lanesIn
  let xs := (List.range 32).map fun l => if m.getLsbD l then i.fa ffF32 l else Num.fin false 0 0
  encodeBlock i.x.sub (Enc.mode i.x) (Ovp.ofCode i.x.ovp) xs ((List.range 32).map fun l => i.draw l 0)

/-- Word j of the codes of a block: codes 8j to 8j + 7 (R375). -/
def Block.word (b : Block) (j : Nat) : Word :=
  (List.range 8).foldl (fun (w : Word) m => w ||| (((b.codes.getD (8 * j + m) 0#4).zeroExtend 32) <<< (4 * m))) 0#32

/-- BUNPACK of one lane (R240, R376): element e of the block in vA to vA + 4. -/
def Iss.unpack (i : Iss) (l : Nat) : Nat :=
  let a := i.x.a.toNat
  let e := (i.srcB false l).toNat % 32
  let code := (i.vreg (a + e / 8) l).extractLsb' (4 * (e % 8)) 4
  ffF32.round .rn (blockValue ((i.vreg (a + 4) l).extractLsb' 0 8) code) 0

/-- The formats of CVT (R373): target and source. -/
def cvtFmts (c : BitVec 8) : Fmt × Fmt :=
  ((Fmt.ofCode (c.extractLsb' 0 4)).getD .f32, (Fmt.ofCode (c.extractLsb' 4 4)).getD .f32)

/-- CVT of one lane (R374). -/
def Iss.cvt (i : Iss) (l : Nat) : Conv :=
  let (tgt, src) := cvtFmts i.x.c
  tgt.conv (Enc.mode i.x) (Ovp.ofCode i.x.ovp) (src.decode (i.srcA (src.bits = 64) l).toNat) (i.draw l 0)

/-- Lane faults of a conversion (R270, R374, R375): cause 5 in each lane that traps. -/
def cvtTrap (m : Mask) (bad : Nat → Bool) : Option Trap := laneTrap m (fun l => if bad l then laneCvt else 0) fun _ => 0

/-! ### The meanings -/

/-- FADD (R365). -/
def execFadd (x : SForm) (s : State) : Out := arith32 (x.enc 0x60) (fun m a b => Num.add m a b) s
def execFaddExtended (x : XForm) (s : State) : Out := arith32 (x.enc 0x60) (fun m a b => Num.add m a b) s
/-- FSUB (R365). -/
def execFsub (x : SForm) (s : State) : Out := arith32 (x.enc 0x61) (fun m a b => Num.add m a b.negate) s
def execFsubExtended (x : XForm) (s : State) : Out := arith32 (x.enc 0x61) (fun m a b => Num.add m a b.negate) s
/-- FMUL (R365). -/
def execFmul (x : SForm) (s : State) : Out := arith32 (x.enc 0x62) (fun _ a b => a.mul b) s
def execFmulExtended (x : XForm) (s : State) : Out := arith32 (x.enc 0x62) (fun _ a b => a.mul b) s

/-- FFMA (R365). -/
def execFfma (x : XForm) (s : State) : Out :=
  let e := x.enc 0x63
  float1 e (fun i l r => ffF32.round (Enc.mode e) (Num.fma (Enc.mode e) (i.fa ffF32 l) (i.fb ffF32 l) (i.fc ffF32 l)) r) s

/-- FMIN (R366). -/
def execFmin (x : SForm) (s : State) : Out :=
  float1 (x.enc 0x64) (fun i l _ => ffF32.minmax false (i.srcA false l).toNat (i.srcB false l).toNat) s
def execFminExtended (x : XForm) (s : State) : Out :=
  float1 (x.enc 0x64) (fun i l _ => ffF32.minmax false (i.srcA false l).toNat (i.srcB false l).toNat) s
/-- FMAX (R366). -/
def execFmax (x : SForm) (s : State) : Out :=
  float1 (x.enc 0x65) (fun i l _ => ffF32.minmax true (i.srcA false l).toNat (i.srcB false l).toNat) s
def execFmaxExtended (x : XForm) (s : State) : Out :=
  float1 (x.enc 0x65) (fun i l _ => ffF32.minmax true (i.srcA false l).toNat (i.srcB false l).toNat) s
/-- FABS (R365). -/
def execFabs (x : SForm) (s : State) : Out := float1 (x.enc 0x66) (fun i l _ => ffF32.absCode (i.srcA false l).toNat) s
def execFabsExtended (x : XForm) (s : State) : Out := float1 (x.enc 0x66) (fun i l _ => ffF32.absCode (i.srcA false l).toNat) s
/-- FNEG (R365). -/
def execFneg (x : SForm) (s : State) : Out := float1 (x.enc 0x67) (fun i l _ => ffF32.negCode (i.srcA false l).toNat) s
def execFnegExtended (x : XForm) (s : State) : Out := float1 (x.enc 0x67) (fun i l _ => ffF32.negCode (i.srcA false l).toNat) s

/-- FCMP (R367). -/
def execFcmp (x : XForm) (s : State) : Out :=
  let e := x.enc 0x68
  s.regOp e fun i => { p := [(e.d.toNat, maskOf fun l => Num.fcmp e.sub (i.fa ffF32 l) (i.fb ffF32 l))] }

/-- FSET (R367). -/
def execFset (x : XForm) (s : State) : Out :=
  let e := x.enc 0x69
  float1 e (fun i l _ => if Num.fcmp e.sub (i.fa ffF32 l) (i.fb ffF32 l) then 0x3F800000 else 0) s

/-- FRND (R368). -/
def execFrnd (x : SForm) (s : State) : Out :=
  float1 (x.enc 0x6A) (fun i l _ => frnd (Enc.mode (x.enc 0x6A)) (i.srcA false l).toNat) s
def execFrndExtended (x : XForm) (s : State) : Out :=
  float1 (x.enc 0x6A) (fun i l _ => frnd (Enc.mode (x.enc 0x6A)) (i.srcA false l).toNat) s

/-- FSCALE (R368). -/
def execFscale (x : SForm) (s : State) : Out :=
  float1 (x.enc 0x6B) (fun i l _ => fscale (Enc.mode (x.enc 0x6B)) (i.srcA false l).toNat ((IntTy.mk 32 true).val (i.srcB false l))) s
def execFscaleExtended (x : XForm) (s : State) : Out :=
  float1 (x.enc 0x6B) (fun i l _ => fscale (Enc.mode (x.enc 0x6B)) (i.srcA false l).toNat ((IntTy.mk 32 true).val (i.srcB false l))) s

/-- HADD2 (R369). -/
def execHadd2 (x : SForm) (s : State) : Out := packed (x.enc 0x6C) (fun m a b _ => Num.add m a b) s
def execHadd2Extended (x : XForm) (s : State) : Out := packed (x.enc 0x6C) (fun m a b _ => Num.add m a b) s
/-- HMUL2 (R369). -/
def execHmul2 (x : SForm) (s : State) : Out := packed (x.enc 0x6D) (fun _ a b _ => a.mul b) s
def execHmul2Extended (x : XForm) (s : State) : Out := packed (x.enc 0x6D) (fun _ a b _ => a.mul b) s
/-- HFMA2 (R369). -/
def execHfma2 (x : XForm) (s : State) : Out := packed (x.enc 0x6E) (fun m a b c => Num.fma m a b c) s

/-- DADD (R370). -/
def execDadd (x : SForm) (s : State) : Out := arith64 (x.enc 0x6F) (fun m a b _ => Num.add m a b) s
def execDaddExtended (x : XForm) (s : State) : Out := arith64 (x.enc 0x6F) (fun m a b _ => Num.add m a b) s
/-- DMUL (R370). -/
def execDmul (x : SForm) (s : State) : Out := arith64 (x.enc 0x70) (fun _ a b _ => a.mul b) s
def execDmulExtended (x : XForm) (s : State) : Out := arith64 (x.enc 0x70) (fun _ a b _ => a.mul b) s
/-- DFMA (R370). -/
def execDfma (x : XForm) (s : State) : Out := arith64 (x.enc 0x71) (fun m a b c => Num.fma m a b c) s

/-- FRCP (R372). -/
def execFrcp (x : XForm) (s : State) : Out := special1 (x.enc 0x72) .rcp s
/-- FRSQ (R372). -/
def execFrsq (x : XForm) (s : State) : Out := special1 (x.enc 0x73) .rsq s
/-- FSQRT (R372). -/
def execFsqrt (x : XForm) (s : State) : Out := special1 (x.enc 0x74) .sqrt s
/-- FEXP2 (R372). -/
def execFexp2 (x : XForm) (s : State) : Out := special1 (x.enc 0x75) .exp2 s
/-- FLOG2 (R372). -/
def execFlog2 (x : XForm) (s : State) : Out := special1 (x.enc 0x76) .log2 s
/-- FSIN (R372). -/
def execFsin (x : XForm) (s : State) : Out := special1 (x.enc 0x77) .sin s
/-- FCOS (R372). -/
def execFcos (x : XForm) (s : State) : Out := special1 (x.enc 0x78) .cos s
/-- FTANH (R372). -/
def execFtanh (x : XForm) (s : State) : Out := special1 (x.enc 0x79) .tanh s

/-- CVT (R373, R374). -/
def execCvt (x : XForm) (s : State) : Out :=
  let e := x.enc 0x7A
  s.regOpTrap e fun i => match cvtTrap i.active fun l => (i.cvt l).trap with
    | some t => .error t
    | none => .ok { v := vout ((cvtFmts e.c).1.bits = 64) e.d.toNat fun l => BitVec.ofNat 64 (i.cvt l).code
                    p := [(e.b.toNat, maskOf fun l => (i.cvt l).flag)], seed := i.seeds 1 }

/-- BSCALE (R377). -/
def execBscale (x : XForm) (s : State) : Out :=
  let e := x.enc 0x7B
  float1 e (fun i l _ => bscale (Enc.mode e) (i.srcA false l).toNat ((i.srcB false l).extractLsb' 0 8)) s

/-- BPACK (R375): the block goes to the active lanes, the flags and the draws to every lane of MASK. -/
def execBpack (x : XForm) (s : State) : Out :=
  let e := x.enc 0x7C
  s.issue e fun s i =>
    if i.active = 0 then s.done i id
    else
      let b := i.block
      match cvtTrap i.lanesIn fun l => decide (Ovp.ofCode e.ovp = .trap) && b.overflowed.getD l false with
      | some t => .trap s t
      | none => s.resultChecked i fun s => s.done i fun g =>
          let codes := (List.range 4).map fun j => (e.d.toNat + j, lanesFn fun _ => b.word j)
          let g := g.commit i.r.num i.active { v := codes ++ [(e.d.toNat + 4, lanesFn fun _ => b.scale.zeroExtend 32)] }
          g.commit i.r.num i.lanesIn { p := [(e.b.toNat, maskOf fun l => b.flags.getD l false)], seed := i.seeds 1 }

/-- BUNPACK (R376). -/
def execBunpack (x : XForm) (s : State) : Out := float1 (x.enc 0x7D) (fun i l _ => i.unpack l) s

end Sys2Proof.Machine
end

