-- ==== Sys2Proof/Machine/Lanes.lean ====
section
/-! DEFINITION. Lane exchange, reductions and scans, opcodes 0x90 to 0x96 (R378 to R383). -/
namespace Sys2Proof.Machine

/-! ### Reduction operators -/

/-- The values that an operator works on: integers of a type, or a floating format. -/
inductive RedTy where
  | int (t : IntTy)
  | flt (f : FloatFmt)
deriving DecidableEq, Repr

/-- The type of LRED and LSCAN (R378). -/
def Enc.redTy (x : Enc) : RedTy :=
  if x.ty = 0 then .flt ffF32 else if x.ty = 3 then .flt ffF64 else .int (Enc.intTy x)

/-- The operators 0 add, 1 min, 2 max, 3 and, 4 or, 5 xor (R382, R385). -/
def RedTy.op (t : RedTy) (k : Nat) (a b : DWord) : DWord :=
  match t with
  | .flt f =>
    if k = 0 then BitVec.ofNat 64 (f.addRn a.toNat b.toNat) else BitVec.ofNat 64 (f.minmax (k = 2) a.toNat b.toNat)
  | .int t =>
    match k with
    | 0 => t.wrap (a.toNat + b.toNat)
    | 1 => if t.val b < t.val a then b else a
    | 2 => if t.val a < t.val b then b else a
    | 3 => a &&& b
    | 4 => a ||| b
    | _ => a ^^^ b

/-- The identity of an operator (R383, R385). -/
def RedTy.identity (t : RedTy) (k : Nat) : DWord :=
  match t with
  | .flt f =>
    match k with
    | 0 => BitVec.ofNat 64 (f.withSign true 0)
    | 1 => BitVec.ofNat 64 f.top
    | _ => BitVec.ofNat 64 (f.withSign true f.top)
  | .int t =>
    match k with
    | 1 => t.wrap t.hi
    | 2 => t.wrap t.lo
    | 3 => t.wrap (-1)
    | _ => 0

/-- A floating result with a NaN made canonical (R236). -/
def RedTy.canon (t : RedTy) (a : DWord) : DWord :=
  match t with
  | .flt f => if (f.decode a.toNat).isNaN then BitVec.ofNat 64 f.canonNaN else a
  | .int _ => a

/-- One level of the fixed tree of a float add: adjacent values added (R382). -/
def treeLevel (f : DWord → DWord → DWord) : List DWord → List DWord
  | a :: b :: r => f a b :: treeLevel f r
  | l => l

/-- The fixed tree over 32 values: five levels (R382). -/
def treeSum (f : DWord → DWord → DWord) (l : List DWord) : DWord :=
  (treeLevel f (treeLevel f (treeLevel f (treeLevel f (treeLevel f l))))).getD 0 0

/-- The values folded in order, starting with the first; none for no value. -/
def fold1 (f : DWord → DWord → DWord) : List DWord → Option DWord
  | [] => none
  | a :: r => some (r.foldl f a)

/-- LRED over the lanes of a mask (R382). -/
def reduceLanes (t : RedTy) (k : Nat) (m : Mask) (a : Nat → DWord) : DWord :=
  match t, k with
  | .flt f, 0 => treeSum ((RedTy.flt f).op 0) ((List.range 32).map fun l => if m.getLsbD l then a l else (RedTy.flt f).identity 0)
  | _, _ => t.canon ((fold1 (t.op k) ((lanesOf m).map a)).getD (t.identity k))

/-- LSCAN at one lane (R383). -/
def scanLane (t : RedTy) (k : Nat) (excl : Bool) (m : Mask) (a : Nat → DWord) (l : Nat) : DWord :=
  let ls := (lanesOf m).filter fun j => if excl then decide (j < l) else decide (j ≤ l)
  t.canon ((fold1 (t.op k) (ls.map a)).getD (t.identity k))

/-! ### Exchange -/

/-- The index, mask or distance of a lane (R379, R381): B6 of kind i in the S form, else source B, bits [31:0]. -/
def Iss.shuffleArg (i : Iss) (vec : Bool) (l : Nat) : Nat :=
  match i.x.form with
  | .s => if vec then (i.vreg i.x.b6.toNat l).toNat else i.x.b6.toNat
  | _ => (i.srcB false l).toNat

/-- What a lane takes from a source lane: its value if it supplies, else the fill (R378). old: the destination before. -/
def Iss.take (i : Iss) (wide : Bool) (a old : Nat → DWord) (l : Nat) (j : Int) : DWord :=
  if 0 ≤ j ∧ j < 32 ∧ i.active.getLsbD j.toNat then a j.toNat
  else if i.x.fill then old l else Iss.cut wide 0

/-- SHFL and its kin (R379, R380): src gives the source lane from the lane and its operand. -/
def shuffle (x : Enc) (vec : Bool) (src : Bool → Nat → Nat → Int) (s : State) : Out :=
  s.regOp x fun i =>
    let f (l : Nat) : DWord :=
      i.take x.is64 (i.srcA x.is64) (i.vop x.is64 x.d.toNat) l (src i.t.legacy l (i.shuffleArg vec l))
    { v := vout x.is64 x.d.toNat f }

/-- The source lane of SHFLX: lane xor mask bits, four of them in a legacy group (R379, R380). -/
def xorLane (legacy : Bool) (l m : Nat) : Int := (l ^^^ (m % (if legacy then 16 else 32)) : Nat)

/-- Whether a distance of BFLY is accepted (R380, R381). -/
def bflyOk (legacy : Bool) (d : Nat) : Bool := d = 1 || d = 2 || d = 4 || d = 8 || (d = 16 && !legacy)

/-- The lanes whose distance BFLY reads. -/
def Iss.bflyLanes (i : Iss) : List Nat := lanesOf (if i.active = 0 then i.st.mask else i.active)

/-- BFLY (R381): both registers are read and written. -/
def bfly (x : Enc) (s : State) : Out :=
  let wide := x.is64
  s.issueWith x (fun _ i => (Kind.reads (fieldKinds i.x).d i.x.d.toNat).join (Kind.writes (fieldKinds i.x).a i.x.a.toNat)) fun s i =>
    let dist (l : Nat) : Nat := i.shuffleArg false l
    match i.bflyLanes.find? fun l => !bflyOk i.t.legacy (dist l) with
    | some l => .trap s (illenc (dist l % 256))
    | none => s.resultChecked i fun s => s.done i fun g =>
        let a := x.a.toNat
        let d := x.d.toNat
        let low := maskOf fun l => l &&& dist l = 0
        let va (l : Nat) : DWord := i.take wide (i.vop wide d) (i.vop wide a) l ((l + dist l : Nat) : Int)
        let vd (l : Nat) : DWord := i.take wide (i.vop wide a) (i.vop wide d) l ((l : Int) - dist l)
        (g.commit i.r.num (i.active &&& low) { v := vout wide a va }).commit i.r.num (i.active &&& ~~~low) { v := vout wide d vd }

/-! ### The meanings -/

/-- SHFL (R379). -/
def execShfl (x : SForm) (s : State) : Out := shuffle (x.enc 0x90) true (fun _ _ j => (j : Int)) s
def execShflExtended (x : XForm) (s : State) : Out := shuffle (x.enc 0x90) true (fun _ _ j => (j : Int)) s
/-- SHFLX (R379). -/
def execShflx (x : SForm) (s : State) : Out := shuffle (x.enc 0x91) false xorLane s
def execShflxExtended (x : XForm) (s : State) : Out := shuffle (x.enc 0x91) false xorLane s
/-- SHFLUP (R379). -/
def execShflup (x : SForm) (s : State) : Out := shuffle (x.enc 0x92) false (fun _ l n => (l : Int) - n) s
def execShflupExtended (x : XForm) (s : State) : Out := shuffle (x.enc 0x92) false (fun _ l n => (l : Int) - n) s
/-- SHFLDN (R379). -/
def execShfldn (x : SForm) (s : State) : Out := shuffle (x.enc 0x93) false (fun _ l n => (l : Int) + n) s
def execShfldnExtended (x : XForm) (s : State) : Out := shuffle (x.enc 0x93) false (fun _ l n => (l : Int) + n) s
/-- BFLY (R381). -/
def execBfly (x : SForm) (s : State) : Out := bfly (x.enc 0x94) s
def execBflyExtended (x : XForm) (s : State) : Out := bfly (x.enc 0x94) s

/-- LRED (R382). -/
def execLred (x : XForm) (s : State) : Out :=
  let e := x.enc 0x95
  s.regOp e fun i =>
    let r := reduceLanes (Enc.redTy e) e.sub i.active (i.srcA e.is64)
    { v := vout e.is64 e.d.toNat fun _ => r }

/-- LSCAN (R383). -/
def execLscan (x : XForm) (s : State) : Out :=
  let e := x.enc 0x96
  s.regOp e fun i =>
    { v := vout e.is64 e.d.toNat fun l => scanLane (Enc.redTy e) (e.sub % 8) (decide (8 ≤ e.sub)) i.active (i.srcA e.is64) l }

end Sys2Proof.Machine
end

