-- ==== Sys2Proof/Machine/Slides.lean ====
section
/-! DEFINITION. Slide accumulators, opcodes 0x97 to 0x9D (R384 to R392). -/
namespace Sys2Proof.Machine

/-! ### Descriptors -/

namespace Slide

/-- The operator of a descriptor (R385). -/
def ty (d : Slide) : RedTy := if 6 ≤ d.op then .flt ffF32 else .int ⟨32, !d.uns⟩
def apply (d : Slide) (a b : Word) : Word := (d.ty.op (d.op % 6) (a.zeroExtend 64) (b.zeroExtend 64)).extractLsb' 0 32
def identity (d : Slide) : Word := (d.ty.identity (d.op % 6)).extractLsb' 0 32

/-- The register of the slot at a distance from HEAD, and the aggregate register (R385). -/
def slot (d : Slide) (k : Nat) : Nat := d.base + (d.head + k) % d.cap
def agg (d : Slide) : Nat := d.base + d.cap

/-- The storage registers (R385). -/
def storage (d : Slide) : List Nat := upFrom d.base (d.cap + 1)

/-- The 16 bytes of a descriptor (R384). -/
def bytes (d : Slide) : List Byte :=
  leBytes (2 ^ 63 + d.op * 2 ^ 59 + (if d.uns then 2 ^ 58 else 0) + d.base * 2 ^ 48 + d.cap * 2 ^ 41 + d.win * 2 ^ 34 + d.n * 2 ^ 27
    + d.nout * 2 ^ 20 + d.head * 2 ^ 14) 8 ++ leBytes d.pushes.toNat 8

/-- A descriptor from its image; a failed check gives none, BOUND 0 an unbound one (R392). -/
def ofBytes (vregs : Nat) (b : List Byte) : Option Slide :=
  let x := leNat (b.take 8)
  let y := leNat ((b.drop 8).take 8)
  let d : Slide := ⟨true, bitsOf x 59 4, x.testBit 58, bitsOf x 48 8, bitsOf x 41 7, bitsOf x 34 7, bitsOf x 27 7, bitsOf x 20 7, bitsOf x 14 6, BitVec.ofNat 32 y⟩
  if !x.testBit 63 then some .unbound
  else if bitsOf x 56 2 = 0 ∧ bitsOf x 0 14 = 0 ∧ y < 2 ^ 32 ∧ d.op ≤ 8 ∧ 1 ≤ d.cap ∧ d.cap ≤ 64 ∧ 1 ≤ d.win ∧ d.win ≤ d.cap ∧ d.n ≤ d.win
      ∧ d.nout ≤ d.n ∧ d.head < d.cap ∧ d.base + d.cap < vregs then some d
  else none

end Slide

def Group.slide (g : Group) (k : Nat) : Slide := g.slides.getD k Slide.unbound
def Group.setSlide (g : Group) (k : Nat) (d : Slide) : Group := { g with slides := vmod g.slides k fun _ => d }

/-- Lane by lane over two registers. -/
def lanes2 (f : Word → Word → Word) (a b : Lanes) : Lanes := Vector.ofFn fun i => f a[i] b[i]

/-! ### Pushing and removing (R388) -/

/-- The flip: every slot becomes the fold from its value to the newest, and the aggregate the identity. -/
def Group.flipSlide (g : Group) (d : Slide) (m : Mask) : Group :=
  let reg (g : Group) (k : Nat) : Lanes := g.v.getD k Lanes.zero
  let step (acc : Group × Lanes) (k : Nat) : Group × Lanes :=
    let x := lanes2 d.apply (reg acc.1 (d.slot k)) acc.2
    (acc.1.setV (d.slot k) m x, x)
  let (g, _) := ((List.range (d.n - 1)).reverse).foldl step (g, reg g (d.slot (d.n - 1)))
  g.setV d.agg m (lanesFn fun _ => d.identity)

/-- The oldest value leaves, with a flip where the out stack is empty. -/
def Group.dropOldest (g : Group) (d : Slide) (m : Mask) : Group × Slide :=
  let (g, nout) := if d.nout = 0 then (g.flipSlide d m, d.n) else (g, d.nout)
  (g, { d with head := (d.head + 1) % d.cap, nout := nout - 1, n := d.n - 1 })

/-- A push of one value per lane. -/
def Group.pushSlide (g : Group) (k : Nat) (m : Mask) (x : Lanes) : Group :=
  let d := g.slide k
  let (g, d) := if d.n = d.win then g.dropOldest d m else (g, d)
  let g := g.setV (d.slot d.n) m x
  let g := g.setV d.agg m (lanes2 d.apply (g.v.getD d.agg Lanes.zero) x)
  g.setSlide k { d with n := d.n + 1, pushes := d.pushes + 1 }

/-- The value that SLREAD writes in a lane (R389). -/
def Group.readSlide (g : Group) (k lane : Nat) : Word :=
  let d := g.slide k
  let reg (j : Nat) : Word := (g.v.getD j Lanes.zero).toArray.getD lane 0
  if d.n = 0 then d.identity
  else if d.nout = 0 then reg d.agg
  else if d.n = d.nout then reg (d.slot 0)
  else d.apply (reg (d.slot 0)) (reg d.agg)

/-- A new length (R390): the values beyond it leave, oldest first. -/
def Group.resizeSlide (g : Group) (k : Nat) (m : Mask) (w : Nat) : Group :=
  let d := g.slide k
  let (g, d) := (List.range (d.n - w)).foldl (fun (x : Group × Slide) _ => x.1.dropOldest x.2 m) (g, d)
  g.setSlide k { d with win := w }

/-! ### Waits and checks (R386) -/

/-- The storage of a descriptor as registers that an instruction reads, and writes when told: all lanes of the group. -/
def slideUses (w : Bool) (k : Nat) (_ : State) (i : Iss) : Uses :=
  let d := i.g.slide k
  if !d.bound then {}
  else { rv := d.storage, wv := if w && !i.hasSet then d.storage else [], lanes := if w then i.t.lanes else 0 }

/-- What group-shared state asks of a strand (R138, R386): SCALW with a write set, else a wait on earlier strands that share a lane. -/
def State.slideShared (s : State) (i : Iss) (k : State → Res Unit) : Res Unit :=
  if i.hasSet then .trap s scalw else if i.g.sharesEarlier i.st then .hold s 0 else k s

/-- A descriptor must be bound, with its storage inside VREGS (R121, R386). -/
def State.slideBound (s : State) (i : Iss) (k : Nat) (f : State → Res Unit) : Res Unit :=
  let d := i.g.slide k
  if !d.bound ∨ i.g.vregs ≤ d.base + d.cap then .trap s (illenc k) else f s

/-- Whether registers that an instruction finds out when it runs are still pending (R149, R261). -/
def Iss.busyRegs (i : Iss) (ks : List Nat) : Bool :=
  let u : Uses := { rv := ks, wv := ks, lanes := i.t.lanes }
  u.touches (i.g.pendingFor i.r.num i.t.lanes) || i.g.marked u || i.g.setHolds i.st u

/-! ### Images (R392) -/

/-- The pieces of an image checked and translated before any byte moves; none when a page is non-resident. -/
def State.imageTargets (s : State) (i : Iss) (a : DWord) (n : Nat) (need : Need) : Res (Option (List Target)) :=
  let fail (s : State) (c : Nat) : Res (Option (List Target)) :=
    match laneTrap i.st.mask (fun _ => c) (fun _ => a) with
    | some t => .trap s t
    | none => .trap s { cause := laneCauseCode c }
  if apertureOf a ≠ .global ∧ apertureOf a ≠ .scratch then fail s laneApert
  else if a.toNat % 128 ≠ 0 then fail s laneAlign
  else
    (List.range n).foldl (fun (r : Res (Option (List Target))) k => r.bind fun s ts =>
      match s.target i.t i.g 0 (a + BitVec.ofNat 64 (128 * k)) 128 need false with
      | (s, .ok .nonres) => .ok s none
      | (s, .ok t) => .ok s (ts.map (· ++ [t]))
      | (s, .fault c) => fail s c
      | (s, .hold) => .hold s 0
      | (s, .abort x) => .gone s x) (.ok s (some []))

/-- The key under which a peer's line stands while an image is read (R185). -/
def imageLine (dev : BitVec 10) (pa : Nat) : Nat := 2 ^ 60 + peerLine dev pa

/-- One 128-byte piece of an image read; none when its peer finds it non-resident. -/
def State.readPiece (s : State) (i : Iss) (t : Target) : Res (Option (List Byte)) :=
  match t with
  | .phys va pa =>
    if pa < 65536 then .ok s (some (s.physBytes pa 128))
    else if s.bad pa 128 then .gone s (s.spot pa 128)
    else match s.loadGlobal (s.whoTeam i.t) i.t va pa 128 1 0 with
      | some (s, b) => .ok s (some b)
      | none => .hold s 0
  | .scratch m o =>
    match s.member? i.t.bent m with
    | some u => if u.badScratch o 128 then .gone s (scratchSpot u.core) else .ok s (some (memRead u.scratch o 128))
    | none => .hold s 0
  | .remote d _ pa =>
    let key := imageLine d pa
    match (s.core i.t.core).kcache.find? (·.line = key) with
    | some l => if l.err = 0 then .ok s (some l.data) else if l.err = 5 then .ok s none else if l.err = 6 then .gone s peerSpot
        else match laneTrap i.st.mask (fun _ => laneProt) (fun _ => i.addrOnce) with
          | some t => .trap s t
          | none => .hold s 0
    | none =>
      if s.outstanding.any fun r => r.want = .line i.t.core key false then .hold s 0
      else match s.request d (readTxn i.t.ctx pa 128) (.line i.t.core key false) with
        | .sent s => .hold s 0
        | .full => .hold s 0
        | .noPort => match laneTrap i.st.mask (fun _ => laneProt) (fun _ => i.addrOnce) with
          | some t => .trap s t
          | none => .hold s 0
  | _ => .ok s none

/-- The pieces of an image read in order. -/
def State.readPieces (s : State) (i : Iss) : List Target → Res (Option (List Byte))
  | [] => .ok s (some [])
  | t :: ts => (s.readPiece i t).bind fun s b => (s.readPieces i ts).bind fun s bs =>
    .ok s (match b, bs with
      | some x, some y => some (x ++ y)
      | _, _ => none)

/-- Lines of peers that were read for an image are not kept (R216). -/
def State.dropImageLines (s : State) (core : Nat) : State := s.modCore core fun c => { c with kcache := c.kcache.filter fun l => decide (l.line < 2 ^ 60) }

/-- Whether a store part of the strand's lanes that comes before the instruction is unreleased (R392): its own, and what ended strands before it have left. Whatever is in the buffer has been issued. -/
def Iss.storesWait (i : Iss) : Bool := i.g.sb.any fun e => e.precedes i.r.num i.st.order (e.id + 1) && e.parts.any fun p =>
  !p.released && (e.sid = i.r.num || decide (32 ≤ p.lane) || i.st.mask.getLsbD p.lane)

/-- A vector register as 128 bytes (R392). -/
def lanesBytes (x : Lanes) : List Byte := x.toList.flatMap fun w => leBytes w.toNat 4

/-- A vector register from 128 bytes. -/
def bytesLanes (b : List Byte) : Lanes := lanesFn fun l => BitVec.ofNat 32 (leNat ((b.drop (4 * l)).take 4))

/-- The image of a descriptor: its head, then its storage (R392). -/
def Group.slideImage (g : Group) (k : Nat) : List (List Byte) :=
  let d := g.slide k
  if d.bound then (d.bytes ++ List.replicate 112 0) :: d.storage.map fun j => lanesBytes (g.v.getD j Lanes.zero)
  else [List.replicate 128 0]

/-- The outcome of an image whose page is non-resident: p7 is set and nothing moves (R188, R392). -/
def State.imageNonres (s : State) (i : Iss) : Res Unit := (s.dropImageLines i.t.core).done i fun g => g.setP 7 i.st.mask i.st.mask

/-- The registers of SLSAVE and SLLOAD beyond their fields: p7, and the storage that SLSAVE reads. -/
def imageUses (save : Bool) (k : Nat) (s : State) (i : Iss) : Uses :=
  let u : Uses := { wp := if i.hasSet then [] else [7] }
  if save then u.join { slideUses false k s i with lanes := i.t.lanes } else u

/-! ### The meanings -/

/-- SLDEF (R387). -/
def execSldef (x : XForm) (s : State) : Out :=
  let e := x.enc 0x97
  s.issue e fun s i => s.slideShared i fun s =>
    let b := i.scalarB.toNat
    let cap := bitsOf b 0 7
    let w := bitsOf b 8 7
    let tyOk := if 6 ≤ e.sub then e.ty = 0 else e.ty = 9 || e.ty = 10
    if !tyOk ∨ cap = 0 ∨ 64 < cap ∨ w = 0 ∨ cap < w ∨ i.g.vregs ≤ e.a.toNat + cap then .trap s (illenc e.d.toNat)
    else if i.busyRegs [e.a.toNat + cap] then .hold s 0
    else
      let d : Slide := ⟨true, e.sub, e.ty = 10 && (e.sub = 1 || e.sub = 2), e.a.toNat, cap, w, 0, 0, 0, 0⟩
      s.done i fun g => (g.setSlide e.d.toNat d).setV d.agg i.t.lanes (lanesFn fun _ => d.identity)

/-- SLPUSH (R388): a lane outside MASK pushes the identity. -/
def slpushOp (x : Enc) (s : State) : Out :=
  s.issueWith x (slideUses true x.d.toNat) fun s i => s.slideBound i x.d.toNat fun s => s.slideShared i fun s =>
    let d := i.g.slide x.d.toNat
    let v := lanesFn fun l => if i.st.mask.getLsbD l then (i.srcA false l).extractLsb' 0 32 else d.identity
    s.done i fun g => g.pushSlide x.d.toNat i.t.lanes v
def execSlpush (x : SForm) (s : State) : Out := slpushOp (x.enc 0x98) s
def execSlpushExtended (x : XForm) (s : State) : Out := slpushOp (x.enc 0x98) s

/-- SLREAD (R389). -/
def slreadOp (x : Enc) (s : State) : Out :=
  s.issueWith x (slideUses false x.a.toNat) fun s i => s.slideBound i x.a.toNat fun s =>
    s.done i fun g => g.commit i.r.num i.st.mask { v := [(x.d.toNat, lanesFn (i.g.readSlide x.a.toNat))] }
def execSlread (x : SForm) (s : State) : Out := slreadOp (x.enc 0x99) s
def execSlreadExtended (x : XForm) (s : State) : Out := slreadOp (x.enc 0x99) s

/-- SLSETW (R390). -/
def execSlsetw (x : XForm) (s : State) : Out :=
  let e := x.enc 0x9A
  s.issueWith e (slideUses true e.d.toNat) fun s i => s.slideBound i e.d.toNat fun s => s.slideShared i fun s =>
    let w := bitsOf i.scalarB.toNat 0 7
    if w = 0 ∨ (i.g.slide e.d.toNat).cap < w then .trap s (illenc e.d.toNat)
    else s.done i fun g => g.resizeSlide e.d.toNat i.t.lanes w

/-- SLRESET (R391). -/
def execSlreset (x : SForm) (s : State) : Out :=
  let e := x.enc 0x9B
  s.issueWith e (slideUses true e.d.toNat) fun s i => s.slideBound i e.d.toNat fun s => s.slideShared i fun s =>
    s.done i fun g =>
      let d := g.slide e.d.toNat
      (g.setSlide e.d.toNat { d with n := 0, nout := 0, head := 0, pushes := 0 }).setV d.agg i.t.lanes (lanesFn fun _ => d.identity)

/-- SLSAVE (R392): the image leaves as stores of the strand, one part for each piece. -/
def execSlsave (x : XForm) (s : State) : Out :=
  let e := x.enc 0x9C
  s.issueWith e (imageUses true e.d.toNat) fun s i => s.slideShared i fun s =>
    let image := i.g.slideImage e.d.toNat
    if i.storesWait ∨ i.g.bufferFull i.st 0 then .hold s 0
    else (s.imageTargets i i.addrOnce image.length .write).bind fun s ts =>
      match ts with
      | none => s.imageNonres i
      | some ts =>
        let part (p : (Target × List Byte) × Nat) : StorePart := ⟨pieceLane p.2, p.1.1, p.1.2, false⟩
        s.done i fun g => (g.addStore i false false 7 ((ts.zip image).zipIdx.map part)).setP 7 i.st.mask 0

/-- SLLOAD (R392): the head is read first, for it names the rest. -/
def execSlload (x : XForm) (s : State) : Out :=
  let e := x.enc 0x9D
  s.issueWith e (imageUses false e.d.toNat) fun s i => s.slideShared i fun s =>
    if i.storesWait then .hold s 0
    else (s.imageTargets i i.addrOnce 1 .read).bind fun s hs =>
      match hs with
      | none => s.imageNonres i
      | some hs => (s.readPieces i hs).bind fun s head =>
        match head with
        | none => s.imageNonres i
        | some head =>
          let n := if (leNat (head.take 8)).testBit 63 then bitsOf (leNat (head.take 8)) 41 7 + 1 else 0
          (s.imageTargets i i.addrOnce (n + 1) .read).bind fun s ts =>
            match ts, Slide.ofBytes i.g.vregs head with
            | none, _ => s.imageNonres i
            | some _, none => .trap (s.dropImageLines i.t.core) (illenc e.d.toNat)
            | some ts, some d =>
              if !d.bound then (s.dropImageLines i.t.core).done i fun g => (g.setSlide e.d.toNat .unbound).setP 7 i.st.mask 0
              else if i.busyRegs d.storage then .hold s 0
              else (s.readPieces i (ts.drop 1)).bind fun s body =>
                match body with
                | none => s.imageNonres i
                | some body => (s.dropImageLines i.t.core).done i fun g =>
                    let g := (g.setSlide e.d.toNat d).setP 7 i.st.mask 0
                    (List.range (d.cap + 1)).foldl (fun (g : Group) j => g.setV (d.base + j) i.t.lanes (bytesLanes ((body.drop (128 * j)).take 128))) g

end Sys2Proof.Machine
end

