-- ==== Sys2Proof/Machine/Strands.lean ====
section
/-! DEFINITION. Control and strand instructions, opcodes 0x00 to 0x0D (R129 to R136, R352 to R361). -/
namespace Sys2Proof.Machine

/-! ### Folds -/

/-- The first element of a list that a test picks is changed, or removed where it becomes none. -/
def changeFirst {α : Type} (p : α → Bool) (f : α → Option α) : List α → List α
  | [] => []
  | x :: r => if p x then (match f x with
    | some y => y :: r
    | none => r) else x :: changeFirst p f r

/-- The top fold record of a strand changed, or popped where it becomes none (R132). -/
def Group.changeTop (g : Group) (num : Nat) (f : FoldRec → Option FoldRec) : Group :=
  { g with folds := (changeFirst (fun r => r.sid = num) f g.folds.reverse).reverse }

/-- The strand's step on its top fold record at ENDARM (R133): the not-taken arm, or the join target with the record popped. -/
def Group.foldStep (g : Group) (num : Nat) : Group :=
  match (g.folds.filter (·.sid = num)).getLast? with
  | none => g
  | some f =>
    if !f.phase ∧ f.nmask ≠ 0 then
      (g.changeTop num fun f => some { f with phase := true }).modStrand num fun st => { st with mask := f.nmask, pc := f.npc }
    else
      (g.changeTop num fun _ => none).modStrand num fun st =>
        { st with mask := f.tmask ||| f.nmask, pc := f.jpc, taken := f.tmask, folds := st.folds - 1 }

/-- Folded steps while the MASK is empty and a record is left (R136); fuel is twice the records. -/
def Group.foldSteps (num : Nat) : Nat → Group → Group
  | 0, g => g
  | n + 1, g =>
    let st := g.strand num
    if st.mask = 0 ∧ st.folds ≠ 0 then Group.foldSteps num n (g.foldStep num) else g

/-- A strand ends (R127). -/
def Group.endStrand (g : Group) (num : Nat) : Group :=
  g.modStrand num fun st => { st with state := .ended, park := none, why := 0, rel := none }

/-! ### FORK -/

/-- The write-set descriptor (R130): words read in turn, each within the window's length. -/
def State.readSet (s : State) (i : Iss) : Nat → List Word → Res (List Word)
  | 0, ws => .ok s ws
  | n + 1, ws =>
    let o := i.x.ofs + ws.length
    match (i.t.wins.getD i.x.win none) with
    | none => .trap s (illenc i.x.win)
    | some len =>
      if len < o then .trap s (illenc i.x.win)
      else (s.windowWord i.t i.x.win o).bind fun s w => s.readSet i n (ws ++ [w])

/-- VSET of a descriptor; bits at or above the group's count are ignored (R130). -/
def setOf (ws : List Word) (vregs : Nat) : BitVec 256 :=
  let n := (ws.take 8).foldr (fun w n => w.toNat + 2 ^ 32 * n) 0
  BitVec.ofNat 256 (n % 2 ^ vregs)

/-- Entries of the strand table that hold no strand. -/
def Group.freeEntries (g : Group) : List Nat := (List.range 16).filter fun k => !(g.strand k).valid

/-- An arm of a FORK (R129). -/
def Strand.arm_ (st : Strand) (num : Nat) (m : Mask) (pc : DWord) (digit : BitVec 2) (vs : BitVec 256) (ps : BitVec 8) (cycle : Nat) : Strand :=
  { Strand.free with valid := true, pc := pc, mask := m, order := st.order ++ [digit], arm := true, parent := BitVec.ofNat 5 num
                     vset := vs, pset := ps, priv := st.priv, readyAt := cycle }

/-- The effect of FORK on the group (R129): arms in the lowest free entries, the taken arm first, and the strand as the continuation. -/
def Group.fork (g : Group) (num : Nat) (t n : Mask) (taken next join : DWord) (vs : BitVec 256) (ps : BitVec 8) (cycle : Nat) : Group :=
  let st := g.strand num
  let arms := (if t ≠ 0 then [(t, taken, 0#2)] else []) ++ (if n ≠ 0 then [(n, next, 1#2)] else [])
  let g := (arms.zip g.freeEntries).foldl (fun (g : Group) (a, k) =>
    { g with strands := vmod g.strands k fun _ => st.arm_ num a.1 a.2.1 a.2.2 vs ps cycle }) g
  (g.advance num join cycle).modStrand num fun st => { st with order := st.order ++ [2#2], taken := t }

/-- The folded FORK (R132). -/
def Group.foldFork (g : Group) (num : Nat) (t n : Mask) (taken next join : DWord) (vs : BitVec 256) (ps : BitVec 8) (cycle : Nat) : Group :=
  let f : FoldRec := ⟨num, join, t, n, t = 0, next &&& 0x01FFFFFFFFFFFFFC#64, vs, ps⟩
  let g := g.advance num (if t ≠ 0 then taken else next) cycle
  { (g.modStrand num fun st => { st with mask := if t ≠ 0 then t else n, folds := st.folds + 1 }) with folds := g.folds ++ [f] }

/-- FORK (R129 to R132, R358). -/
def forkOp (s : State) (i : Iss) : Res Unit :=
  (s.readSet i 9 []).bind fun s ws =>
    let w8 := ws.getD 8 0
    if w8.extractLsb' 8 24 ≠ 0 ∨ w8.getLsbD 0 then .trap s (illenc i.x.win)
    else
      let vs := setOf ws i.g.vregs
      let ps := w8.extractLsb' 0 8
      let outV := (List.range 256).find? fun k => vs.getLsbD k && !i.curSet.1.getLsbD k
      let outP := (List.range 8).find? fun k => ps.getLsbD k && !i.curSet.2.getLsbD k
      match (if i.hasSet then outV.or outP else none) with
      | some k => .trap s (undecl k)
      | none =>
        if 15 ≤ i.st.order.length + i.st.folds then .trap s { cause := 0x0D#8 }
        else
          let p := i.pred i.x.a.toNat
          let t := i.st.mask &&& p
          let n := i.st.mask &&& ~~~p
          let need := (if t ≠ 0 then 1 else 0) + (if n ≠ 0 then 1 else 0)
          let taken := i.st.pc + (i.x.lit.extractLsb' 0 32).signExtend 64
          let join := i.st.pc + (i.x.lit.extractLsb' 32 32).signExtend 64
          if i.g.freeEntries.length < need then
            if i.g.earliest i.st then
              .ok (s.modGroup i.r.g fun g => g.foldFork i.r.num t n taken i.nextPc join vs ps s.cycle) ()
            else .hold s 0
          else .ok (s.modGroup i.r.g fun g => (g.fork i.r.num t n taken i.nextPc join vs ps s.cycle).collapse 256) ()

/-! ### SEAL, JOIN, ENDARM, EXIT -/

/-- SEAL (R134). -/
def Group.seal (g : Group) (num : Nat) (pred : Bool) (k : Nat) : Group :=
  let vb := 1#256 <<< k
  let pb := 1#8 <<< k
  let st := g.strand num
  if st.folds ≠ 0 then
    g.changeTop num fun f => some (if pred then { f with fpset := f.fpset &&& ~~~pb } else { f with fvset := f.fvset &&& ~~~vb })
  else if st.arm then
    (g.modStrand num fun st => if pred then { st with pseal := st.pseal ||| (pb &&& st.pset) } else { st with vseal := st.vseal ||| (vb &&& st.vset) }).settleSeals num
  else g

def sealOp (x : Enc) (s : State) : Out :=
  s.issue x fun s i => s.done i fun g => g.seal i.r.num (i.x.sub = 1) i.x.d.toNat

/-- JOIN (R135): field B6 or B holds the not-taken register. -/
def joinOp (x : Enc) (s : State) : Out :=
  s.regOp x fun i =>
    let f := if x.form = .s then x.b6.toNat else x.b.toNat
    { v := [(x.d.toNat, lanesFn fun l => if i.st.taken.getLsbD l then i.vreg x.a.toNat l else i.vreg f l)] }

/-- ENDARM (R133). -/
def endarmOp (s : State) (i : Iss) : Res Unit :=
  if i.st.folds ≠ 0 then s.doneAt i i.st.pc fun g => g.foldStep i.r.num
  else if !i.st.arm then .trap s illop
  else (s.doneAt i i.st.pc fun g => (g.endStrand i.r.num).collapse 256).bind fun s _ => .ok (s.judgeBars i.t) ()

/-- Lanes taken out of a later strand's held store parts (R136). A scalar store whose remaining parts have been released keeps one part, by which it is performed (R402). -/
def StoreEntry.dropLanes (e : StoreEntry) (m : Mask) : Option StoreEntry :=
  let kept := e.parts.filter fun p => p.released || !m.getLsbD p.lane
  if kept.any (!·.released) then some { e with parts := kept }
  else if !e.scalar then none
  else match kept.getLast? with
    | none => none
    | some p => some { e with parts := kept.dropLast ++ [{ p with released := false }] }

/-- Lanes leave the group (R136): the later strands lose them, with their held store parts, ungated load parts and fold records; stores that come before the strand's own stay (R141). -/
def Group.leave (g : Group) (num : Nat) (m : Mask) : Group :=
  let strands := (g.strands.toList.zipIdx).map fun (st, k) => if k = num || !st.valid then st else { st with mask := st.mask &&& ~~~m }
  let sb := g.sb.filterMap fun e => if orderBefore (g.strand num).order e.order then e.dropLanes m else some e
  let loads := g.loads.map fun (l : Load) => if l.sid = num || l.sid = handlerSid then l
    else { l with parts := l.parts.filter fun p => !(p.st = .gated && m.getLsbD p.lane) }
  let folds := g.folds.map fun (f : FoldRec) => { f with tmask := f.tmask &&& ~~~m, nmask := f.nmask &&& ~~~m }
  let g := { g with strands := Vector.ofFn fun k => strands.getD k.val Strand.free, sb := sb, loads := loads, folds := folds, gone := g.gone ||| m }
  let emptied (k : Nat) : Bool := let st := g.strand k; k ≠ num && st.valid && st.state ≠ .ended && st.mask = 0
  ((List.range 16).filter emptied).foldl (fun (g : Group) k =>
    let g := g.foldSteps k 32
    if (g.strand k).mask = 0 then g.endStrand k else g.modStrand k fun st => { st with state := .ready, park := none, why := 0 }) g

/-- The issuing strand after its lanes have left (R136): folded steps, or its end. -/
def Group.exitStrand (g : Group) (num : Nat) : Group :=
  let g := if (g.strand num).folds = 0 then g.endStrand num
    else
      let g := (g.modStrand num fun st => { st with mask := 0 }).foldSteps num 32
      if (g.strand num).mask = 0 then g.endStrand num else g
  let g := g.collapse 256
  if g.gone = 0xFFFFFFFF#32 then { g with ended := true } else g

/-- A collecting register that holds a signature of the group (R172). -/
def State.signedBy (s : State) (t : Team) (gidx : Nat) : Option ConvReg :=
  (((s.core t.core).convs.toList.filterMap id).find? fun c => c.ctx = t.ctx && c.vteam = t.vteam && c.sigs.any (·.gidx = gidx))

/-- Receivers that no longer park leave the mailboxes' lists (R127, R168). -/
def Team.dropWaiters (t : Team) (gidx : Nat) : Team :=
  match t.group? gidx with
  | none => t
  | some g => { t with waiters := t.waiters.filter fun w => w.gidx ≠ gidx || match (g.strand w.sid).park with
      | some (.recv _ _) => true
      | _ => false }

/-- EXIT (R136, R172). -/
def exitOp (s : State) (i : Iss) : Res Unit :=
  match s.signedBy i.t i.g.gidx with
  | some c => .hold s (waitDesc 8 (c.name + 16))
  | none =>
    (s.doneAt i i.st.pc fun g => (g.leave i.r.num i.st.mask).exitStrand i.r.num).bind fun s _ =>
      let s := s.modTeam i.t.ctx i.t.vteam (·.dropWaiters i.g.gidx)
      .ok ((s.judgeBars i.t).settleGroup i.r.g) ()

/-! ### SPAWN (R110, R361) -/

/-- Where a thread of a key goes: the bin of the key with room, else a free bin; none when the matching bin is full or no bin is free but for the ones that a saved bent is about to take (R110, R112). -/
def State.binFor (s : State) (t : Team) (role entry : Nat) : Option Nat :=
  let c := s.core t.core
  let isKey (k : Nat) : Bool := match c.bins.getD k none with
    | some b => b.ctx = t.ctx && b.vteam = t.vteam && b.role = role && b.entry = entry
    | none => false
  match (List.range 16).find? isKey with
  | some k => match c.bins.getD k none with
    | some b => if b.args.length < 32 then some k else none
    | none => none
  | none => if s.freeBins t.core = 0 then none else (List.range 16).find? fun k => (c.bins.getD k none).isNone

/-- The bin that a waiting SPAWN waits for. -/
def State.binWhy (s : State) (t : Team) (role entry : Nat) : DWord :=
  let c := s.core t.core
  let isKey (k : Nat) : Bool := match c.bins.getD k none with
    | some b => b.ctx = t.ctx && b.vteam = t.vteam && b.role = role && b.entry = entry
    | none => false
  waitDesc 7 (((List.range 16).find? isKey).getD 0)

/-- One thread placed, and a full bin launched at once if an index is free (R110, R111). -/
def State.placeThread (s : State) (t : Team) (role entry slot : Nat) (arg : DWord) : State :=
  let put (o : Option SpawnBin) : Option SpawnBin := match o with
    | some b => some { b with args := b.args ++ [arg], times := b.times ++ [s.cycle] }
    | none => some ⟨t.ctx, t.vteam, role, entry, [s.cycle], [arg]⟩
  let s := s.modCore t.core fun c => { c with bins := vmod c.bins slot put }
  match (s.core t.core).bins.getD slot none with
  | some b => if t.binSize ≤ b.args.length then s.tryBin t.core slot else s
  | none => s

/-- Lanes placed in increasing order until one finds no room (R110): the state and the lanes left. -/
def State.placeLanes (s : State) (i : Iss) (role entry : Nat) : List Nat → State × List Nat
  | [] => (s, [])
  | l :: r =>
    match s.binFor i.t role entry with
    | none => (s, l :: r)
    | some k => (s.placeThread i.t role entry k (i.vpair i.x.a.toNat l)).placeLanes i role entry r

def spawnOp (s : State) (i : Iss) : Res Unit :=
  let role := i.x.sub
  if i.t.nroles ≤ role ∨ !(i.t.roles.getD role Role.none).spawn then .trap s (illenc role)
  else s.afterRelease i .team fun s i =>
    let entry := i.target.toNat
    let (s, left) := s.placeLanes i role entry (lanesOf (i.active &&& ~~~i.st.placed))
    if left = [] then s.done i id
    else .hold (s.modStrand i.r fun st => { st with placed := i.active &&& ~~~(maskOf (left.contains ·)) }) (s.binWhy i.t role entry)

/-! ### The meanings -/

/-- NOP (R356). -/
def execNop (x : SForm) (s : State) : Out := s.issue (x.enc 0x00) fun s i => s.done i id
/-- NOP, extended (R356). -/
def execNopExtended (x : XForm) (s : State) : Out := s.issue (x.enc 0x00) fun s i => s.done i id

/-- BRA (R353): the lowest lane of MASK decides; the L form always branches. -/
def execBra (x : XForm) (s : State) : Out := s.issue (x.enc 0x01) fun s i =>
  let pass := match lowLane i.st.mask with
    | some l => i.active.getLsbD l
    | none => false
  s.doneAt i (if pass then i.target else i.nextPc) id

/-- FORK (R129, R358). -/
def execFork (x : XForm) (s : State) : Out := s.issue (x.enc 0x02) forkOp

/-- SEAL (R134, R359). -/
def execSeal (x : SForm) (s : State) : Out := sealOp (x.enc 0x03) s
/-- SEAL, extended (R134, R359). -/
def execSealExtended (x : XForm) (s : State) : Out := sealOp (x.enc 0x03) s

/-- JOIN (R135, R359). -/
def execJoin (x : SForm) (s : State) : Out := joinOp (x.enc 0x04) s
/-- JOIN, extended (R135, R359). -/
def execJoinExtended (x : XForm) (s : State) : Out := joinOp (x.enc 0x04) s

/-- ENDARM (R133). -/
def execEndarm (x : SForm) (s : State) : Out := s.issue (x.enc 0x05) endarmOp

/-- CALL (R354). -/
def execCallSub (x : XForm) (s : State) : Out := s.issue (x.enc 0x06) fun s i =>
  s.doneAt i i.target fun g => g.setScalar i.r.num 159 i.nextPc

/-- RET (R354). -/
def execRet (x : SForm) (s : State) : Out := s.issue (x.enc 0x07) fun s i => s.doneAt i (i.scalar 159 &&& ~~~3#64) id

/-- LOOP (R355). -/
def execLoopTo (x : XForm) (s : State) : Out := s.issue (x.enc 0x08) fun s i =>
  let t := i.scalar i.x.a - 1
  s.doneAt i (if t ≠ 0 then i.target else i.nextPc) fun g => g.setScalar i.r.num i.x.a.toNat t

/-- EXIT (R136, R360). -/
def execExitStrand (x : SForm) (s : State) : Out := s.issue (x.enc 0x09) exitOp

/-- SPAWN (R110, R361). -/
def execSpawn (x : XForm) (s : State) : Out := s.issue (x.enc 0x0A) spawnOp

/-- YIELD (R356). -/
def execYieldStrand (x : SForm) (s : State) : Out := s.issue (x.enc 0x0B) fun s i =>
  s.done i fun g => g.modStrand i.r.num fun st => { st with yieldFor := 64 }

/-- BKPT (R357). -/
def execBkpt (x : SForm) (s : State) : Out := s.issue (x.enc 0x0C) fun s _ => .trap s { cause := 0x23#8 }
/-- TRAP (R357). -/
def execTrapCode (x : SForm) (s : State) : Out := s.issue (x.enc 0x0D) fun s _ => .trap s { cause := 0x22#8 }

/-- An encoding that the opcode map does not list raises ILLOP (R317, R327). -/
def execIllegalOpcode (w w1 : Word) (s : State) : Out :=
  match s.cur with
  | none => .fault .noStrand
  | some r =>
    match s.iss? r (Enc.ofWords w w1 0 0 0) with
    | none => .fault .noStrand
    | some i => if i.g.inWindows r.num (Enc.endsWindow i.x) then .next (s.takeTrap r { illop with la := i.x.la }) else .next (s.holdStrand r {})

end Sys2Proof.Machine
end

