-- ==== Sys2Proof/Machine/SystemOps.lean ====
section
/-! DEFINITION. System instructions, opcodes 0xE0 to 0xE7, which the handler strand issues (R274, R275, R435 to R441), and the layouts that they move (R126, R132, R271, R279). -/
namespace Sys2Proof.Machine

/-! ### Trap return -/

/-- A frozen pass goes back to the head of its engine's table once no handler of its team holds it (R439). -/
def State.unfreeze (s : State) (t : Team) (gidx : Nat) : State :=
  let s := s.modTeam t.ctx t.vteam fun t => { t with frozen := t.frozen.filter (· ≠ gidx) }
  if (t.frozen.filter (· ≠ gidx)) ≠ [] then s
  else
    let thaw (e : Engine) : Engine := match e.freeze with
      | some p => if p.ctx = t.ctx && p.vteam = t.vteam then { e with freeze := none, table := { p with first := true } :: e.table } else e
      | none => e
    { s with engines := s.engines.map thaw }

/-- The word of a TRET as its fields. -/
def tretEnc (w : Word) : Enc := { Enc.ofWords w 0 0 0 0 with form := .s }

/-- TRET in the form resume (R275, R436). -/
def execTret (s : State) : Out :=
  s.issue (tretEnc 0x00000380#32) fun s i =>
    let s := (s.issueEnergy i).modGroup i.r.g fun g => { g.resume with watch := 0 }
    .ok ((s.unfreeze i.t i.g.gidx).judgeBars i.t) ()

/-- TRET.kill (R275): the bent is killed under R61. -/
def execTretKill (s : State) : Out :=
  s.issue (tretEnc 0x04000380#32) fun s i => .ok (s.killBent i.t.bent i.g.record.gcause 0 0 3 (64 * i.t.core) true) ()

/-- TRET.fail (R275): the grid fails. -/
def execTretFail (s : State) : Out :=
  s.issue (tretEnc 0x08000380#32) fun s i => match s.bent? i.t.bent with
    | some b => .ok (s.failGrid b.record b.die i.g.record.gcause) ()
    | none => .ok s ()

/-! ### Layouts -/

/-- An entry of the strand table (R126). -/
def Strand.bytes (st : Strand) : List Byte :=
  if !st.valid then List.replicate 128 0
  else leBytes st.pc.toNat 8 ++ leBytes st.mask.toNat 4 ++ leBytes st.taken.toNat 4 ++ leBytes (packOrder st.order).toNat 4
    ++ leBytes (st.order.length % 16 + st.state.code * 16 + (if st.arm then 64 else 0) + 128) 1 ++ leBytes st.parent.toNat 1 ++ leBytes st.evn.toNat 1
    ++ leBytes (st.folds % 16) 1 ++ leBytes (st.vset &&& ~~~st.vseal).toNat 32 ++ leBytes (st.pset &&& ~~~st.pseal &&& 0xFE#8).toNat 1 ++ List.replicate 7 0
    ++ st.priv.toList.flatMap (fun w => leBytes w.toNat 8) ++ List.replicate 32 0

/-- The strand table (R126). -/
def Group.tableBytes (g : Group) : List Byte := g.strands.toList.flatMap (·.bytes)

/-- A fold record (R132). -/
def FoldRec.bytes (f : FoldRec) : List Byte :=
  leBytes f.jpc.toNat 8 ++ leBytes f.tmask.toNat 4 ++ leBytes f.nmask.toNat 4 ++ leBytes (if f.phase then 1 else 0) 1
    ++ leBytes (f.npc.toNat / 4 % 2 ^ 55) 7 ++ leBytes f.fvset.toNat 32 ++ leBytes (f.fpset &&& 0xFE#8).toNat 1 ++ List.replicate 7 0

/-- The fold stack (R132): records from the bottom up, zero beyond the last. -/
def Group.foldBytes (g : Group) : List Byte :=
  let b := (g.folds.take 16).flatMap (·.bytes)
  b ++ List.replicate (1024 - b.length) 0

/-- An entry of the fault record (R271). -/
def FaultEntry.bytes (e : FaultEntry) : List Byte :=
  leBytes e.pc.toNat 8 ++ leBytes e.cause.toNat 1 ++ leBytes e.la.toNat 1 ++ leBytes e.shadow.toNat 2 ++ leBytes e.lanes.toNat 4 ++ leBytes e.faddr.toNat 8
    ++ leBytes e.lcause.toNat 16 ++ leBytes e.detail.toNat 8

/-- The fault record (R271). -/
def FaultRecord.bytes (r : FaultRecord) : List Byte :=
  leBytes r.fset.toNat 2 ++ leBytes r.gcause.toNat 1 ++ leBytes r.primary.toNat 1 ++ List.replicate 4 0 ++ leBytes r.time.toNat 8 ++ List.replicate 48 0
    ++ r.faults.toList.flatMap (·.bytes)
    ++ r.tree.toList.flatMap (fun t => leBytes t.word.toNat 8 ++ leBytes t.mask.toNat 4 ++ leBytes t.order.toNat 4)
    ++ r.waits.toList.flatMap (fun w => leBytes w.toNat 8) ++ List.replicate 64 0

/-- The image of a part (R437). -/
def Group.partBytes (g : Group) (part : Nat) : List Byte :=
  match part with
  | 0 => g.tableBytes
  | 1 => g.foldBytes
  | _ => g.record.bytes

/-- A binding (R162). -/
def Binding.word (b : Binding) : Nat := b.kind.toNat * 2 ^ 62 + (if b.spent then 2 ^ 61 else 0) + b.obj.toNat * 2 ^ 32 + b.val.toNat

/-- A binding from its image; none when a reserved field is set or OBJ is out of range (R438). -/
def bindingOf (v : Nat) : Option Binding :=
  let k := bitsOf v 62 2
  let obj := bitsOf v 32 6
  let val := bitsOf v 0 32
  if bitsOf v 38 23 ≠ 0 ∨ (k = 1 ∧ (32 ≤ obj ∨ 2 ≤ val)) ∨ (k = 3 ∧ (8 ≤ obj ∨ val ≠ 0)) then none
  else some ⟨BitVec.ofNat 2 k, v.testBit 61, BitVec.ofNat 6 obj, BitVec.ofNat 32 val⟩

/-- Free bytes, for a section of an image whose layout the spec does not give (R279, log 5). -/
def freeBytes (from_ n : Nat) : List Byte := (List.range n).map fun k => (Config.freeValue (from_ + k)).extractLsb' 0 8

/-- A section with free bytes to its full length. -/
def padFree (from_ n : Nat) (b : List Byte) : List Byte := b ++ freeBytes from_ (n - b.length)

/-- The group's part of a team image (R279), with free bytes where its layout is opaque. -/
def Group.contextBytes (g : Group) (f : Nat) : List Byte :=
  freeBytes f 128
    ++ (g.v.toList.take g.vregs).flatMap lanesBytes
    ++ lanesBytes g.seed
    ++ padFree (f + 128) 1280 (g.s.toList.flatMap fun w => leBytes w.toNat 8)
    ++ padFree (f + 256) 128 (g.p.toList.flatMap fun w => leBytes w.toNat 4)
    ++ g.tableBytes ++ g.foldBytes
    ++ g.slides.toList.flatMap (fun d => if d.bound then d.bytes else List.replicate 16 0)
    ++ padFree (f + 512) 256 (g.events.toList.flatMap (fun b => leBytes b.word 8) ++ leBytes g.pe.toNat 2 ++ leBytes g.em.toNat 2)
    ++ freeBytes (f + 1024) (12800 + 384)
    ++ g.record.bytes
    ++ freeBytes (f + 16384) 128

/-- A list of bytes cut into pieces of 128. -/
def pieces128 (b : List Byte) : List (List Byte) := (List.range (b.length / 128)).map fun k => (b.drop (128 * k)).take 128

/-- An image that leaves as stores of the handler strand, after the checks of R392 (R437, R438). -/
def State.saveImage (s : State) (i : Iss) (image : List (List Byte)) : Res Unit :=
  if i.g.bufferFull i.st 0 then .hold s 0
  else (s.imageTargets i i.addrOnce image.length .write).bind fun s ts =>
    match ts with
    | none => s.imageNonres i
    | some ts =>
      let part (p : (Target × List Byte) × Nat) : StorePart := ⟨pieceLane p.2, p.1.1, p.1.2, false⟩
      s.done i fun g => (g.addStore i false false 7 ((ts.zip image).zipIdx.map part)).setP 7 i.st.mask 0

/-- An image read once the handler's earlier store parts have been released (R437, R438). -/
def State.loadImage (s : State) (i : Iss) (n : Nat) (k : State → List Byte → Res Unit) : Res Unit :=
  if i.storesWait then .hold s 0
  else (s.imageTargets i i.addrOnce n .read).bind fun s ts =>
    match ts with
    | none => s.imageNonres i
    | some ts => (s.readPieces i ts).bind fun s b =>
      match b with
      | none => s.imageNonres i
      | some b => k (s.dropImageLines i.t.core) b

/-- p7, which these instructions write. -/
def flag7 (_ : State) (_ : Iss) : Uses := { wp := [7] }

/-! ### STRSAVE and STRLOAD -/

/-- PART (R435). -/
def Enc.part (x : Enc) : Nat := (x.mod.extractLsb' 0 2).toNat

/-- STRSAVE (R437). -/
def execStrsave (x : XForm) (s : State) : Out :=
  let e := x.enc 0xE1
  s.issueWith e flag7 fun s i => s.saveImage i (pieces128 (i.g.partBytes (Enc.part e)))

/-- STRLOAD of the fault record: the PC of each entry whose FSET bit is set; none for a PC that is not a multiple of 4. -/
def Group.loadFaults (g : Group) (b : List Byte) : Option Group :=
  let pc (k : Nat) : Nat := leNat ((b.drop (64 + 48 * k)).take 8)
  let ks := (List.range 16).filter fun k => g.record.fset.getLsbD k
  if ks.any fun k => decide (pc k % 4 ≠ 0) then none
  else some (ks.foldl (fun (g : Group) k =>
    let old := (g.record.faults.getD k FaultEntry.zero).pc
    if old.toNat = pc k then g
    else { g with record := { g.record with faults := vmod g.record.faults k fun e => { e with pc := BitVec.ofNat 64 (pc k) } }, repc := g.repc ||| (1#16 <<< k) }) g)

/-- What STRLOAD makes of one strand-table entry: the strand as it becomes, and whether it ends; none when a field differs that may not. -/
def Group.loadEntry (g : Group) (k : Nat) (b : List Byte) : Option (Strand × Bool) :=
  let st := g.strand k
  let cur := st.bytes
  if !st.valid then (if b = cur then some (st, false) else none)
  else
    let fset := g.record.fset.getLsbD k
    let pc := leNat (b.take 8)
    let code := bitsOf (leNat ((b.drop 20).take 1)) 4 2
    let now := st.state.code
    let ends := code = 3 && now ≠ 3 && st.arm && decide (st.folds = 0)
    let same := code = now || (decide (code ≤ 1) && decide (now ≤ 1))
    let merged := (if fset then b.take 8 else cur.take 8) ++ (b.drop 8).take 12
      ++ leBytes (leNat ((b.drop 20).take 1) - code * 16 + now * 16) 1 ++ (b.drop 21).take 43 ++ (cur.drop 64).take 32 ++ b.drop 96
    if pc % 4 ≠ 0 ∨ !(same || ends) ∨ merged ≠ cur then none
    else
      let priv := Vector.ofFn fun (j : Fin 4) => BitVec.ofNat 64 (leNat ((b.drop (64 + 8 * j.val)).take 8))
      some ({ st with pc := if fset then st.pc else BitVec.ofNat 64 pc, priv := priv }, ends)

/-- STRLOAD of the strand table (R437): none when an entry fails its check. -/
def Group.loadTable (g : Group) (b : List Byte) : Option Group :=
  let one (acc : Option Group) (k : Nat) : Option Group :=
    acc.bind fun g => (g.loadEntry k ((b.drop (128 * k)).take 128)).map fun (st, ends) =>
      let g := { g with strands := vmod g.strands k fun _ => st }
      if ends then
        let g := g.endStrand k
        { g with record := { g.record with fset := g.record.fset &&& ~~~(1#16 <<< k), faults := vmod g.record.faults k fun _ => FaultEntry.zero } }
      else g
  ((List.range 16).foldl one (some g)).map (·.collapse 256)

/-- STRLOAD (R437). -/
def execStrload (x : XForm) (s : State) : Out :=
  let e := x.enc 0xE2
  s.issueWith e flag7 fun s i =>
    let table := Enc.part e = 0
    s.loadImage i (if table then 16 else 10) fun s b =>
      match if table then i.g.loadTable b else i.g.loadFaults b with
      | none => .trap s (illenc e.a.toNat)
      | some g' =>
        (s.done i fun g => { ({ g with strands := g'.strands, sb := g'.sb, record := g'.record, repc := g'.repc }).setP 7 i.st.mask 0 with watch := 0 }).bind fun s _ =>
          .ok (s.judgeBars i.t) ()

/-! ### CTXSAVE and CTXLOAD -/

/-- Every register of a group, read or written. -/
def allRegs (i : Iss) (w : Bool) : Uses :=
  let vs := List.range i.g.vregs
  let ps := upFrom 1 7
  let ss := upFrom 1 155
  if w then { wv := vs, wp := ps, ws := ss, seed := true } else { rv := vs, rp := ps, rs := ss, wp := [7], seed := true }

/-- CTXSAVE (R438): the snapshot waits for what is in flight. -/
def execCtxsave (x : XForm) (s : State) : Out :=
  let e := x.enc 0xE3
  s.issueWith e (fun _ i => allRegs i false) fun s i =>
    if i.g.loads.any (fun l => decide (l.dest ≠ .store)) || !i.g.longs.isEmpty then .hold s 0
    else State.saveImage { s with free := s.free + 32768 } i (pieces128 (i.g.contextBytes s.free))

/-- Offset of the sections of a group's part that CTXLOAD takes (R279). -/
def ctxSeed (vregs : Nat) : Nat := 128 + 128 * vregs
def ctxSlides (vregs : Nat) : Nat := ctxSeed vregs + 128 + 1280 + 128 + 2048 + 1024

/-- The group with what CTXLOAD takes from an image (R438); none when a slide descriptor or a binding fails its check. -/
def Group.loadContext (g : Group) (lanes : Mask) (b : List Byte) : Option Group :=
  let at_ (o n : Nat) : List Byte := (b.drop o).take n
  let sd := ctxSeed g.vregs
  let sl := ctxSlides g.vregs
  let slides := (List.range 8).map fun k => Slide.ofBytes g.vregs (at_ (sl + 16 * k) 16)
  let events := (List.range 16).map fun k => bindingOf (leNat (at_ (sl + 128 + 8 * k) 8))
  if slides.any (·.isNone) || events.any (·.isNone) then none
  else
    let g := (List.range g.vregs).foldl (fun (g : Group) k => g.setV k lanes (bytesLanes (at_ (128 + 128 * k) 128))) g
    let s' := Vector.ofFn fun (k : Fin 156) => if k.val = 0 then g.s.getD 0 0 else BitVec.ofNat 64 (leNat (at_ (sd + 128 + 8 * k.val) 8))
    let p' := Vector.ofFn fun (k : Fin 8) => if k.val = 0 then g.p.getD 0 0 else BitVec.ofNat 32 (leNat (at_ (sd + 128 + 1280 + 4 * k.val) 4)) &&& lanes
    some { g with seed := bytesLanes (at_ sd 128), s := s', p := p'
                  slides := Vector.ofFn fun k => (slides.getD k.val none).getD Slide.unbound
                  events := Vector.ofFn fun k => (events.getD k.val none).getD Binding.unbound
                  pe := BitVec.ofNat 16 (leNat (at_ (sl + 256) 2)), em := BitVec.ofNat 16 (leNat (at_ (sl + 258) 2)) }

/-- CTXLOAD (R438); a strand parked in WAITANY is offered what is pending (R166). -/
def execCtxload (x : XForm) (s : State) : Out :=
  let e := x.enc 0xE4
  s.issueWith e (fun _ i => allRegs i true) fun s i =>
    s.loadImage i (154 + i.g.vregs) fun s b =>
      match i.g.loadContext i.t.lanes b with
      | none => .trap s (illenc e.a.toNat)
      | some g' =>
        (s.done i fun g => { g with v := g'.v, seed := g'.seed, s := g'.s, p := vmod g'.p 7 fun p => p &&& ~~~i.st.mask,
                                    slides := g'.slides, events := g'.events, pe := g'.pe, offers := g'.pe, em := g'.em }).bind fun s _ =>
          .ok (s.offer i.r.g) ()

/-! ### MFREEZE -/

/-- MFREEZE (R439). -/
def execMfreeze (x : SForm) (s : State) : Out :=
  s.issue (x.enc 0xE5) fun s i =>
    let k := engineOf i.t.core
    let e := s.engines.getD k Engine.reset
    let mine (p : Pass) : Bool := p.ctx = i.t.ctx && p.vteam = i.t.vteam
    if i.t.frozen.contains i.g.gidx then s.done i id
    else if e.freeze.any fun p => !mine p then .hold s 0
    else
      let e' : Engine := if e.running.any mine then { e with freeze := e.running.map (·.scanned e.active), running := none } else e
      (State.modTeam { s with engines := vmod s.engines k fun _ => e' } i.t.ctx i.t.vteam fun t => { t with frozen := t.frozen ++ [i.g.gidx] }).done i id

/-! ### CINV -/

/-- Whether an access in flight names a virtual address that meets p. -/
def Target.uses (p : Nat → Bool) : Target → Bool
  | .phys va _ => p va
  | .remote _ va _ => p va
  | _ => false

/-- The accesses in flight of a context at addresses that meet p, by group and number. -/
def State.inFlight (s : State) (ctx : BitVec 8) (p : Nat → Bool) : List (GroupRef × Nat) :=
  (s.teams.filter (·.ctx = ctx)).flatMap fun t => t.groups.flatMap fun g =>
    let es := (g.sb.filter fun e => e.parts.any fun q => !q.released && q.target.uses p).map (·.id)
    let ls := (g.loads.filter fun l => l.parts.any fun q => q.target.uses p && match q.st with
      | .gated | .remote _ => true
      | _ => false).map (·.id)
    (es ++ ls).map fun n => (⟨ctx, t.vteam, g.gidx⟩, n)

/-- Whether an access has yet to complete. -/
def State.stillUses (s : State) (u : GroupRef × Nat) : Bool :=
  match s.group? u.1 with
  | none => false
  | some g => g.sb.any (fun e => e.id = u.2) || g.loads.any fun l => l.id = u.2 && l.parts.any fun q => match q.st with
    | .gated | .remote _ => true
    | _ => false

/-- Translations dropped everywhere, with the walk-cache entries that meet w. -/
def State.dropTlb (s : State) (hit : TlbEntry → Bool) (w : WalkEntry → Bool) : State :=
  { s with cores := s.cores.map (fun c => { c with tlb := c.tlb.filter fun t => !hit t })
           l2tlb := s.l2tlb.map (fun l => l.filter fun t => !hit t)
           walkCache := s.walkCache.map (fun l => l.filter fun e => !w e) }

/-- The entries of R440 dropped, with the accesses in flight that used them. -/
def State.cinv (s : State) (sub : Nat) (a : Nat) (ctx : BitVec 8) : State × List (GroupRef × Nat) :=
  let all := s.cores.toList.flatMap (·.tlb) ++ s.l2tlb.toList.flatten
  match sub with
  | 0 =>
    let hit (t : TlbEntry) : Bool := t.hit ctx a
    let gone := all.filter hit
    (s.dropTlb hit (fun e => e.ctx = ctx && e.va = a / 2 ^ levelShift e.level), s.inFlight ctx fun va => gone.any fun t => t.hit ctx va)
  | 1 => (s.dropTlb (fun t => t.ctx = ctx) (fun e => e.ctx = ctx), s.inFlight ctx fun _ => true)
  | 2 => (s.dropTlb (fun _ => false) (fun _ => true), [])
  | 3 => ({ s with cores := s.cores.map fun c => { c with kcache := [] } }, [])
  | _ => ({ s with cores := s.cores.map fun c => { c with icache := [] } }, [])

/-- CINV (R440): it drops what it names at once, and completes once every access that used it has completed. -/
def execCinv (x : XForm) (s : State) : Out :=
  let e := x.enc 0xE6
  s.issue e fun s i =>
    let ctx := (i.scalar e.b).extractLsb' 0 8
    let (s, uses) := match s.cinvs.find? (·.r = i.r) with
      | some w => (s, w.uses)
      | none => s.cinv e.sub ((i.scalar e.a).toNat % 2 ^ 57) ctx
    let left := uses.filter s.stillUses
    let others := s.cinvs.filter (·.r ≠ i.r)
    if left = [] then State.done { s with cinvs := others } i id else .hold { s with cinvs := others ++ [⟨i.r, left⟩] } 0

/-! ### CWB -/

/-- A dirty L2 line written back; it stays, valid and clean (R204, R287, R441). -/
def State.cleanL2 (s : State) (x : L2Line) : State :=
  let s := s.spoil x
  State.stackRequest { s with l2 := lmod s.l2 (·.line = x.line) fun y => { y with dirty := false } } x.ctx x.page (dieOfPa (x.line * 128)) (x.line * 128) none

/-- The dirty lines of a physical span written back. -/
def State.cleanSpan (s : State) (pa n : Nat) : State :=
  (s.l2.filter fun x => x.dirty && decide (pa / 128 ≤ x.line ∧ x.line * 128 < pa + n)).foldl State.cleanL2 s

/-- One page of a range that CWB writes back: skipped where no leaf of this device maps it. -/
def State.cleanPage (s : State) (w : Who) (va n : Nat) : Res Unit :=
  if w.ctx = 0 then .ok (s.cleanSpan va n) ()
  else match s.lookup w va with
    | (s, .leaf l) => .ok (if l.remote.isSome then s else s.cleanSpan (l.base + va % l.size) n) ()
    | (s, .abort x) => .gone s x
    | (s, _) => .ok s ()

/-- CWB (R441). -/
def execCwb (x : XForm) (s : State) : Out :=
  let e := x.enc 0xE7
  s.issue e fun s i =>
    let a := (i.scalar e.a).toNat
    let end_ := min (a + (i.scalar e.b).toNat) (2 ^ 57)
    let w := s.whoTeam i.t
    let first := a / 65536
    ((List.range (if a < end_ then (end_ + 65535) / 65536 - first else 0)).foldl (fun (r : Res Unit) k => r.bind fun s _ =>
        let lo := max a (65536 * (first + k))
        s.cleanPage w lo (min end_ (65536 * (first + k) + 65536) - lo)) (.ok s ())).bind fun s _ => s.done i id

end Sys2Proof.Machine
end

