-- ==== Sys2Proof/Machine/Images.lean ====
section
/-! DEFINITION. The images of saved bents in the save area: as they are written (R106, R267, R278, R279), and as they are read back from the bytes that then stand (R107, R268, R280). Sections whose layout R279 does not give are free bytes, and what software writes into them has no effect (log 32). -/
namespace Sys2Proof.Machine

/-! ### Writing -/

/-- A section filled with zeros to its length. -/
def padZero (n : Nat) (b : List Byte) : List Byte := b ++ List.replicate (n - b.length) 0

/-- A mailbox of an image (R279). -/
def mailboxBytes (l : List DWord) : List Byte := padZero 64 (l.flatMap fun w => leBytes w.toNat 8) ++ leBytes l.length 1 ++ List.replicate 15 0

/-- The full/empty bits of a team's scratch, granule g at bit g (R279). -/
def Team.fullBytes (t : Team) : List Byte :=
  (List.range (256 * t.units)).map fun k => BitVec.ofNat 8 ((List.range 8).foldl (fun n j => if t.full.contains (8 * k + j) then n + 2 ^ j else n) 0)

/-- Scratch of an image: data by offset, then the full/empty bits (R279). -/
def Team.scratchBytes (t : Team) : List Byte := memRead t.scratch 0 (32768 * t.units) ++ t.fullBytes

def Team.tokenBytes (t : Team) : List Byte := t.tokens.toList.flatMap fun w => leBytes w.toNat 4
def Team.mailboxesBytes (t : Team) : List Byte := t.mbs.toList.flatMap mailboxBytes

/-- The started groups in the order of `$gidx`. -/
def Team.inOrder (t : Team) : List Group := (List.range 192).filterMap t.group?

/-- IVER of every engine (R267). -/
def iver : Nat := 0x00090001

/-- Where the sections of a team image lie from its start (R279). -/
def tokensAt : Nat := 256
def mailboxesAt : Nat := 512
def scratchAt : Nat := 6272
def Team.engineAt (t : Team) : Nat := 6272 + 33024 * t.units

/-- The engine image (R267): a header doubleword with IVER and LEN, and free bytes. -/
def engineBytes (len f : Nat) : List Byte := leBytes (iver + len * 2 ^ 32) 8 ++ freeBytes f (120 + 1024 * len)

/-- How many free values the image of one team may take. -/
def imageDraws : Nat := 2 ^ 23

/-- The image of a packed team (R279), with free values from f. -/
def State.teamImage (s : State) (t : Team) (f : Nat) : List Byte :=
  freeBytes f 256 ++ t.tokenBytes ++ t.mailboxesBytes ++ freeBytes (f + 256) (512 + 4608) ++ t.scratchBytes ++ engineBytes (s.engineLen t) (f + 8192)
    ++ t.inOrder.flatMap fun g => g.contextBytes (f + 2 ^ 20 + 32768 * g.gidx)

/-- The header of a bent image (R279). -/
def imageHeader (members grid total : Nat) : List Byte :=
  leBytes 0x00010000 4 ++ leBytes members 4 ++ leBytes grid 8 ++ leBytes total 8 ++ List.replicate 104 0

/-- The image of a bent whose teams are packed (R279). -/
def State.bentImage (s : State) (b : Bent) (packed : List Team) : List Byte :=
  let body := (packed.zipIdx).flatMap fun (t, k) => s.teamImage t (s.free + imageDraws * k)
  imageHeader packed.length (recGrid s b.record) (128 + body.length) ++ body

/-- Where a bent's image lies (R107). -/
def State.imageAt (s : State) (k : Nat) : Nat := s.dcb.savebase + 65536 * k

/-- The save of a bent completes (R106): its teams are in the image and its cores are free. -/
def State.finishSave (s : State) (b : Bent) : State :=
  match b.image with
  | none => s
  | some k =>
    let (s, packed) := s.packBent b
    let bytes := s.bentImage b packed
    let s := State.sto { s with free := s.free + imageDraws * packed.length } (s.imageAt k) bytes
    s.setBent b.id fun b => { b with st := .saved, saved := packed, shot := bytes }

/-! ### Reading -/

/-- A section as it returns: what software has written over the bytes of the save, else what the saved state has become meanwhile (R107, R108). -/
def mergeBytes (shot mem now : List Byte) : List Byte := List.zipWith (fun (p : Byte × Byte) n => if p.1 = p.2 then n else p.2) (shot.zip mem) now

/-- A number among bytes. -/
def numAt (b : List Byte) (o n : Nat) : Nat := leNat ((b.drop o).take n)

/-- A mailbox from its section (R279). -/
def mailboxOf (b : List Byte) : List DWord := (List.range (min 8 (numAt b 64 1))).map fun k => BitVec.ofNat 64 (numAt b (8 * k) 8)

/-- Granules that the full/empty bits name (R279). -/
def fullOf (b : List Byte) : List Nat := (List.range (8 * b.length)).filter fun g => (b.getD (g / 8) 0).getLsbD (g % 8)

/-- A position of n digits (R126, R128). -/
def unpackOrder (n w : Nat) : List (BitVec 2) := (List.range n).map fun i => BitVec.ofNat 2 (w / 2 ^ (28 - 2 * i))

/-- A strand-table entry from its image (R126); what the layout does not show stays, and a parked strand whose STATE has been changed waits for nothing. -/
def Strand.ofBytes (st : Strand) (b : List Byte) : Strand :=
  let ctl := numAt b 20 1
  if ctl < 128 then Strand.free
  else
    let code := bitsOf ctl 4 2
    let state := ([StrandState.ready, .waiting, .parked].find? (·.code = code)).getD .ended
    { st with
      valid := true
      pc := BitVec.ofNat 64 (numAt b 0 8)
      mask := BitVec.ofNat 32 (numAt b 8 4)
      taken := BitVec.ofNat 32 (numAt b 12 4)
      order := unpackOrder (min 15 (ctl % 16)) (numAt b 16 4)
      state := state
      park := if state = st.state then st.park else none
      why := if state = st.state then st.why else 0
      arm := ctl.testBit 6
      parent := BitVec.ofNat 5 (numAt b 21 1)
      evn := BitVec.ofNat 5 (numAt b 22 1)
      folds := numAt b 23 1 % 16
      vset := BitVec.ofNat 256 (numAt b 24 32) ||| (st.vset &&& st.vseal)
      pset := BitVec.ofNat 8 (numAt b 56 1) ||| (st.pset &&& st.pseal)
      priv := Vector.ofFn fun (j : Fin 4) => BitVec.ofNat 64 (numAt b (64 + 8 * j.val) 8) }

/-- A fold record from its image (R132). -/
def FoldRec.ofBytes (f : FoldRec) (b : List Byte) : FoldRec :=
  { f with
    jpc := BitVec.ofNat 64 (numAt b 0 8)
    tmask := BitVec.ofNat 32 (numAt b 8 4)
    nmask := BitVec.ofNat 32 (numAt b 12 4)
    phase := (numAt b 16 1).testBit 0
    npc := BitVec.ofNat 64 (4 * numAt b 17 7)
    fvset := BitVec.ofNat 256 (numAt b 24 32)
    fpset := BitVec.ofNat 8 (numAt b 56 1) }

/-- A fault entry from its image (R271). -/
def FaultEntry.ofBytes (b : List Byte) : FaultEntry :=
  ⟨BitVec.ofNat 64 (numAt b 0 8), BitVec.ofNat 8 (numAt b 8 1), BitVec.ofNat 4 (numAt b 9 1), BitVec.ofNat 15 (numAt b 10 2), BitVec.ofNat 32 (numAt b 12 4),
   BitVec.ofNat 64 (numAt b 16 8), BitVec.ofNat 128 (numAt b 24 16), BitVec.ofNat 64 (numAt b 40 8)⟩

/-- The fault record from its image (R271). -/
def FaultRecord.ofBytes (b : List Byte) : FaultRecord :=
  ⟨BitVec.ofNat 16 (numAt b 0 2), BitVec.ofNat 8 (numAt b 2 1), BitVec.ofNat 4 (numAt b 3 1), BitVec.ofNat 64 (numAt b 8 8),
   Vector.ofFn fun k => FaultEntry.ofBytes ((b.drop (64 + 48 * k.val)).take 48),
   Vector.ofFn fun k => ⟨BitVec.ofNat 64 (numAt b (832 + 16 * k.val) 8), BitVec.ofNat 32 (numAt b (840 + 16 * k.val) 4), BitVec.ofNat 32 (numAt b (844 + 16 * k.val) 4)⟩,
   Vector.ofFn fun k => BitVec.ofNat 64 (numAt b (1088 + 8 * k.val) 8)⟩

/-- A group from its part of a team image, the sections whose layout is given (R279, R280). A slide descriptor or a binding that fails its check of R438 leaves the registers of the section as they were saved (log 32). -/
def Group.ofContext (g : Group) (lanes : Mask) (b : List Byte) : Group :=
  let table := ctxSlides g.vregs - 3072
  let rec_ := ctxSlides g.vregs + 128 + 256 + 12800 + 384
  let g := (g.loadContext lanes b).getD g
  { g with
    strands := Vector.ofFn fun k => (g.strands[k]).ofBytes ((b.drop (table + 128 * k.val)).take 128)
    folds := (g.folds.zipIdx).map fun (f, k) => f.ofBytes ((b.drop (table + 2048 + 64 * k)).take 64)
    record := FaultRecord.ofBytes ((b.drop rec_).take 1280) }

/-- A team as its image gives it (R107, R280): shot is its part as it was written, mem as it stands. -/
def Team.ofImage (t : Team) (shot mem : List Byte) : Team :=
  if shot = mem then t
  else
    let sec (o : Nat) (now : List Byte) : List Byte := mergeBytes ((shot.drop o).take now.length) ((mem.drop o).take now.length) now
    let tok := sec tokensAt t.tokenBytes
    let mbs := sec mailboxesAt t.mailboxesBytes
    let scr := sec scratchAt t.scratchBytes
    let len := bitsOf (numAt shot t.engineAt 8) 32 16
    let size (g : Group) : Nat := 19712 + 128 * g.vregs
    let at_ (g : Group) : Nat := (t.inOrder.takeWhile fun x => decide (x.gidx ≠ g.gidx)).foldl (fun n x => n + size x) (t.engineAt + 128 + 1024 * len)
    let group (g : Group) : Group :=
      let a := (shot.drop (at_ g)).take (size g)
      let b := (mem.drop (at_ g)).take (size g)
      if a = b then g else g.ofContext t.lanes (mergeBytes a b (g.contextBytes 0))
    { t with
      tokens := Vector.ofFn fun k => BitVec.ofNat 32 (numAt tok (4 * k.val) 4)
      mbs := Vector.ofFn fun k => mailboxOf ((mbs.drop (80 * k.val)).take 80)
      scratch := memWrite [] 0 (scr.take (32768 * t.units))
      full := fullOf (scr.drop (32768 * t.units))
      groups := t.groups.map group }

/-- The length of a team's image as it was written. -/
def Team.imageLen (t : Team) (shot : List Byte) : Nat :=
  t.engineAt + 128 + 1024 * bitsOf (numAt shot t.engineAt 8) 32 16 + t.groups.foldl (fun n g => n + 19712 + 128 * g.vregs) 0

/-- The teams of an image in turn. -/
def teamsOfImage : List Team → List Byte → List Byte → List Team
  | [], _, _ => []
  | t :: r, shot, mem =>
    let n := t.imageLen shot
    t.ofImage (shot.take n) (mem.take n) :: teamsOfImage r (shot.drop n) (mem.drop n)

/-- The bytes of a bent's image as they stand. -/
def State.imageNow (s : State) (b : Bent) : List Byte := match b.image with
  | some k => memRead s.mem (s.imageAt k) b.shot.length
  | none => []

/-- The teams of a saved bent as the bytes of its image give them (R107, R280). -/
def State.restored (s : State) (b : Bent) : List Team :=
  if b.shot.isEmpty then b.saved else teamsOfImage b.saved (b.shot.drop 128) ((s.imageNow b).drop 128)

/-- The commit of a saved bent (R108, R280). -/
def State.commitSaved (s : State) (b : Bent) : State := s.commitTeams b (s.restored b)

/-- Where the engine images of a bent's members begin in its image. -/
def enginesAt : List Team → List Byte → Nat → List Nat
  | [], _, _ => []
  | t :: r, shot, o => (o + t.engineAt) :: enginesAt r (shot.drop (t.imageLen shot)) (o + t.imageLen shot)

/-- Whether the engine image of a member has the IVER of the engines (R268). -/
def State.iverOk (s : State) (b : Bent) (ts : List Team) (t : Team) : Bool :=
  b.shot.isEmpty || match (enginesAt ts (b.shot.drop 128) 128)[t.bpos]? with
    | some o => numAt (s.imageNow b) o 4 = iver
    | none => true

end Sys2Proof.Machine
end

