-- ==== Sys2Proof/Machine/MatrixEvents.lean ====
section
/-! DEFINITION. Matrix passes once requested: the arbiter (R263), weights and planes (R262), the sums (R249 to R251), completion with its status word (R264, R265), replay and quarantine (R266). -/
namespace Sys2Proof.Machine

/-! ### What a pass reads -/

/-- The register of a signing group in one lane, as the engine reads it (R153, R260). -/
def State.passReg (s : State) (p : Pass) (gidx reg lane : Nat) : Nat :=
  match s.team? p.ctx p.vteam with
  | none => 0
  | some t =>
    match t.group? gidx with
    | none => 0
    | some g => if t.legacy && decide (16 ≤ lane) then 0 else ((g.v.getD reg Lanes.zero).getD lane 0).toNat

/-- The element codes and scale bytes of one row of A or column of B (R260). -/
def State.passVec (s : State) (p : Pass) (gidx base lane w k : Nat) (sc : Bool) : List Nat × List (BitVec 8) :=
  ((List.range k).map fun e => bitsOf (s.passReg p gidx (base + e * w / 32) lane) (e * w % 32) w,
   if sc then (List.range (k / 32)).map fun j => BitVec.ofNat 8 (bitsOf (s.passReg p gidx (base + 64 + j / 4) lane) (8 * (j % 4)) 8) else [])

/-- Row m of A. -/
def State.passRow (s : State) (p : Pass) (d : Desc) (m : Nat) : List Nat × List (BitVec 8) :=
  match p.sigs.find? fun x => x.g = m / 32 && x.pa.isSome with
  | some x => s.passVec p x.gidx (x.pa.getD 0) (m % 32) d.afmt.bits d.k d.asc
  | none => ([], [])

/-- Column n of B. -/
def State.passCol (s : State) (p : Pass) (d : Desc) (n : Nat) : List Nat × List (BitVec 8) :=
  match p.sigs.find? fun x => x.g = n / 32 && x.pb.isSome with
  | some x => s.passVec p x.gidx (x.pb.getD 0) (n % 32) d.bfmt.bits d.k d.bsc
  | none => ([], [])

/-- The weights that a pass with LOADW set loads (R262). -/
def State.passPlane (s : State) (p : Pass) : Plane :=
  let d : Desc := ⟨p.desc⟩
  ⟨p.vteam, d.wtag, d.bfmt, d.bsc, d.k, d.n, (List.range d.n).map (s.passCol p d)⟩

/-- Whether a plane has the tag, format, scales and shape of a pass (R262). -/
def Plane.fits (x : Plane) (p : Pass) : Bool :=
  let d : Desc := ⟨p.desc⟩
  x.tagged p && x.bfmt = d.bfmt && x.bsc = d.bsc && x.k = d.k && x.n = d.n

/-! ### The sums -/

/-- The value of an element of a matrix operand (R235, R240, R241, R250). -/
def matValue (f : Fmt) (sc : Bool) (scale : BitVec 8) (code : Nat) : Num :=
  match f with
  | .bf16 => if code % 2 ^ 15 < 2 ^ 7 then .fin (code.testBit 15) 0 0 else ffBF16.decode code
  | .b4 => blockValue scale (BitVec.ofNat 4 code)
  | f =>
    if sc then
      match scale8 scale with
      | none => .nan
      | some k => (f.decode code).scale k
    else f.decode code

def matValues (f : Fmt) (sc : Bool) (v : List Nat × List (BitVec 8)) : List Num :=
  v.1.zipIdx.map fun (c, i) => matValue f sc (v.2.getD (i / 32) 0) c

/-- The exact sum of a chunk of products (R250). -/
def chunkSum : List Num → Num
  | [] => .fin false 0 0
  | x :: r => r.foldl (Num.add .rn) x

/-- A list in chunks of 32. -/
def chunks32 {α : Type} : Nat → List α → List (List α)
  | 0, _ => []
  | n + 1, l => l.take 32 :: chunks32 n (l.drop 32)

/-- An element of a binary32 D (R250). -/
def dotF32 (k : Nat) (a b : List Num) (cin : Option Nat) : Nat :=
  let ts := (chunks32 (k / 32) (List.zipWith Num.mul a b)).map fun c => ffF32.roundRn (chunkSum c)
  let acc := match ts with
    | [] => 0
    | t :: r => r.foldl ffF32.addRn t
  match cin with
  | some c => ffF32.addRn acc c
  | none => acc

/-- One saturating addition of R251, and whether it or an earlier one saturated. -/
def satStep (acc : Int × Bool) (x : Int) : Int × Bool :=
  let y := acc.1 + x
  let z := max (-2147483648) (min 2147483647 y)
  (z, acc.2 || decide (z ≠ y))

/-- The integer of a code of INT8 or NAT8 (R238). -/
def matInt (f : Fmt) (code : Nat) : Int :=
  match f.intRange with
  | some (lo, hi) => intOfCode lo hi 8 code
  | none => 0

/-- An element of an INT32 D, and whether an addition saturated (R251). -/
def dotI32 (k : Nat) (a b : List Int) (cin : Option Nat) : Nat × Bool :=
  let ss := (chunks32 (k / 32) (List.zipWith (· * ·) a b)).map fun c => c.foldl (· + ·) 0
  let r := ss.foldl satStep (0, false)
  let r := match cin with
    | some c => satStep r (BitVec.ofNat 32 c).toInt
    | none => r
  (intCode 32 r.1, r.2)

/-- D[m][n] of a pass on a plane, before the write, and whether an addition saturated; cin is the register's old value (R260). -/
def passElem (d : Desc) (row col : List Nat × List (BitVec 8)) (cin : Nat) : Nat × Bool :=
  let c := if d.acc then some cin else none
  if d.isInt then dotI32 d.k (row.1.map (matInt d.afmt)) (col.1.map (matInt d.bfmt)) c
  else (dotF32 d.k (matValues d.afmt d.asc row) (matValues d.bfmt d.bsc col) c, false)

/-! ### The writing of D -/

/-- What a pass has written so far: the state, NAN and SAT. -/
structure PassOut where
  s : State
  nan : Bool
  sat : Bool

/-- One row of one D fragment (R260, R264). -/
def PassOut.row (o : PassOut) (p : Pass) (d : Desc) (pl : Plane) (lanes : Mask) (a : List Nat × List (BitVec 8)) (x : Signature) (base m : Nat) : PassOut :=
  let elem (l : Nat) : Nat × Bool :=
    if lanes.getLsbD l then passElem d a (pl.cols.getD (32 * x.g + l) ([], [])) (o.s.passReg p x.gidx (base + m) l) else (0, false)
  let es := (List.range 32).map elem
  ⟨o.s.modGroup ⟨p.ctx, p.vteam, x.gidx⟩ (·.setV (base + m) lanes (lanesFn fun l => BitVec.ofNat 32 (es.getD l (0, false)).1)),
   o.nan || (!d.isInt && es.any fun e => (ffF32.decode e.1).isNaN), o.sat || es.any (·.2)⟩

/-- The rows of D from 0 below n (R264); each of their products is a cell-cycle of the context (R284, log 9). -/
def State.writeD (s : State) (p : Pass) (pl : Plane) (lanes : Mask) (n : Nat) : PassOut :=
  let d : Desc := ⟨p.desc⟩
  let s := s.useEnergy p.core p.ctx 2 (n * d.n * d.k)
  (List.range n).foldl (fun o m =>
    let a := s.passRow p d m
    p.sigs.foldl (fun o x => match x.pd with
      | some base => o.row p d pl lanes a x base m
      | none => o) o) ⟨s, false, false⟩

/-! ### Completion -/

/-- How a pass ends: its code, rows written, and flags of the status word (R264). -/
structure PassEnd where
  code : Nat
  rows : Nat := 0
  wload : Bool := false
  replay : Bool := false
  nan : Bool := false
  sat : Bool := false

/-- The status word (R264); WTAG is zero while no plane is valid. -/
def passStatus (k : Nat) (e : Engine) (p : Pass) (x : PassEnd) (cycle : Nat) : DWord :=
  let b (f : Bool) (n : Nat) : Nat := if f then 2 ^ n else 0
  let wtag := match e.active with
    | some pl => pl.wtag.toNat
    | none => 0
  BitVec.ofNat 64 (min 0xFFFF ((cycle - p.entered) / 16) * 2 ^ 48 + wtag * 2 ^ 32 + x.rows * 2 ^ 16 + k * 2 ^ 8
    + b x.wload 7 + b x.replay 6 + b x.nan 5 + b x.sat 4 + x.code)

/-- Every mark of a pass cleared (R261). -/
def State.unmark (s : State) (p : Pass) : State :=
  p.sigs.foldl (fun s x =>
    let r : GroupRef := ⟨p.ctx, p.vteam, x.gidx⟩
    (s.modGroup r fun g => { g.wake with marks := g.marks.filter (·.pass ≠ p.id) }).settleGroup r) s

/-- The end of a pass (R258, R264): its marks clear, it leaves the engine, its status word is written, and it arrives. A pass has no writes to memory that its release would wait for. -/
def State.endPass (s : State) (k : Nat) (p : Pass) (x : PassEnd) : State :=
  let e := s.engines.getD k Engine.reset
  let word := passStatus k e p x s.cycle
  let s := { s with engines := vmod s.engines k fun e =>
    { e with running := e.running.filter (·.id ≠ p.id), table := e.table.filter (·.id ≠ p.id) } }
  let s := s.unmark p
  match s.team? p.ctx p.vteam with
  | none => s
  | some t =>
    let num := Desc.bar ⟨p.desc⟩
    match s.barOwner t num with
    | none => s
    | some o => s.agentArrive o num (some word)

/-! ### The arbiter (R263) -/

/-- Whether an entry may start (R263, R439): no entry of its team stands before it, and no handler holds the engine against its team. -/
def State.eligible (s : State) (before : List Pass) (p : Pass) : Bool :=
  !(before.any fun q => q.ctx = p.ctx && q.vteam = p.vteam) && match s.team? p.ctx p.vteam with
    | some t => t.frozen.isEmpty
    | none => false

/-- The eligible entries of a table, oldest first; passed holds those before. -/
def State.eligibles (s : State) : List Pass → List Pass → List Pass
  | _, [] => []
  | passed, p :: r => (if s.eligible passed p then [p] else []) ++ s.eligibles (passed ++ [p]) r

/-- The choice of R263 among the eligible entries, oldest first; a frozen or restored pass goes before all (R268, R439). -/
def choosePass (active : Option Plane) (cycle : Nat) (l : List Pass) : Option Pass :=
  let top := l.foldl (fun m p => max m p.prio) 0
  let cand := l.filter (·.prio = top)
  let fitting := cand.find? fun p => !p.loadw && active.any (·.tagged p)
  let late (p : Pass) : Bool := (cand.takeWhile (·.id ≠ p.id)).any fun q => decide (q.entered + 1024 < cycle)
  (l.find? (·.first)).or ((l.find? fun p => decide (p.entered + 4096 < cycle)).or ((fitting.filter fun p => !late p).or cand.head?))

/-- PASS_ARBITRATION (R263, R266): operand n is the engine, which takes its next pass; a quarantined engine ends the first entry of its table with QUAR. -/
def execPassArbitration (s : State) : Out :=
  let k := s.operand.n % 64
  let e := s.engines.getD k Engine.reset
  if e.running.isSome then .next s
  else if e.quarantined then
    match e.table with
    | [] => .next s
    | p :: _ => .next (s.endPass k p { code := 4 })
  else match choosePass e.active s.cycle (s.eligibles [] e.table) with
    | none => .next s
    | some p => .next { s with engines := vmod s.engines k fun e => { e with running := some { p with first := false }, table := e.table.filter (·.id ≠ p.id) } }

/-! ### The run of a pass -/

/-- The plane that a pass computes on, and the engine with it active: loaded from B fragments and swapped in, or the one restored with the pass, or the active one if it fits; none for NOWEIGHT (R262, R268). -/
def State.planeFor (s : State) (e : Engine) (p : Pass) : Engine × Option Plane :=
  if p.loadw then
    let x := s.passPlane p
    ({ e with active := some x, loading := e.active }, some x)
  else
    let e := match p.plane with
      | some x => { e with active := some x }
      | none => e
    (e, e.active.filter (·.fits p))

/-- An engine quarantined (R266, R293): logged, and the interrupt of kind 4 sent. -/
def State.quarantineEngine (s : State) (k : Nat) : State :=
  let s := { s with engines := vmod s.engines k fun e => { e with quarantined := true } }
  (s.logErr 6 0x0E 5 (k / 16) 0 0 k 0).interrupt 4 (k / 16) 0 0 0

/-- PASS_COMPLETE (R250, R251, R258, R262, R264 to R266): operand n is the engine, whose running pass computes once its acquire has passed, and ends. Engine.miss residue mismatches come first: one replays the block that it meets, two quarantine the engine with k blocks of rows written. -/
def execPassComplete (s : State) : Out :=
  let k := s.operand.n % 64
  let e := s.engines.getD k Engine.reset
  match e.running with
  | none => .next s
  | some p =>
    match s.team? p.ctx p.vteam with
    | none => .next s
    | some t =>
      if s.acquireWaits p.acqw then .next s
      else
        let d : Desc := ⟨p.desc⟩
        match s.planeFor e p with
        | (e', none) => .next (State.endPass { s with engines := vmod s.engines k fun _ => e' } k p { code := 2 })
        | (e', some pl) =>
          let s := { s with engines := vmod s.engines k fun _ => { e' with miss := 0 } }
          let s := if e.miss = 0 then s else s.logErr 6 0x0E 2 (k / 16) p.ctx 0 k 0
          if e.miss < 2 then
            let o := s.writeD p pl t.lanes d.m
            .next (o.s.endPass k p { code := 0, rows := d.m, wload := d.loadw, replay := e.miss ≠ 0, nan := o.nan, sat := o.sat })
          else
            let s := s.quarantineEngine k
            if t.materr then
              let n := 32 * min s.operand.k (d.m / 32 - 1)
              let o := s.writeD p pl t.lanes n
              .next (o.s.endPass k p { code := 3, rows := n, wload := d.loadw, replay := true, nan := o.nan, sat := o.sat })
            else .next (s.killBent t.bent 0x30#8 6 0x0E 3 k true)

end Sys2Proof.Machine
end

