-- ==== Sys2Proof/Machine/Distribute.lean ====
section
/-! DEFINITION. Events of the distributor (R95 to R114, R280): requests, grants, commits, saves, yields, restores and spawn bins. Each acts on the bent entries as their bytes stand (R61). -/
namespace Sys2Proof.Machine

/-- BENT_REQUEST (R95, R97, R102, R114): operand n is the launch record of the grid whose next bent enters the request queue. -/
def execBentRequest (s : State) : Out :=
  let s := s.readEntries
  match s.grid? s.operand.n with
  | none => .next s
  | some g => .next (s.requestNext g)

/-- REQUEST_GRANT (R98 to R101): operand n is the bent; no request before it in the queue can be granted. -/
def execRequestGrant (s : State) : Out :=
  let s := s.readEntries
  match s.requests.find? (·.id = s.operand.n) with
  | none => .next s
  | some b =>
    if (s.requests.takeWhile (·.id ≠ b.id)).any fun o => (s.tryGrant o).isSome then .next s
    else .next ((s.tryGrant b).getD s)

/-- HOLD_COMMIT (R101): operand n is the die. -/
def execHoldCommit (s : State) : Out :=
  let s := s.readEntries
  match (s.dieHolds.getD s.operand.n none).bind s.bent? with
  | none => .next s
  | some b =>
    let ctx := match s.grid? b.record with
      | some g => g.ctx
      | none => 0
    .next (if b.st = .rsv && s.rectTakes b (s.prioOf b) b.anchor && s.stacksOk ctx b then s.toCommit b b.anchor else s)

/-- COMMIT (R103, R108): operand n is the bent, whose teams become resident: as its image gives them where it was saved. -/
def execBentCommit (s : State) : Out :=
  let s := s.readEntries
  match s.bent? s.operand.n with
  | none => .next s
  | some b =>
    if b.st ≠ .cmt ∨ (s.teamsOf b.id).isEmpty = false then .next s
    else if !b.saved.isEmpty then .next (s.commitSaved b)
    else match s.grid? b.record with
      | some g => .next (s.commitFresh b g)
      | none => .next s

/-- Whether a member core of a bent is quarantined (R103). -/
def State.quarantined (s : State) (b : Bent) : Bool := (b.cores s).any s.root.quarCores.contains

/-- What happened to a team while it was saved reaches its parked strands: slots fired and values posted (R108, R166, R168). -/
def State.heedMeanwhile (s : State) (t : Team) : State := (s.offerTeam t.ctx t.vteam).serveAll t.ctx t.vteam

/-- A bent that has committed runs, or dies of a kill that waited for its commit (R103, R291); a pre-emption that waited for it goes on (R105). -/
def State.startBent (s : State) (b : Bent) : State :=
  match b.doomed with
  | some (cause, again) => ((s.fallBent b cause again).selectMore 4096).endPreempt
  | none =>
    let run (b : Bent) : Bent := { b with st := .run, image := none, shot := [], yielded := false }
    let s := { s with saveRuns := s.saveRuns.filter fun r => some r.1 ≠ b.image }.setBent b.id run
    let s := (s.teamsOf b.id).foldl State.heedMeanwhile s
    ((s.settleBent b.id).selectMore 4096).endPreempt

/-- COMMIT_COMPLETE (R97, R103): operand n is the bent. -/
def execCommitComplete (s : State) : Out :=
  let s := s.readEntries
  match s.bent? s.operand.n with
  | none => .next s
  | some b =>
    if b.st ≠ .cmt ∨ (s.teamsOf b.id).isEmpty = true then .next s
    else if s.quarantined b then .next (s.abandonCommit b).endPreempt
    else if b.image.isSome then .next s
    else .next (s.startBent b)

/-- Whether the engine of a restored team has room for its passes (R268). -/
def State.engineRoom (s : State) (t : Team) : Bool :=
  decide ((s.engines.getD (engineOf t.core) Engine.reset).table.length + (t.keptRun.toList ++ t.keptPasses).length ≤ 32)

/-- A restored team's passes enter the engine of its quad, the one that ran first of all. With another IVER nothing of the engine image is restored: the pass that ran ends with RESTART, and stored ones that load no weights with NOWEIGHT (R264, R268). -/
def State.restorePasses (s : State) (same : Bool) (t : Team) : State :=
  let k := engineOf t.core
  let age (p : Pass) : Pass := { p with core := t.core, entered := s.cycle }
  let ran := (t.keptRun.map fun p => { age p with first := true }).toList
  let stored := t.keptPasses.map age
  let enters := if same then ran ++ stored else stored.filter (·.loadw)
  let s := ({ s with engines := vmod s.engines k fun e => { e with table := e.table ++ enters } }).modTeam t.ctx t.vteam fun t =>
    { t with keptRun := none, keptPasses := [] }
  if same then s
  else
    let s := ran.foldl (fun s p => s.endPass k p { code := 1 }) s
    (stored.filter (!·.loadw)).foldl (fun s p => s.endPass k p { code := 2 }) s

/-- RESTORE_COMPLETE (R232, R268, R280): operand n is the bent. -/
def execRestoreComplete (s : State) : Out :=
  let s := s.readEntries
  match s.bent? s.operand.n with
  | none => .next s
  | some b =>
    let ts := s.teamsOf b.id
    if b.st ≠ .cmt ∨ ts.isEmpty = true ∨ b.image.isNone = true then .next s
    else if s.quarantined b then .next (s.abandonCommit b).endPreempt
    else if s.timeOf b.die < s.orderTime b.id ∨ ts.all s.engineRoom = false then .next s
    else .next ((ts.foldl (fun s t => s.restorePasses (s.iverOk b ts t) t) s).startBent b)

/-- PREEMPTION_REQUEST (R104, R105): operand v is the value written to PREQ. -/
def execPreemptionRequest (s : State) : Out := .next (s.readEntries.writePreq s.operand.v.toNat)

/-- PREEMPTION_HOLD_RELEASE (R104, R106): operand v is the value written to PREL. -/
def execPreemptionHoldRelease (s : State) : Out := .next (s.writePrel s.operand.v.toNat)

/-- CONTROL_BLOCK_WRITE (R104, R107, R191, R192): operand bytes is written from address n of the control region. -/
def execControlBlockWrite (s : State) : Out := .next (s.ctlWrite s.operand.n (s.operand.bytes.map some))

/-- BENT_SAVE_COMPLETE (R105, R106, R278): operand n is the bent whose teams have reached the points of R278. -/
def execBentSaveComplete (s : State) : Out :=
  let s := s.readEntries
  match s.bent? s.operand.n with
  | none => .next s.endPreempt
  | some b =>
    if b.st = .saving && (s.teamsOf b.id).all s.saveReady then .next (((s.finishSave b).selectMore 4096).endPreempt) else .next s

/-- Bents in the order of their commits, the youngest first. -/
def youngestFirst : Nat → List Bent → List Bent
  | 0, _ => []
  | n + 1, l => match youngest l with
    | none => []
    | some b => b :: youngestFirst n (l.filter (·.id ≠ b.id))

/-- YIELD_SAVE (R114): operand ctx is a context with a request that stays ungranted; of its yieldable bents for which a place is left the youngest is saved, one at a time. -/
def execYieldSave (s : State) : Out :=
  let s := s.readEntries
  let mine := s.ofContext s.operand.ctx
  let waits := s.requests.any fun b => mine b && (s.tryGrant b).all fun t => (t.bent? b.id).any (·.st = .rsv)
  let saving := s.bents.any fun b => mine b && b.st = .saving && b.yielded
  if !waits || saving then .next s
  else .next (((youngestFirst s.bents.length (s.bents.filter fun b => mine b && s.yieldable b)).findSome? (s.beginSave · true)).getD s)

/-- SPAWN_BIN_TIMEOUT (R111): operands n and k name the core and the bin. -/
def execSpawnBinTimeout (s : State) : Out := .next (s.tryBin s.operand.n s.operand.k)

end Sys2Proof.Machine
end

