-- ==== Sys2Proof/Machine/Scheduling.lean ====
section
/-! DEFINITION. The choice of strands: the starvation queues and the fairness timer (R145, R146). -/
namespace Sys2Proof.Machine

/-- FAIRNESS_TIMER (R146): the timer of group g has reached the fairness interval, so the ready strand after the one that last issued before another, wrapping to the earliest, takes priority for 64 issue cycles, and the timer restarts. -/
def execFairnessTimer (s : State) : Out :=
  let r := s.operand.g
  match s.team? r.ctx r.vteam, s.group? r with
  | some t, some g =>
    if g.fair < (s.core t.core).fairint then .next s
    else
      match (g.readyOrder.find? fun x => orderBefore (g.strand g.fairLast).order x.2.order).or g.readyOrder.head? with
      | none => .next s
      | some (k, _) => .next (s.modGroup r fun g => { g with fair := 0, fairFor := 64, fairSid := k })
  | _, _ => .next s

/-- Whether an entry of a starvation queue still stands: its strand is ready and has not issued for 256 cycles. -/
def State.starving (s : State) (x : GroupRef × Nat) : Bool :=
  match s.group? x.1 with
  | some g => let st := g.strand x.2; st.valid && st.isReady && decide (st.readyAt + 256 ≤ s.cycle)
  | none => false

/-- STARVATION_QUEUE_ENTRY (R145, R148): strand k of group g has been ready for 256 cycles without issuing. -/
def execStarvationQueueEntry (s : State) : Out :=
  let r := s.operand.g
  let k := s.operand.k
  match s.team? r.ctx r.vteam, s.group? r with
  | some t, some g =>
    let st := g.strand k
    let q := r.gidx % 4
    let queued := (((s.core t.core).starve.getD q []).filter s.starving).contains (r, k)
    if !st.valid ∨ st.isReady = false ∨ queued = true ∨ s.cycle < st.readyAt + 256 then .next s
    else .next (s.modCore t.core fun c => { c with starve := vmod c.starve q fun l => l.filter s.starving ++ [(r, k)] })
  | _, _ => .next s

end Sys2Proof.Machine
end

