-- ==== Sys2Proof/Machine/GroupEvents.lean ====
section
/-! DEFINITION. What happens in a group beside the issue of its strands: stores released and acknowledged (R141, R219), loads performed and returned (R143, R398), waits ended (R220), strands freed (R127, R128), traps entered (R272, R273), the watchdog (R174), debug stops (R283) and barrier spills (R160). -/
namespace Sys2Proof.Machine

/-- Whether the bent of a group still commits, so that what its image holds waits (R232). -/
def State.restoring (s : State) (r : GroupRef) : Bool := match s.team? r.ctx r.vteam with
  | some t => (s.bent? t.bent).any (·.st = .cmt)
  | none => false

/-- STORE_PART_RELEASE (R141, R142, R212, R232): operands g, n and k name the group, the store-buffer entry and the lane. -/
def execStorePartRelease (s : State) : Out :=
  let r := s.operand.g
  if s.restoring r then .next s else .next ((s.releasePart r s.operand.n s.operand.k).settleGroup r)

/-- LANE_LOAD_PERFORM (R143, R198, R232, R403): operands g, n and k name the group, the load and the lane. -/
def execLaneLoadPerform (s : State) : Out :=
  if s.restoring s.operand.g then .next s else .next (s.performLane s.operand.g s.operand.n s.operand.k)

/-- LOAD_DATA_RETURN (R149, R188, R398): operands g and n name the group and the load, all of whose lanes have been performed. -/
def execLoadDataReturn (s : State) : Out :=
  let r := s.operand.g
  match s.group? r with
  | none => .next s
  | some g => match g.loads.find? (·.id = s.operand.n) with
    | none => .next s
    | some l => if l.whole then .next ((s.modGroup r fun g => (g.returnLoad l).settleSeals l.sid).settleGroup r) else .next s

/-- STORE_ACKNOWLEDGE (R219, R230): operands g and n name the group and the acknowledgement; a part on a peer must have been answered, and one on a line that a Sill run held waits for the run. -/
def execStoreAcknowledge (s : State) : Out :=
  let r := s.operand.g
  match s.team? r.ctx r.vteam, s.group? r with
  | some t, some g => match g.acks.find? (·.id = s.operand.n) with
    | none => .next s
    | some a => if a.tag.isSome || a.held.any s.held then .next s else .next ((s.modGroup r (·.acknowledge a (s.leaseNow t))).settleGroup r)
  | _, _ => .next s

/-- The release that a strand waits for looked at again. -/
def Group.lookRelease (g : Group) (sid : Nat) (fused : Bool) (now : Nat) : Group :=
  match (g.strand sid).rel with
  | none => g
  | some w =>
    if w.fence then g.stepFence sid fused now
    else
      let w := g.stepRelease sid w fused now
      g.modStrand sid fun st => { st with rel := some w, look := w.done }

/-- RELEASE_WAIT_COMPLETE (R217, R220): operands g and k name the group and the strand. -/
def execReleaseWaitComplete (s : State) : Out :=
  let r := s.operand.g
  match s.team? r.ctx r.vteam with
  | none => .next s
  | some t => .next (s.modGroup r (·.lookRelease s.operand.k t.fused (s.leaseNow t)))

/-- Whether nothing of an ended strand is in flight (R127). -/
def Group.strandIdle (g : Group) (sid : Nat) : Bool :=
  g.loads.all (·.sid ≠ sid) && g.longs.all (·.sid ≠ sid) && g.failing.all (·.sid ≠ sid) && g.sb.all (·.sid ≠ sid)

/-- An ended strand freed: its write set no longer holds anything back, its children lose their parent, and positions collapse (R127, R128). -/
def Group.freeStrand (g : Group) (sid : Nat) : Group :=
  let p := BitVec.ofNat 5 sid
  let g := { g with strands := (vmod g.strands sid fun _ => Strand.free).map fun (st : Strand) => if st.valid && st.parent = p then { st with parent := 0x1F } else st }
  (g.collapse 256).wake

/-- STRAND_FREE (R127, R128): operands g and k name the group and the strand. -/
def execStrandFree (s : State) : Out :=
  let r := s.operand.g
  let k := s.operand.k
  match s.group? r with
  | none => .next s
  | some g =>
    let st := g.strands.getD k Strand.free
    if st.valid && st.state = .ended && g.strandIdle k then .next ((s.modGroup r (·.freeStrand k)).settleGroup r) else .next s

/-- LONG_LATENCY_COMPLETION (R149, R151): operands g and n name the group and the operation whose results are written, or the access whose fault is raised: once, and only that of the handler strand while a handler runs (R271). -/
def execLongLatencyCompletion (s : State) : Out :=
  let r := s.operand.g
  let write (g : Group) (o : LongOp) : Group :=
    let g := o.writes.foldl (fun (g : Group) x => g.setV x.1 o.mask x.2) g
    Group.settleSeals { g.wake with longs := g.longs.filter (·.id ≠ o.id) } o.sid
  match s.group? r with
  | none => .next s
  | some g => match g.longs.find? (·.id = s.operand.n) with
    | some o => .next ((s.modGroup r (write · o)).settleGroup r)
    | none => match g.failing.find? (·.id = s.operand.n) with
      | none => .next s
      | some f =>
        if f.raised || (g.trap = .handling && f.sid ≠ handlerSid) then .next s
        else .next (s.takeTrap (strandAt r f.sid) { cause := f.entry.cause, pc := some f.entry.pc, la := f.entry.la })

/-- COPY_COMPLETE (R227, R415 to R419): operands n and k name the core and the copy, which starts, or ends once its lines and its release are over. -/
def execCopyComplete (s : State) : Out := .next (s.stepCopy s.operand.n s.operand.k)

/-- Whether the bent of a team runs (R97). -/
def State.bentRuns (s : State) (t : Team) : Bool := match s.bent? t.bent with
  | some b => b.st = .run
  | none => false

/-- HANDLER_ENTRY (R271 to R273): operand g is a group whose trap has drained; without a handler image the bent ends as DOUBLE (R275). -/
def execHandlerEntry (s : State) : Out :=
  let r := s.operand.g
  match s.team? r.ctx r.vteam, s.group? r with
  | some t, some g =>
    let e := s.handlerCode r.ctx
    if g.trap ≠ .draining ∨ g.drained s.cycle = false ∨ s.bentRuns t = false then .next s
    else if e.base = 0 then .next (s.doubleTrap r)
    else .next (s.modGroup r (·.enterHandler e.base e.size t.lanes))
  | _, _ => .next s

/-- GROUP_WATCHDOG (R174, R275): operand g is a group whose watchdog has counted the interval; it counts again from the trap. -/
def execGroupWatchdog (s : State) : Out :=
  let r := s.operand.g
  match s.team? r.ctx r.vteam, s.group? r with
  | some t, some g =>
    if !g.deadWaits ∨ g.watch < 2 ^ (s.core t.core).wdlog ∨ s.bentRuns t = false then .next s
    else if g.trap = .handling then .next (s.doubleTrap r)
    else .next ((s.modGroup r fun g => { g with watch := 0 }).takeGroupTrap r 0x21#8)
  | _, _ => .next s

/-- DBGSTOP (R283): operand g is a group that has been asked to stop, once nothing in flight writes its registers and no trap is open. -/
def execDbgstop (s : State) : Out :=
  let r := s.operand.g
  match s.team? r.ctx r.vteam, s.group? r with
  | some t, some g =>
    let busy := (g.loads.any fun l => l.dest ≠ .store) || !g.longs.isEmpty || !g.failing.isEmpty || g.marks.any (·.pending)
    if !g.dbg ∨ busy = true ∨ g.trap ≠ .none ∨ s.bentRuns t = false then .next s
    else .next ((s.modGroup r fun g => { g with dbg := false }).takeGroupTrap r 0x24#8)
  | _, _ => .next s

/-- BSPILL (R160, R276): operand v is written to BSPILL of core n by the team of operand g. -/
def execBspill (s : State) : Out := .next (s.bspill s.operand.n s.operand.g.ctx s.operand.g.vteam s.operand.v)

end Sys2Proof.Machine
end

