-- ==== Sys2Proof/Machine/Flaws.lean ====
section
/-! DEFINITION. Errors injected into the structures of R285 but HBM, the L2, scratch words and arithmetic: what a turn meets of them, and what they come to (R285, R286, R288, R293). No error arises of itself. -/
namespace Sys2Proof.Machine

/-- Log and structure code of a place (R285, R300). -/
def FlawAt.code : FlawAt → Nat × Nat
  | .vector _ _ _ => (0, 0x01)
  | .scalar _ _ => (0, 0x02)
  | .strands _ => (0, 0x03)
  | .stores _ => (0, 0x04)
  | .objects _ _ => (0, 0x05)
  | .l1 _ _ => (1, 0x06)
  | .scratch _ _ => (1, 0x07)
  | .cached _ _ _ | .tlb _ _ => (0, 0x0A)
  | .table _ _ _ => (6, 0x0B)
  | .bin _ _ _ | .bar _ _ _ => (0, 0x0B)
  | .request _ => (2, 0x0C)
  | .plane _ => (6, 0x0E)
  | .sill _ => (6, 0x0F)

/-- Whether the code of a place can correct an error (R285): SECDED can, parity cannot. -/
def FlawAt.corrects : FlawAt → Bool
  | .vector _ _ _ | .scalar _ _ | .strands _ | .stores _ | .objects _ _ | .l1 _ _ | .scratch _ _ | .plane _ => true
  | _ => false

def State.coreOf (s : State) (ctx : BitVec 8) (v : BitVec 16) : Nat := match s.anyTeam? ctx v with
  | some t => t.core
  | none => 0

/-- LOC of an error (R300). -/
def State.flawLoc (s : State) (a : FlawAt) : Nat :=
  match a with
  | .vector g _ _ | .scalar g _ | .strands g | .stores g => 64 * s.coreOf g.ctx g.vteam + a.code.2
  | .objects c v => 64 * s.coreOf c v + a.code.2
  | .l1 _ line => 128 * line
  | .scratch core _ => 64 * core
  | .cached core _ _ | .tlb core _ | .bin core _ _ | .bar core _ _ => 64 * core + a.code.2
  | .table k _ _ | .plane k => k
  | .request k => 48 * 2 ^ 30 * k
  | .sill k => sillNumber k (match (s.stack k).unit with
      | some u => u.bank
      | none => 0)

/-- Whether what an error lies in is still there. -/
def State.flawStands (s : State) : FlawAt → Bool
  | .vector g _ _ | .scalar g _ | .strands g | .stores g => (s.group? g).isSome
  | .objects c v => (s.anyTeam? c v).isSome
  | .l1 core line => (s.core core).l1.any (·.line = line)
  | .cached core line code => (if code then (s.core core).icache else (s.core core).kcache).any (·.line = line)
  | .tlb core va => (s.core core).tlb.any (·.va = va)
  | .table k slot _ => decide (slot < (s.engines.getD k Engine.reset).table.length)
  | .bin core slot _ => ((s.core core).bins.getD slot none).isSome
  | .bar core slot _ => ((s.core core).bars.getD slot none).isSome
  | .scratch _ _ | .request _ | .plane _ | .sill _ => true

/-! ### What an error comes to -/

/-- The teams that have an entry in a table, with those that the entry of a slot names (R288). -/
def State.tableTeams (s : State) (a : FlawAt) : List (BitVec 8 × BitVec 16) :=
  let pick (tag : Bool) (slot : Nat) (l : List (Option (BitVec 8 × BitVec 16))) : List (BitVec 8 × BitVec 16) :=
    if tag then l.filterMap id else (l.getD slot none).toList
  match a with
  | .table k slot tag => pick tag slot ((s.engines.getD k Engine.reset).table.map fun p => some (p.ctx, p.vteam))
  | .bin core slot tag => pick tag slot ((s.core core).bins.toList.map (·.map fun b => (b.ctx, b.vteam)))
  | .bar core slot tag => pick tag slot ((s.core core).bars.toList.map (·.map fun e => (e.ctx, e.vteam)))
  | _ => []

/-- The bents of teams, each once. -/
def State.bentsOf (s : State) (l : List (BitVec 8 × BitVec 16)) : List Nat := (l.filterMap fun x => (s.anyTeam? x.1 x.2).map (·.bent)).eraseDups

/-- An error that is not corrected (R285): consumed by its team, or its entry dropped, or as R266, R288 and R293 say. g is the group for which the turn acts. -/
def State.hardFlaw (s : State) (g : GroupRef) (a : FlawAt) : State :=
  let (level, struct) := a.code
  let loc := s.flawLoc a
  let refetched (s : State) : State := s.logErr level struct 1 (dieOfLoc level loc) 0 0 loc 0
  match a with
  | .vector g _ _ | .scalar g _ | .strands g | .stores g => s.abortTeam g.ctx g.vteam ⟨level, struct, loc⟩
  | .objects c v => s.abortTeam c v ⟨level, struct, loc⟩
  | .request _ => s.abortTeam g.ctx g.vteam ⟨level, struct, loc⟩
  | .l1 core line => refetched (s.modCore core fun c => { c with l1 := c.l1.filter (·.line ≠ line) })
  | .scratch core k => { s with teams := s.teams.map fun t => if t.core = core then { t with poison := k :: t.poison } else t }
  | .cached core line code => refetched (s.modCore core fun c =>
      if code then { c with icache := c.icache.filter (·.line ≠ line) } else { c with kcache := c.kcache.filter (·.line ≠ line) })
  | .tlb core va => refetched (s.modCore core fun c => { c with tlb := c.tlb.filter (·.va ≠ va) })
  | .table _ _ _ | .bin _ _ _ | .bar _ _ _ => (s.bentsOf (s.tableTeams a)).foldl (fun s b => s.killBent b 0x31#8 level struct 3 loc true) s
  | .plane k => { s with engines := vmod s.engines k fun e => { e with miss := max e.miss 2 } }
  | .sill k => match (s.stack k).unit with
    | some u => s.quarantineSill k u.bank u.run (match s.run? u.run with
      | some r => r.ctx
      | none => 0)
    | none => s

/-- An error that a turn meets: corrected and logged, or what it comes to (R285). -/
def State.meetFlaw (g : GroupRef) (s : State) (f : Flaw) : State :=
  let s := { s with flaws := s.flaws.erase f }
  if f.hard || !f.at_.corrects then s.hardFlaw g f.at_
  else
    let (level, struct) := f.at_.code
    let loc := s.flawLoc f.at_
    s.logErr level struct 0 (dieOfLoc level loc) 0 0 loc 0

/-- Whether an error takes the data of the turn that meets it, so that the turn has no effect of its own (R286). -/
def Flaw.stops (f : Flaw) : Bool :=
  (f.hard || !f.at_.corrects) && match f.at_ with
    | .l1 _ _ | .scratch _ _ | .cached _ _ _ | .tlb _ _ | .plane _ => false
    | _ => true

/-! ### What a turn meets -/

/-- Instructions that use the objects of their team: slides, events, mailboxes and convergence (R285). -/
def Enc.objectOp (x : Enc) : Bool := decide (0x98 ≤ x.o ∧ x.o ≤ 0x9D) || decide (0xC5 ≤ x.o ∧ x.o ≤ 0xCC)
def Enc.barrierOp (x : Enc) : Bool := decide (0xC0 ≤ x.o ∧ x.o ≤ 0xC4)

/-- What an instruction meets that is about to issue: the registers that it reads, its group's strands, its team's objects, the tables that it looks into, and what its core holds of code, windows and translations. -/
def Iss.meets (i : Iss) (s : State) (a : FlawAt) : Bool :=
  let u := Enc.uses i.x
  match a with
  | .vector g reg lane => g = i.r.g && u.rv.contains reg && (i.active ||| u.lanes).getLsbD lane
  | .scalar g code => g = i.r.g && u.rs.contains code
  | .strands g => g = i.r.g
  | .objects c v => Enc.objectOp i.x && c = i.t.ctx && v = i.t.vteam
  | .bar core _ _ => Enc.barrierOp i.x && s.teams.any fun t => t.bent = i.t.bent && t.core = core
  | .bin core _ _ => i.x.o = 0x0A && core = i.t.core
  | .table k _ _ => i.x.o = 0xCC && k = engineOf i.t.core
  | .cached core _ _ | .tlb core _ => core = i.t.core
  | _ => false

/-- What a lane of a load meets: its line in the L1, its granules of scratch, and the queue of the stack that it reaches. -/
def State.laneMeets (s : State) (r : GroupRef) (id lane : Nat) (a : FlawAt) : Bool :=
  match s.team? r.ctx r.vteam, (s.group? r).bind fun g => (g.loads.find? (·.id = id)).bind fun l => (l.parts.find? (·.lane = lane)).map fun p => (l, p) with
  | some t, some (l, p) => match a, p.target with
    | .l1 core line, .phys _ pa => core = s.l1Core t pa && line = lineOf pa
    | .scratch core k, .scratch m o => match s.member? t.bent m with
      | some u => core = u.core && (granules o l.dest.bytes).contains k
      | none => false
    | .request k, .phys _ pa => k = stackOfPa pa && (s.l2Line? pa).isNone && !((s.core (s.l1Core t pa)).l1? pa).any (·.live (s.timeOf (dieOfCore t.core)))
    | _, _ => false
  | _, _ => false

/-- What an event meets, once it takes place. -/
def State.eventMeets (s : State) (e : Instr) (o : Operand) (a : FlawAt) : Bool :=
  match e, a with
  | .storePartRelease, .stores g | .releaseWaitComplete, .stores g => g = o.g
  | .laneLoadPerform, a => s.laneMeets o.g o.n o.k a
  | .passArbitration, .table k _ _ => k = o.n % 64
  | .passComplete, .plane k => k = o.n % 64
  | .spawnBinTimeout, .bin core slot _ => core = o.n && slot = o.k
  | _, _ => false

/-- Registers that the end of a load or of a long-latency operation writes, with their lanes. -/
def State.eventWrites (s : State) (o : Operand) : List Nat × Mask :=
  match s.group? o.g with
  | none => ([], 0)
  | some g => match g.loads.find? (·.id = o.n), g.longs.find? (·.id = o.n) with
    | some l, _ => (l.pending.wv, l.lanes)
    | none, some x => (x.writes.map (·.1), x.mask)
    | none, none => ([], 0)

/-- Errors that a turn has left: not those of registers that it has written, nor those whose place is gone. -/
def State.keepFlaws (s : State) (before : State) (wrote : GroupRef → Nat → Nat → Bool) : State :=
  let same (f : Group → Word) (g : GroupRef) : Bool := (before.group? g).map f = (s.group? g).map f
  { s with flaws := s.flaws.filter fun f => s.flawStands f.at_ && match f.at_ with
      | .vector g reg lane => !wrote g reg lane && same (fun x => (x.v.getD reg Lanes.zero).getD lane 0) g
      | .scalar g code => same (fun x => (x.s.getD code 0).extractLsb' 0 32) g && same (fun x => (x.s.getD code 0).extractLsb' 32 32) g
      | _ => true }

end Sys2Proof.Machine
end

