-- ==== Sys2Proof/Machine/Management.lean ====
section
/-! DEFINITION. The root controller's commands: SPDM (R36, R37), identity and status (R39), sensors (R38), and the reliability commands (R294, R302, R303). Each meaning takes the request from operand m. -/
namespace Sys2Proof.Machine

/-- Whether the root controller answers: once booted; a device whose boot failed answers only the commands marked so (R35). -/
def Root.answers (r : Root) (recovery : Bool) : Bool :=
  match r.phase with
  | .inReset => false
  | .recoveryOnly => recovery
  | _ => true

/-- A message by the way its request came (R39, R52): on the sideband, or to the system host adapter. -/
def State.sendMessage (s : State) (ridge : Bool) (message : List Byte) : State :=
  if ridge then { s with outbox := s.outbox ++ [message] } else { s with sent := s.sent ++ [.reply (mctpPacket false 0 message)] }

/-- The reply to a vendor-defined command, by the way the command came (R39). -/
def State.sendReply (s : State) (m : MgmtReq) (bytes : List Byte) : State := s.sendMessage m.ridge (s.root.message true bytes)

/-- The response to an SPDM request (R36, R38). -/
def State.sendSpdm (s : State) (m : MgmtReq) (bytes : List Byte) : State := s.sendMessage m.ridge (s.root.message false bytes)

/-- The status codes of R303. -/
def stOk : Byte := 0
def stBadcmd : Byte := 1
def stBadarg : Byte := 2
def stBusy : Byte := 3

/-- A command of R39 or R303: its code, whether a device that failed to boot answers it, and its effect with the reply. -/
def State.command (s : State) (code : Nat) (recovery : Bool) (f : State → MgmtReq → State × List Byte) : Out :=
  let m := s.operand.m
  if !s.root.answers recovery ∨ m.bytes.head? ≠ some (BitVec.ofNat 8 code) then .next s
  else
    let (s, b) := f s m
    .next (s.sendReply m b)

/-- A number in a request. A command that is shorter than its request bytes reads the missing ones as zero, of which the spec says nothing (log 78). -/
def reqNum (m : MgmtReq) (lo n : Nat) : Nat := leNat ((m.bytes.drop lo).take n)

/-! ### SPDM -/

/-- Request codes of SPDM 1.3 (R36, log 34). -/
def spdmCode : Nat → Nat
  | 0 => 0x84 | 1 => 0xE1 | 2 => 0xE3 | 3 => 0x81 | 4 => 0x82 | 5 => 0x83 | _ => 0xE0

/-- The firmware image that runs: a slot that booted is not rewritten (R37, R38). -/
def Root.image (r : Root) : List Byte := match r.booted with
  | some true => r.slotB.image
  | some false => r.slotA.image
  | none => []

/-- The ERROR response of SPDM 1.3 with a code and its data (log 34). -/
def spdmError (code data : Byte) : List Byte := [0x13, 0x7F, code, data]

/-- EdDSA Ed448 alone, as SPDM 1.3 numbers signature algorithms: bit 11 (R36, log 34). -/
def spdmSignatures : Word := 0x800#32

/-- SHA3-512 alone, as SPDM 1.3 numbers hash algorithms: bit 5 (R36, log 34). -/
def spdmHashes : Word := 0x20#32

/-- The measured items of R37 by index: boot ROM, firmware image, base die firmware of the twelve stacks in order, fuse configuration with the security version counter, and Ridge link firmware. -/
def Root.measured (r : Root) : List (Nat × List Byte) :=
  [(1, Config.bootRom), (2, r.image), (3, (List.range 12).flatMap (Config.baseFirmware r.image)), (4, r.fuseKeyHash ++ leBytes r.fuseVersion 8),
   (5, Config.linkFirmware r.image)]

/-- The measurements as they are reported: the hash of each item (R36, R37, log 34). -/
def Root.measurements (r : Root) : List (Nat × List Byte) := r.measured.map fun m => (m.1, sha3_512 m.2)

/-- The response to a supported request (R36, R37); only GET_MEASUREMENTS carries measurements. -/
def Root.spdmAnswer (r : Root) (k : Nat) (m : MgmtReq) : List Byte :=
  Config.spdmBody (BitVec.ofNat 8 (spdmCode k)) m.bytes spdmSignatures spdmHashes (if k = 6 then r.measurements else [])

/-- An SPDM request that is supported (R36): operand flag tells that its answer is still in the making after this step, and operand k, when 1, that the answer to the request in progress is ready. A request that arrives meanwhile is answered Busy. -/
def State.spdm (s : State) (k : Nat) : Out :=
  let m := s.operand.m
  if !s.root.answers false ∨ (m.bytes.drop 1).head? ≠ some (BitVec.ofNat 8 (spdmCode k)) then .next s
  else match s.root.spdmBusy with
    | some b =>
      if s.operand.k = 1 ∧ b = m then .next (State.sendSpdm { s with root := { s.root with spdmBusy := none } } m (s.root.spdmAnswer k m))
      else .next (s.sendSpdm m (spdmError 3 0))
    | none =>
      if s.operand.flag then .next { s with root := { s.root with spdmBusy := some m } }
      else .next (s.sendSpdm m (s.root.spdmAnswer k m))

/-- GET_VERSION (R36). -/
def execGetVersion (s : State) : Out := s.spdm 0
/-- GET_CAPABILITIES (R36). -/
def execGetCapabilities (s : State) : Out := s.spdm 1
/-- NEGOTIATE_ALGORITHMS (R36). -/
def execNegotiateAlgorithms (s : State) : Out := s.spdm 2
/-- GET_DIGESTS (R36). -/
def execGetDigests (s : State) : Out := s.spdm 3
/-- GET_CERTIFICATE (R36). -/
def execGetCertificate (s : State) : Out := s.spdm 4
/-- CHALLENGE (R36). -/
def execChallenge (s : State) : Out := s.spdm 5
/-- GET_MEASUREMENTS (R37). -/
def execGetMeasurements (s : State) : Out := s.spdm 6

/-- Whether R36 lists a request code. -/
def spdmListed (c : Byte) : Bool := (List.range 7).any fun k => c.toNat = spdmCode k

/-- SPDM_UNSUPPORTED_REQUEST (R36): Busy while a request is in progress, else UnsupportedRequest for a code that is not listed. -/
def execSpdmUnsupportedRequest (s : State) : Out :=
  let m := s.operand.m
  match (m.bytes.drop 1).head? with
  | none => .next s
  | some c =>
    if !s.root.answers false then .next s
    else if s.root.spdmBusy.isSome then .next (s.sendSpdm m (spdmError 3 0))
    else if spdmListed c then .next s
    else .next (s.sendSpdm m (spdmError 7 c))

/-! ### Identity and status -/

/-- Transactions that were received under the old numbers and have not been performed: they complete under those numbers (R39). -/
def State.onTheWay (s : State) : List Txn :=
  if !s.root.idset then [] else s.agenda.filterMap fun x => match x with
    | .event _ o => if o.t.dst = s.root.devNum ∧ o.t.op ≠ 0x03#6 ∧ o.t.op ≠ 0x04#6 ∧ o.t ≠ ({} : Operand).t ∧ !s.waiting.contains o.t then some o.t else none
    | _ => none

/-- SET_IDENTITY (R39): accepted on the sideband alone, with no reserved bit set and while no user context exists. Where both a reserved bit is set and a user context exists it answers BADARG, of which the spec says nothing (log 79). -/
def execSetIdentity (s : State) : Out :=
  s.command 0x20 false fun s m =>
    let a := reqNum m 1 2
    let b := reqNum m 3 2
    if m.ridge then (s, [stBadcmd])
    else if 1024 ≤ a ∨ 1024 ≤ b then (s, [stBadarg])
    else if s.ctxs.any (·.num ≠ 0) then (s, [stBusy])
    else ({ s with root := { s.root with idset := true, devNum := BitVec.ofNat 10 a, hostNum := BitVec.ofNat 10 b }, waiting := s.waiting ++ s.onTheWay }, [stOk])

/-- READY of the identity block (R72). -/
def State.ready (s : State) : Bool := (s.ident.getD 1 0).getLsbD 0

/-- STATUS (R39). -/
def execMgmtStatus (s : State) : Out :=
  s.command 0x21 true fun s _ =>
    (s, [stOk] ++ leBytes ((if s.ready then 1 else 0) + (if s.root.idset then 2 else 0)) 1 ++ [0] ++ leBytes s.root.devNum.toNat 2
      ++ leBytes s.root.hostNum.toNat 2 ++ [0, 0] ++ leBytes s.root.vpen.toNat 4 ++ [0, 0, 0, 0])

/-- SENSOR_READ (R38, R72): temperatures, power and energy in a layout that the spec does not give (log 6); on the sideband alone. With operand flag set the root controller returns the identity block instead, whose command the spec does not name either (log 80). -/
def execSensorRead (s : State) : Out :=
  let m := s.operand.m
  if !s.root.answers false ∨ m.ridge then .next s
  else if s.operand.flag then .next (s.sendReply m (stOk :: s.ident))
  else .next (s.sendReply m (Config.sensorReply s.root.temps.toList s.root.power (s.ctxs.map fun c => (c.num, c.energy))))

/-! ### Scrubbing, logs and counters (R298 to R303) -/

/-- A scrub setting as the 8 bytes of R303. -/
def Scrub.bytes (c : Scrub) : List Byte := leBytes (c.profile + (if c.logce then 4 else 0) + c.cethr * 256 + c.period * 65536) 8

/-- SCRUB_READ (R303). -/
def execScrubRead (s : State) : Out :=
  s.command 0x10 false fun s m =>
    let l := reqNum m 1 1
    if l = 0 ∨ 3 < l then (s, [stBadarg]) else (s, [stOk] ++ (s.root.scrubOf l).bytes)

/-- The period of a profile at a level (R298), the nearest bound for a custom one out of its range. -/
def scrubPeriod (level profile custom : Nat) : Nat :=
  match level, profile with
  | 3, 0 => 28800 | 3, 1 => 1800 | 3, _ => max 900 (min 172800 custom)
  | 2, 0 => 600 | 2, 1 => 120 | 2, _ => max 60 (min 3600 custom)
  | _, 0 => 60 | _, 1 => 10 | _, _ => max 5 (min 600 custom)

/-- SCRUB_WRITE (R303): the setting takes effect at the start of the next scrub pass. -/
def execScrubWrite (s : State) : Out :=
  s.command 0x11 false fun s m =>
    let l := reqNum m 1 1
    let v := reqNum m 2 8
    if l = 0 ∨ 3 < l ∨ bitsOf v 0 2 = 3 ∨ bitsOf v 3 5 ≠ 0 ∨ bitsOf v 48 16 ≠ 0 then (s, [stBadarg])
    else
      let c : Scrub := ⟨bitsOf v 0 2, v.testBit 2, bitsOf v 8 8, scrubPeriod l (bitsOf v 0 2) (bitsOf v 16 32)⟩
      ({ s with root := { s.root with scrubNext := vmod s.root.scrubNext (3 - l) fun _ => some c } }, [stOk])

/-- The 32 bytes of a log entry (R300). -/
def LogEntry.bytes (e : LogEntry) : List Byte :=
  leBytes e.time 8 ++ leBytes e.level 1 ++ leBytes e.struct 1 ++ leBytes e.sev 1 ++ leBytes (e.die % 4 + e.bin % 8 * 4) 1 ++ leBytes e.count 2
    ++ [e.ctx, e.cause] ++ leBytes e.loc 8 ++ leBytes e.detail.toNat 8

/-- LOG_READ (R303): entries oldest first, then DROPPED. -/
def execLogRead (s : State) : Out :=
  s.command 0x12 false fun s m =>
    let die := reqNum m 1 1
    let log := reqNum m 2 1
    let count := reqNum m 4 1
    if 3 < die ∨ 7 < log ∨ count = 0 ∨ 32 < count then (s, [stBadarg])
    else (s, [stOk] ++ (((s.root.log die log).drop (reqNum m 3 1)).take count).flatMap LogEntry.bytes ++ leBytes (countOf s.root.dropped (die, log)) 4)

/-- LOG_CLEAR (R303). -/
def execLogClear (s : State) : Out :=
  s.command 0x13 false fun s m =>
    let die := reqNum m 1 1
    let log := reqNum m 2 1
    if 3 < die ∨ 7 < log then (s, [stBadarg])
    else
      let r := { s.root with logs := s.root.logs.filter fun e => !(e.die = die && e.level = log), dropped := s.root.dropped.filter fun d => d.1 ≠ (die, log) }
      ({ s with root := r }, [stOk])

/-- Whether a code names a structure of R285 or an event of R300. -/
def structListed (c : Nat) : Bool := decide (1 ≤ c ∧ c ≤ 0x11) || decide (0x20 ≤ c ∧ c ≤ 0x22)

/-- LIFETIME_READ (R303): eight bins of corrected and uncorrectable errors. -/
def execLifetimeRead (s : State) : Out :=
  s.command 0x14 false fun s m =>
    let c := reqNum m 1 1
    if !structListed c then (s, [stBadarg])
    else (s, [stOk] ++ (List.range 8).flatMap fun b => leBytes (countOf s.root.lifetime (c, true, b)) 4 ++ leBytes (countOf s.root.lifetime (c, false, b)) 4)

/-! ### Quarantine (R293, R294) -/

def unitCount (kind : Nat) : Nat := match kind with
  | 0 => 256 | 1 => 64 | _ => 73728

/-- Whether a unit has resident work (R294): a Sill unit has that of the runs with home atoms in its bank. -/
def State.unitBusy (s : State) (kind n : Nat) : Bool :=
  match kind with
  | 0 => s.teams.any (·.core = n)
  | 1 => let e := s.engines.getD n Engine.reset
    !e.table.isEmpty || e.running.isSome || e.freeze.isSome
  | _ => (s.stackCtls.getD (n / 6144) ⟨[], 0, none⟩).queue.any fun id => (s.run? id).any fun r =>
      (r.homeAtoms (n / 6144)).any fun a => sillUnitOf a.1 = n % 6144

/-- A unit returned to service (R294). -/
def State.unquarantine (s : State) (kind n : Nat) : State :=
  match kind with
  | 0 => { s with root := { s.root with quarCores := s.root.quarCores.filter (· ≠ n) } }
  | 1 => { s with engines := vmod s.engines n fun e => { e with quarantined := false } }
  | _ => { s with root := { s.root with quarSill := s.root.quarSill.filter (· ≠ n) } }

/-- A failed built-in test logged (R294): core, engine or Sill unit. -/
def State.logTest (s : State) (kind n : Nat) : State :=
  match kind with
  | 0 => s.logErr 0 0x0D 4 (dieOfCore n) 0 0 (64 * n + 0x0D) 0
  | 1 => s.logErr 6 0x0E 4 (n / 16) 0 0 n 0
  | _ => s.logErr 6 0x0F 4 (n / 6144 / 3) 0 0 n 0

/-- RETURN_TO_SERVICE (R294, R303). -/
def execReturnToService (s : State) : Out :=
  s.command 0x15 false fun s m =>
    let kind := reqNum m 1 1
    let n := reqNum m 2 2
    if 2 < kind ∨ unitCount kind ≤ n then (s, [stBadarg])
    else if s.unitBusy kind n then (s, [stBusy])
    else if Config.selfTest kind n s.time then (s.unquarantine kind n, [stOk])
    else (s.logTest kind n, [stBadarg, 1])

/-- Bits from a predicate, eight to a byte, lowest first. -/
def bitmap (bytes : Nat) (p : Nat → Bool) : List Byte :=
  (List.range bytes).map fun k => (List.range 8).foldl (fun (b : Byte) i => if p (8 * k + i) then b ||| (1#8 <<< i) else b) 0

/-- QUARANTINE_LIST (R303). -/
def execQuarantineList (s : State) : Out :=
  s.command 0x16 false fun s m =>
    match reqNum m 1 1 with
    | 0 => (s, [stOk] ++ bitmap 32 s.root.quarCores.contains)
    | 1 => (s, [stOk] ++ bitmap 32 fun k => (s.engines.getD k Engine.reset).quarantined)
    | 2 => (s, [stOk] ++ bitmap 9216 s.root.quarSill.contains)
    | _ => (s, [stBadarg])

/-- Whether R39 or R303 lists a command code. -/
def commandListed (c : Byte) : Bool := decide (0x10 ≤ c.toNat ∧ c.toNat ≤ 0x16) || c = 0x20#8 || c = 0x21#8

/-- UNLISTED_VENDOR_COMMAND (R303): BADCMD. -/
def execUnlistedVendorCommand (s : State) : Out :=
  let m := s.operand.m
  match m.bytes.head? with
  | none => .next s
  | some c => if !s.root.answers false ∨ commandListed c = true then .next s else .next (s.sendReply m [stBadcmd])

/-! ### Messages in MCTP (R38, R39) -/

/-- The row that handles a command by its code. -/
def commandRow (c : Byte) : Instr :=
  match c.toNat with
  | 0x10 => .scrubRead | 0x11 => .scrubWrite | 0x12 => .logRead | 0x13 => .logClear | 0x14 => .lifetimeRead
  | 0x15 => .returnToService | 0x16 => .quarantineList | 0x20 => .setIdentity | 0x21 => .mgmtStatus
  | _ => .unlistedVendorCommand

/-- The row that handles an SPDM request by its code. -/
def spdmRow (c : Byte) : Instr :=
  match c.toNat with
    | 0x84 => .getVersion | 0xE1 => .getCapabilities | 0xE3 => .negotiateAlgorithms | 0x81 => .getDigests
    | 0x82 => .getCertificate | 0x83 => .challenge | 0xE0 => .getMeasurements
    | _ => .spdmUnsupportedRequest

/-- The turn in which the root controller handles an MCTP packet: the message follows a transport header of four bytes, and its first byte is the type (log 34); a vendor-defined message carries VPEN, most significant byte first (R39). -/
def State.mctpTurn (s : State) (packet : List Byte) : Option Turn :=
  let body := packet.drop 4
  match body with
  | [] => none
  | t :: rest =>
    if t = 0x05#8 then some (.event (spdmRow (rest.getD 1 0)) { m := ⟨true, rest⟩ })
    else if t = 0x7F#8 ∧ rest.take 4 = (leBytes s.root.vpen.toNat 4).reverse then
      some (.event (commandRow (rest.getD 4 0)) { m := ⟨true, rest.drop 4⟩ })
    else none

end Sys2Proof.Machine
end

