-- ==== Sys2Proof/Machine/Reliability.lean ====
section
/-! DEFINITION. Scrubbing (R298, R299), the folding of energy (R284), and the lifetime counts (R302). -/
namespace Sys2Proof.Machine

/-! ### Scrubbing -/

/-- An uncorrectable word that a scrubber finds (R286, R299): logged, not consumed, and reported. -/
def State.scrubFound (s : State) (level struct die loc : Nat) : State :=
  (s.logErr level struct 4 die 0 0 loc 0).interrupt 2 die 0 0 0

/-- A new setting takes effect as a pass over a level begins (R303, log 24). -/
def State.scrubStart (s : State) (level : Nat) : State :=
  match s.root.scrubNext.getD (3 - level) none with
  | none => s
  | some c => { s with root := { s.root with scrub := vmod s.root.scrub (3 - level) fun _ => c, scrubNext := vmod s.root.scrubNext (3 - level) fun _ => none } }

/-- One codeword of HBM (R285, R299): a single error is corrected in place, an uncorrectable one is logged. -/
def State.scrubWord (s : State) (w : Nat) : State :=
  if memTop ≤ 32 * w then s
  else if s.poison.contains w then s.scrubFound 3 0x09 (dieOfPa (32 * w)) (32 * w)
  else s.correctWord w

/-- One codeword of the L2 (R285, R287, R299): a clean line that has lost it is read again, and a dirty one is written back, so that DRAM has the check pattern. -/
def State.scrubL2 (s : State) (w : Nat) : State :=
  if !s.l2bad.contains w then s
  else match s.l2.find? (·.line = w / 4) with
    | none => { s with l2bad := s.l2bad.filter (· ≠ w) }
    | some x => if x.dirty then (s.spoil x).modL2 (32 * w) fun y => { y with dirty := false } else s.renewL2 x

/-- An injected error that the scrubber finds at a place of a core's L1 (R285, R299): a single error is corrected in place, a global line that cannot be corrected is dropped. -/
def State.scrubFlaw (s : State) (a : FlawAt) : State := (s.flaws.filter fun f => f.at_ = a && s.flawStands a).foldl (State.meetFlaw ⟨0, 0, 0⟩) s

/-- One granule of scratch on a core (R285, R299). -/
def State.scrubGranule (s : State) (core g : Nat) : State :=
  let s := s.scrubFlaw (.scratch core g)
  if s.teams.any fun t => t.core = core && t.poison.contains g then s.scrubFound 1 0x07 (dieOfCore core) (64 * core) else s

/-- SCRUB_VISIT (R299): operand n is the level, 3 HBM, 2 L2, 1 L1 and scratch; k is the codeword of HBM or of the L2, or the core with granule j of scratch, or with flag set the global line j of its L1. Place 0 begins a pass. -/
def execScrubVisit (s : State) : Out :=
  let o := s.operand
  let line := decide (o.n = 1) && o.flag
  let s := if o.k = 0 ∧ o.j = 0 ∧ !line then s.scrubStart o.n else s
  match o.n with
  | 3 => .next (s.scrubWord o.k)
  | 2 => .next (s.scrubL2 o.k)
  | 1 => .next (if line then s.scrubFlaw (.l1 o.k o.j) else s.scrubGranule o.k o.j)
  | _ => .next s

/-! ### Energy -/

/-- ENERGY_FOLD (R284): operand n is the core, which folds what it has accumulated for every context. -/
def execEnergyFold (s : State) : Out :=
  let k := s.operand.n % 256
  let s := s.countStatic k
  .next ((((s.core k).energy.map (·.1.1)).eraseDups).foldl (fun s c => s.foldEnergy k c) s)

/-! ### Lifetime counts -/

/-- The lifetime counts written to flash (R302). -/
def State.saveLifetime (s : State) : State := { s with root := { s.root with lifetimeSaved := s.root.lifetime, lifeAt := s.time } }

/-- An hour of device time in ticks (R7). -/
def hourTicks : Nat := 3600 * 10 ^ 9

/-- LIFETIME_COUNT_SAVE (R302): every hour of device time. -/
def execLifetimeCountSave (s : State) : Out := if s.time < s.root.lifeAt + hourTicks then .next s else .next s.saveLifetime

end Sys2Proof.Machine
end

