-- ==== Sys2Proof/Machine/Ridge.lean ====
section
/-! DEFINITION. Ridge transactions (R25 to R29, R51 to R55): their checks, requests of memory, queues, mailboxes and management, and completions. Each meaning takes the transaction from operand t; one that must still wait for a frame, a move or a Sill run comes up again as a later turn (R194, R230). -/
namespace Sys2Proof.Machine

/-! ### Fields (R51) -/

/-- A bit field of a transaction's doubleword 2. -/
def dw2 (t : Txn) (lo w : Nat) : Nat := bitsOf t.dw2.toNat lo w

/-- The data that follow a header: 32 bytes for each slot. -/
def txnData (t : Txn) : List Byte := (t.data ++ List.replicate 256 0).take (32 * t.ndata.toNat)

/-- The byte mask of a write: bytes 128 and up are written always (R51). -/
def writeMask (t : Txn) : List Bool :=
  (List.range (32 * t.ndata.toNat)).map fun k => if k < 64 then t.dw2.getLsbD k else if k < 128 then t.dw3.getLsbD (k - 64) else true

/-- The operand rules of R51 and R54 for an operation. -/
def operandsOk (t : Txn) : Bool :=
  let nd := t.ndata.toNat
  match t.op.toNat with
  | 0x00 => decide (1 ≤ dw2 t 0 9 ∧ dw2 t 0 9 ≤ 256) && decide (t.addr.toNat % 256 + dw2 t 0 9 ≤ 256) && dw2 t 9 55 = 0 && t.dw3 = 0 && nd = 0
  | 0x01 => decide (1 ≤ nd ∧ nd ≤ 8) &&
      (if 4 < nd then t.dw2 = (-1 : DWord) && t.dw3 = (-1 : DWord) else decide ((t.dw2.toNat + t.dw3.toNat * 2 ^ 64) < 2 ^ (32 * nd)))
  | 0x02 => dw2 t 5 59 = 0 && decide (dw2 t 0 4 ≤ 7) && t.addr.toNat % (if dw2 t 4 1 = 1 then 8 else 4) = 0 && nd = 1 && (dw2 t 0 4 = 7 || t.dw3 = 0)
  | 0x03 => decide (1 ≤ nd ∧ nd ≤ 8) && dw2 t 20 44 = 0 && decide (dw2 t 0 8 ≤ 9) && t.ctx = 0 && t.addr = 0 && t.dw3 = 0
  | 0x04 => nd = 0 && dw2 t 20 44 = 0 && decide (dw2 t 0 8 ≤ 9) && t.ctx = 0 && t.addr = 0 && t.dw3 = 0
  | 0x08 => nd = 0 && dw2 t 12 52 = 0 && t.addr = 0 && decide (1 ≤ dw2 t 0 8 ∧ dw2 t 0 8 ≤ 7)
      && (if dw2 t 0 8 = 1 then decide (t.dw3.toNat < 2 ^ 32) else t.dw3 = 0) && (decide (dw2 t 0 8 < 6) || dw2 t 8 4 = 0)
  | 0x09 => nd = 0 && dw2 t 19 45 = 0
  | 0x0C => decide (1 ≤ nd ∧ nd ≤ 8) && dw2 t 0 64 = 1 && t.dw3 = 0 && t.ctx = 0
  | _ => false

/-- Whether the checks of R26 pass: a known OP, no reserved bit, NDATA at most 8, a VC in use, and the operand rules. -/
def wellFormed (t : Txn) : Bool := operandsOk t && t.rsv0 = 0 && t.rsv1 = 0 && decide (t.ndata.toNat ≤ 8) && decide (t.vc.toNat ≤ 3)

def isCompletion (t : Txn) : Bool := t.op = 0x03#6 || t.op = 0x04#6

/-! ### Answers (R51, R53) -/

/-- Status codes of R53. -/
def rsOk : Nat := 0
def rsMalformed : Nat := 1
def rsUnreach : Nat := 2
def rsDenied : Nat := 3
def rsFault : Nat := 4
def rsNonres : Nat := 5
def rsAbort : Nat := 6
def rsQerr : Nat := 7
def rsMbfull : Nat := 8
def rsNoteam : Nat := 9

/-- A completion of a request: with data in whole slots, or without. -/
def completionOf (self : BitVec 10) (t : Txn) (status : Nat) (data : List Byte) : Txn :=
  let nd := (data.length + 31) / 32
  { Txn.zero with dst := t.src, src := self, vc := 1, op := if nd = 0 then 0x04 else 0x03, ndata := BitVec.ofNat 4 nd
                  dw2 := BitVec.ofNat 64 (status + t.tag.toNat * 256)
                  data := (data ++ List.replicate 32 0).take (32 * nd) }

/-- A completion sent at once; the request waits no longer. It comes from the number that the request named, which may be an old one (R39). -/
def State.answer (s : State) (t : Txn) (status : Nat) (data : List Byte) : State :=
  State.sendTxn { s with waiting := s.waiting.erase t } (completionOf t.dst t status data)

/-- A completion that waits for a device time, for lines that a Sill run holds, and for pieces at other peers that are on their way under its number (R185, R216, R230). -/
def State.answerAt (s : State) (t : Txn) (status : Nat) (data : List Byte) (time : Nat) (lines : List Nat) (id out : Nat) : State :=
  { s with replies := s.replies ++ [⟨id, time, lines, out, completionOf t.dst t status data⟩], waiting := s.waiting.erase t }

/-- A transaction discarded without an answer and counted (R26, R39). -/
def State.discard (s : State) (isError : Bool) : State :=
  let s := State.logErr { s with ridgeDiscards := s.ridgeDiscards + 1 } 4 0x10 6 0 0 0 0 0
  if isError then { s with ridgeErrors := s.ridgeErrors + 1 } else s

/-- Whether a request's source may command its context (R52). -/
def State.permitted (s : State) (t : Txn) : Bool :=
  if t.ctx = 0 ∨ t.op = 0x0C#6 then decide (t.src = s.root.hostNum)
  else match s.ctx? t.ctx with
    | some c => decide (t.src = c.owner)
    | none => false

/-- A request as it reaches this Z9 (R26, R39, R52): discarded before an identity is set or when it is for another device, malformed, denied, or performed. One that waits has passed the check of its number, which may be an old one (R39). A meaning that is not for its operation leaves it to the meaning that is. -/
def State.receive (s : State) (mine : Txn → Bool) (f : State → Ctx → Txn → State) : Out :=
  let t := s.operand.t
  if isCompletion t || !mine t || s.root.phase ≠ .running then .next s
  else if !s.root.idset then .next (s.discard false)
  else if t.dst ≠ s.root.devNum ∧ !s.waiting.contains t then .next (s.discard true)
  else if !wellFormed t then .next (State.answer (State.logErr { s with ridgeErrors := s.ridgeErrors + 1 } 4 0x10 6 0 t.ctx 0 0 0) t rsMalformed [])
  else if !s.permitted t then .next (s.answer t rsDenied [])
  else match s.ctx? t.ctx with
    | none => .next (s.answer t rsDenied [])
    | some c => .next (f s c t)

/-- A request that must wait for a frame, a move or a Sill run: its turn falls due again (R194, R208, R230). -/
def State.again (s : State) (t : Txn) : State := if s.waiting.contains t then s else { s with waiting := s.waiting ++ [t] }

/-- Who a Ridge request or the packet processor is when it translates (R466). -/
def ridgeWho (t : Txn) : Who := ⟨t.ctx, none, none, none⟩

/-- MALFORMED_TRANSACTION (R26): a request that fails the checks. -/
def execMalformedTransaction (s : State) : Out := s.receive (fun t => !wellFormed t) fun s _ _ => s

/-! ### Memory -/

/-- MEMORY_READ (R51, R53). -/
def execMemoryRead (s : State) : Out :=
  s.receive (·.op = 0x00#6) fun s _ t =>
    let n := dw2 t 0 9
    match s.readSpan (ridgeWho t) t.addr.toNat n .read with
    | .ok s g =>
      let s := s.dropStage 0
      match g with
      | .bytes b => s.answer t rsOk b
      | .prot => s.answer t rsFault (List.replicate n 0)
      | .nonres => s.answer t rsNonres (List.replicate n 0)
      | .bad x => (s.lose t.ctx x).answer t rsAbort []
    | .hold s _ | .trap s _ | .gone s _ => s.again t

/-- The runs of bytes that a mask leaves, from an address. -/
def maskRuns (a : Nat) : List (Option Byte) → List (Nat × List Byte)
  | [] => []
  | none :: r => maskRuns (a + 1) r
  | some b :: r => match maskRuns (a + 1) r with
    | (x, l) :: rest => if x = a + 1 then (a, b :: l) :: rest else (a, [b]) :: (x, l) :: rest
    | [] => [(a, [b])]

/-- The pieces of a write: virtual address, length, and where each lies. -/
def State.placeSpan (s : State) (w : Who) (va n : Nat) (need : Need) : State × List ((Nat × Nat) × Place) :=
  (spanPieces va n).foldl (fun (s, l) p => let (s, x) := s.place w p.1 need; (s, l ++ [(p, x)])) (s, ([] : List ((Nat × Nat) × Place)))

/-- Uncorrectable data that the walk for a place has met. -/
def Place.lost? : Place → Option Spot
  | .abort x => some x
  | _ => none

def Place.isHere (p : Place) : Option Nat := match p with
  | .here pa _ => some pa
  | _ => none

/-- The masked bytes of one piece written here: the latest completion time and the held lines with it. -/
def State.writePiece (s : State) (w : Who) (va : Nat) (p : Place) (bytes : List (Option Byte)) : State × Nat × List Nat :=
  match p with
  | .here pa _ =>
    if pa < 65536 then (s.ctlWrite pa bytes, 0, [])
    else (maskRuns pa bytes).foldl (fun (s, m, l) (a, b) =>
      let (s, wt) := s.writeHome w none a (va + (a - pa)) b 1
      (s, max m wt, if s.held a then a :: l else l)) (s, 0, ([] : List Nat))
  | _ => (s, 0, [])

/-- The pieces of a request that lie at peers sent on under the number of its completion (R185): how many, or the outcome that stops them. -/
def State.sendPieces (s : State) (id : Nat) : List (BitVec 10 × Txn) → Nat → Sending × Nat
  | [], n => (.sent s, n)
  | (d, t) :: r, n => match s.request d t (.forward id) with
    | .sent s => s.sendPieces id r (n + 1)
    | x => (x, n)

/-- A piece at a peer answered: the status of a page that fails is that of the request (R185), and data come with an atomic. -/
def State.answerPiece (s : State) (id status : Nat) (data : List Byte) : State :=
  let st := if status = rsOk ∨ status = rsNonres ∨ status = rsAbort then status else rsFault
  let tag (t : Txn) : Nat := dw2 t 8 12
  { s with replies := lmod s.replies (·.id = id) fun r =>
      { r with out := r.out - 1
               t := if st ≠ rsOk ∧ dw2 r.t 0 8 = rsOk then { r.t with dw2 := BitVec.ofNat 64 (st + tag r.t * 256) }
                    else if r.t.data.isEmpty then r.t else { r.t with data := data.take r.t.data.length } } }

/-- MEMORY_WRITE (R51, R216): every page is translated before a byte is written; the completion waits for the completion time. -/
def execMemoryWrite (s : State) : Out :=
  s.receive (·.op = 0x01#6) fun s _ t =>
    let w := ridgeWho t
    let va := t.addr.toNat
    let (s, ps) := s.placeSpan w va (32 * t.ndata.toNat) .write
    let bytes := ((txnData t).zip (writeMask t)).map fun (b, m) => if m then some b else none
    let part (p : (Nat × Nat) × Place) : List (Option Byte) := (bytes.drop (p.1.1 - va)).take p.1.2
    let merges (p : (Nat × Nat) × Place) : Bool := match p.2 with
      | .here pa _ => decide (65536 ≤ pa) && (maskRuns pa (part p)).any fun (a, b) => s.badWrite a b.length
      | _ => false
    let mergeAt (ps : List ((Nat × Nat) × Place)) : Nat := match (ps.find? merges).bind (·.2.isHere) with
      | some pa => s.badAt pa 128
      | none => 0
    let lost := ps.findSome? (·.2.lost?)
    if ps.any (·.2 = .prot) then s.answer t rsFault []
    else if ps.any (·.2 = .nonres) then s.answer t rsNonres []
    else if lost.isSome then (s.lose t.ctx (lost.getD peerSpot)).answer t rsAbort []
    else if ps.any (·.2 = .hold) then s.again t
    else if ps.any merges then (s.consumed t.ctx (mergeAt ps) 1).answer t rsAbort []
    else
      let (s, id) := s.fresh
      match s.sendPieces id (ps.filterMap fun p => match p.2 with
          | .peer d pa => some (d, maskTxn w.ctx pa (part p))
          | _ => none) 0 with
      | (.sent s, out) =>
        let (s, m, l) := ps.foldl (fun (s, m, l) p => let (s, a, b) := s.writePiece w p.1.1 p.2 (part p); (s, max m a, l ++ b)) (s, 0, ([] : List Nat))
        s.answerAt t rsOk [] m l id out
      | (.noPort, _) => s.answer t rsFault []
      | (.full, _) => s.again t

/-- The operator of an AOP code (R51). -/
def ridgeOp (a : Nat) : AtomOp :=
  match a with
  | 0 => .add | 1 => .minS | 2 => .maxS | 3 => .and | 4 => .or | 5 => .xor | 6 => .xchg | _ => .cas

/-- ATOMIC (R51, R216). -/
def execRidgeAtomic (s : State) : Out :=
  s.receive (·.op = 0x02#6) fun s _ t =>
    let w := ridgeWho t
    let n := if dw2 t 4 1 = 1 then 8 else 4
    let op := ridgeOp (dw2 t 0 4)
    let x := leNat ((txnData t).take n)
    let cmp := t.dw3.toNat % 2 ^ (8 * n)
    let va := t.addr.toNat
    match s.place w va .both with
    | (s, .here pa _) =>
      if pa < 65536 then
        let m := leNat (s.physBytes pa n)
        (s.physWrite pa (leBytes (op.apply n m x cmp) n)).answer t rsOk (leBytes m n)
      else if s.bad pa n then (s.consumed t.ctx pa n).answer t rsAbort []
      else if s.held pa then s.again t
      else
        let m := s.ld pa n
        let v := op.apply n m x cmp
        if v = m then (s.touchHome w none pa va 1).answer t rsOk (leBytes m n)
        else
          let (s, wt) := s.writeHome w none pa va (leBytes v n) 1
          let (s, id) := s.fresh
          s.answerAt t rsOk (leBytes m n) wt [] id 0
    | (s, .peer d pa) =>
      let (s, id) := s.fresh
      match s.request d (atomicTxn t.ctx pa (dw2 t 0 4) n x cmp) (.forward id) with
      | .sent s => s.answerAt t rsOk (List.replicate n 0) 0 [] id 1
      | .noPort => s.answer t rsFault (List.replicate n 0)
      | .full => s.again t
    | (s, .prot) => s.answer t rsFault (List.replicate n 0)
    | (s, .nonres) => s.answer t rsNonres (List.replicate n 0)
    | (s, .abort x) => (s.lose t.ctx x).answer t rsAbort []
    | (s, .hold) => s.again t

/-! ### Queue operations (R44, R47, R48, R54, R55, R71) -/

/-- A queue operation on a queue that exists; MALFORMED otherwise. -/
def State.queueOp (s : State) (qop : Nat) (f : State → Ctx → Nat → Queue → Txn → State) : Out :=
  s.receive (fun t => t.op = 0x08#6 && dw2 t 0 8 = qop) fun s c t =>
    let q := dw2 t 8 4
    let x := s.queueNow c q
    if x.ring = 0 then s.answer t rsMalformed [] else f s c q x t

/-- Whether a queue is the bootstrap queue before its first accepted tail write (R44). -/
def bootstrapOpen (c : Ctx) (q : Nat) (x : Queue) : Bool := c.num = 0 && q = 0 && !x.latched

/-- TAIL_WRITE (R44, R47, R48, R54). -/
def execTailWrite (s : State) : Out :=
  s.queueOp 1 fun s c q x t =>
    let v : Word := t.dw3.extractLsb' 0 32
    if x.kind = 1 ∨ (bootstrapOpen c q x = true ∧ (x.logsize < 4 ∨ 16 < x.logsize ∨ x.kind ≠ 0)) then s.answer t rsMalformed []
    else if 2 ^ x.logsize < (v - x.progress).toNat then s.answer t rsQerr []
    else (s.putQueue c q { x with tail := v, latched := x.latched || bootstrapOpen c q x }).answer t rsOk []

/-- PROGRESS_READ (R48, R54). -/
def execProgressRead (s : State) : Out := s.queueOp 2 fun s _ _ x t => s.answer t rsOk (leBytes x.progress.toNat 4)

/-- TAIL_READ (R48, R54). -/
def execTailRead (s : State) : Out := s.queueOp 3 fun s _ _ x t => s.answer t rsOk (leBytes x.tail.toNat 4)

/-- STATUS_READ (R54, R55). -/
def execStatusRead (s : State) : Out := s.queueOp 4 fun s _ _ x t => s.answer t rsOk (leBytes x.status 8)

/-- QUEUE_RESUME (R54, R55): a failing packet that was not consumed is skipped. -/
def execQueueResume (s : State) : Out :=
  s.queueOp 5 fun s c q x t =>
    if x.kind = 1 ∧ t.src ≠ s.root.hostNum then s.answer t rsDenied []
    else if !x.error then s.answer t rsOk []
    else
      let p := if x.consumed then x.progress else x.progress + 1
      let y := { x with error := false, consumed := false, errcode := 0, progress := p
                        parents := if x.consumed then x.parents else x.parents.filter (·.1 ≠ x.progress) }
      (s.putQueue c q y).answer t rsOk []

/-- What every core has accumulated for a context folded, so that a read lags by nothing (R71, R284). -/
def State.foldAll (s : State) (ctx : BitVec 8) : State := (List.range 256).foldl (fun s k => s.foldEnergy k ctx) s

/-- The energy doubleword of R71. -/
def State.energyWord (s : State) (c : Ctx) : Nat :=
  c.energy % 2 ^ 48 + (if s.teams.any (·.ctx = c.num) then 2 ^ 62 else 0) + (if c.sticky then 2 ^ 63 else 0)

/-- ENERGY_READ (R71). -/
def execEnergyRead (s : State) : Out :=
  s.receive (fun t => t.op = 0x08#6 && dw2 t 0 8 = 6) fun s c t =>
    let s := s.foldAll c.num
    s.answer t rsOk (leBytes (s.energyWord ((s.ctx? c.num).getD c)) 8)

/-- ENERGY_CLEAR (R71). -/
def execEnergyClear (s : State) : Out :=
  s.receive (fun t => t.op = 0x08#6 && dw2 t 0 8 = 7) fun s c t =>
    ((s.foldAll c.num).modCtx c.num fun c => { c with energy := 0, sticky := false }).answer t rsOk []

/-! ### Mailboxes and management -/

/-- MAILBOX_POST (R66). -/
def execMailboxPost (s : State) : Out :=
  s.receive (·.op = 0x09#6) fun s _ t =>
    let v := BitVec.ofNat 16 (dw2 t 0 16)
    let mb := dw2 t 16 3
    match s.anyTeam? t.ctx v with
    | none => s.answer t rsNoteam []
    | some m => if m.mbFull mb then s.answer t rsMbfull [] else (s.post t.ctx v mb t.dw3).answer t rsOk []

/-- MANAGEMENT_MESSAGE (R52): an accepted message is handled as one of the sideband, in a turn of its own. -/
def execManagementMessage (s : State) : Out :=
  s.receive (·.op = 0x0C#6) fun s _ t =>
    let s := s.answer t rsOk []
    match s.mctpTurn (txnData t) with
    | some turn => { s with agenda := s.agenda ++ [turn] }
    | none => s

/-! ### Completions (R26, R53, R185, R188) -/

/-- The bytes of a peer's line kept, with the status where it failed (R195). -/
def State.fillLine (s : State) (core line : Nat) (code : Bool) (status : Nat) (data : List Byte) : State :=
  let l : CacheLine := ⟨line, (data ++ List.replicate 128 0).take 128, BitVec.ofNat 8 status⟩
  s.modCore core fun c =>
    if code then { c with icache := (l :: c.icache.filter (·.line ≠ line)).take 512 } else { c with kcache := (l :: c.kcache.filter (·.line ≠ line)).take 512 }

/-- A lane's part of a load or atomic of a peer answered (R185, R188): data, zero with the flag of a non-resident page, a fault, or an abort. -/
def State.answerPart (s : State) (r : GroupRef) (id lane : Nat) (status : Nat) (data : List Byte) : State :=
  match s.group? r with
  | none => s
  | some g => match g.loads.find? (·.id = id) with
    | none => s
    | some l => match l.parts.find? (·.lane = lane) with
      | none => s
      | some _ =>
        let n := l.dest.bytes
        if status = rsOk then s.modGroup r (·.setPart id lane (.done ((data ++ List.replicate 32 0).take n) false))
        else if status = rsNonres then s.modGroup r (·.setPart id lane (.done (List.replicate n 0) true))
        else if status = rsAbort then s.abortTeam r.ctx r.vteam peerSpot
        else s.modGroup r (·.refuse id lane)

/-- The acknowledgement of a part on a peer falls due when the peer has answered (R216, R219). -/
def State.ackAnswered (s : State) (r : GroupRef) (entry tag : Nat) : State :=
  let now := match s.team? r.ctx r.vteam with
    | some t => s.leaseNow t
    | none => s.time
  s.modGroup r fun g => { g with acks := lmod g.acks (fun a => a.entry = entry && a.tag = some tag) fun a => { a with tag := none, time := now } }

/-- A store part to a peer answered (R185, R188, R219): its acknowledgement falls due now, and the record of its strand's remote parts hears of it. -/
def State.answerStore (s : State) (r : GroupRef) (entry tag : Nat) (status : Nat) : State :=
  match s.group? r with
  | none => s
  | some g =>
    let lane := match g.acks.find? fun a => a.entry = entry && a.tag = some tag with
      | some a => a.lane
      | none => 0
    let s := s.ackAnswered r entry tag
    let scalar := match g.loads.find? (·.id = entry) with
      | some l => l.parts.any (·.lane = pieceLane 0)
      | none => false
    s.answerPart r entry (if scalar then pieceLane 0 else lane) status []

/-- A piece of a streamer copy answered (R418): a read goes on to its destination, a failure stands with its page. -/
def State.answerCopy (s : State) (core id ofs len : Nat) (write : Bool) (status : Nat) (data : List Byte) : State :=
  match (s.core core).copies.find? (·.id = id) with
  | none => s
  | some c =>
    let s := s.modCopy core id fun c => { c with out := c.out - 1 }
    let page := ((if write then c.dst else c.src).toNat + ofs) % 2 ^ 57 / 65536
    if status = rsOk then
      if write then s
      else
        let (s, e) := s.copyEnd core c (c.dst + BitVec.ofNat 64 ofs) (if c.op.isSome then .both else .write)
        s.copyWrite core c ofs e (data.take len)
    else if status = rsAbort then s.abortCopy c core peerSpot
    else s.modCopy core id fun c => { c with fail := worseFail c.fail page ((if write then 2 else 1) + (if status = rsNonres then 2 else 0)) }

/-- A completion matched to the request that it answers (R26), by tag, source and the number under which the request went out (R39); any other is discarded and counted. -/
def State.complete (s : State) (withData : Bool) : Out :=
  let t := s.operand.t
  if !isCompletion t ∨ (t.op = 0x03#6) ≠ (withData = true) ∨ s.root.phase ≠ .running then .next s
  else if !s.root.idset then .next (s.discard false)
  else if wellFormed t = false then .next (s.discard true)
  else match s.outstanding.find? fun r => r.tag = dw2 t 8 12 && r.peer = t.src && r.self = t.dst with
    | none => .next (s.discard true)
    | some r =>
      let s := { s with outstanding := s.outstanding.erase r }
      let status := dw2 t 0 8
      let data := txnData t
      .next (match r.want with
        | .loadPart g l k => (s.ackAnswered g l r.tag).answerPart g l k status data
        | .storeAck g e => s.answerStore g e r.tag status
        | .copy core id ofs len w => s.answerCopy core id ofs len w status data
        | .line core line code => s.fillLine core line code status data
        | .sysCopy id ofs len w => s.answerSys id ofs len w status data
        | .signal o => s.answerSignal o status
        | .message => s
        | .forward id => s.answerPiece id status data
        | .launch q k => s.answerLaunch q k status
        | .gridPart rec_ id => s.answerGridPart rec_ id
        | .stray => s)

/-- COMPLETION_WITH_DATA (R26, R51). -/
def execCompletionWithData (s : State) : Out := s.complete true

/-- COMPLETION_WITHOUT_DATA (R26, R51). -/
def execCompletionWithoutData (s : State) : Out := s.complete false

end Sys2Proof.Machine
end

