-- ==== Sys2Proof/Machine/Device.lean ====
section
/-! DEFINITION. The device as a whole: boot (R34, R35, R72), temperature (R33), device time (R31), links (R22 to R24, R29, R297), the flash (R38) and the sideband address (R38). -/
namespace Sys2Proof.Machine

/-! ### Boot (R35) -/

/-- Phases 1 and 2: whether a slot's digest of 64 bytes, its key and its signature of 114 bytes are right, and its version is not below the fuses (R34). -/
def Root.slotOk (r : Root) (f : FlashSlot) : Bool :=
  decide (f.digest.length = 64 ∧ f.signature.length = 114) && shake256 f.image 64 = f.digest && Config.keyHash f.key = r.fuseKeyHash
    && ed448Verify f.key f.digest f.signature && decide (r.fuseVersion ≤ f.version)

/-- The slot that boots: A, else B (false and true). -/
def Root.bootSlot (r : Root) : Option Bool :=
  if r.slotOk r.slotA then some false else if r.slotOk r.slotB then some true else none

/-- The identity block (R72). -/
def identBlock (vpen : Word) : List Byte := leBytes 0x30 1 ++ leBytes 1 1 ++ leBytes 0x0B01 2 ++ leBytes vpen.toNat 4 ++ leBytes 0x3FF 8

/-- What a reset leaves of the root controller: its flash, its fuses, and the quarantines, which only the management command ends (R293). -/
def Root.restart (r : Root) : Root :=
  { Root.reset with slotA := r.slotA, slotB := r.slotB, fuseVersion := r.fuseVersion, fuseKeyHash := r.fuseKeyHash, vpen := r.vpen, temps := r.temps, power := r.power
                    lifetime := r.lifetimeSaved, lifetimeSaved := r.lifetimeSaved
                    quarCores := r.quarCores, quarSill := r.quarSill }

/-- Engines after a reset: nothing but their quarantines is left (R293). -/
def State.emptyEngines (s : State) : Vector Engine 64 := s.engines.map fun e => { Engine.reset with quarantined := e.quarantined }

/-- The machine as a boot finds it: reset, but for what the root controller keeps and what the model itself counts. -/
def State.restart (s : State) : State :=
  { State.reset with root := s.root.restart, sent := s.sent, agenda := s.agenda, operand := s.operand, cycle := s.cycle, free := s.free, engines := s.emptyEngines }

/-- What the other end of a port declares in training (R29): byte k of an operand's bytes, 0 a Z9, 1 a switch, 2 a host adapter, and where it has no such byte, its peer. -/
def portPeer (o : Operand) (k : Nat) : PeerKind :=
  match (o.bytes[k]?).map (·.toNat) with
  | some 0 => .z9
  | some 1 => .switch
  | some 2 => .hostAdapter
  | _ => o.peer

/-- Stacks that fail their test: those whose bit is clear (R35). -/
def failedStacks (n : Nat) : List Nat := (List.range 12).filter fun k => !n.testBit k

/-- BOOT (R29, R35): operands n, k and j tell by a bit each which stacks, die-to-die links and ports train, and bytes and peer what each port's other end declares. It runs when the device is not running. -/
def execBoot (s : State) : Out :=
  if s.root.phase = .running then .next s
  else
    let o := s.operand
    let s := s.restart
    match s.root.bootSlot with
    | none => .next { s with root := { s.root with phase := .recoveryOnly } }
    | some b =>
      if o.n % 2 ^ 12 ≠ 2 ^ 12 - 1 ∨ o.k % 2 ^ 4 ≠ 2 ^ 4 - 1 then .next { s with root := { s.root with phase := .recoveryOnly, booted := some b, failedStacks := failedStacks o.n } }
      else
        let port (k : Nat) : Port := { Port.reset with up := o.j.testBit k, peer := if o.j.testBit k then some (portPeer o k) else none }
        .next { s with
          root := { s.root with phase := .running, booted := some b }
          ports := Vector.ofFn fun i => port i.val
          dieLinks := Vector.replicate 4 ⟨true, 0, 0⟩
          ident := identBlock s.root.vpen }

/-! ### Temperature (R33) -/

/-- What is left once every die has stopped: device memory, the clocks, and the root controller with its logs (R33). -/
def State.stopped (s : State) : State :=
  { State.reset with
    time := s.time, frac := s.frac, cycle := s.cycle, dieOff := s.dieOff, mem := s.mem, poison := s.poison, corrupt := s.corrupt
    root := { s.root with phase := .shutDown }, ident := s.ident, sent := s.sent, agenda := s.agenda, operand := s.operand, free := s.free, engines := s.emptyEngines }

/-- A junction at 115 °C or more stops every die (R33, R277, R302): running work is lost, device memory is kept. -/
def State.shutDown (s : State) (d temp : Nat) : State :=
  let s := State.saveLifetime { s with root := { s.root with temps := vmod s.root.temps d fun _ => temp } }
  let s := s.interrupt 5 d 0 0 0
  { s.stopped with sent := s.sent ++ [.shutdownReport d] }

/-- THROTTLE (R32, R33): operands n, k and j are a die, the temperature of its junction and the package's power averaged over 100 ms; the die is throttled from 100 °C or above 3,000 W, and 115 °C shut the device down. Which die a power above the limit concerns is the model's choice (log 74). -/
def execThrottle (s : State) : Out :=
  let o := s.operand
  let d := o.n % 4
  let s := { s with root := { s.root with power := o.j } }
  if 115 ≤ o.k ∧ s.root.phase = .running then .next (s.shutDown d o.k)
  else .next { s with root := { s.root with temps := vmod s.root.temps d fun _ => o.k }
                      throttled := vmod s.throttled d fun _ => decide (100 ≤ o.k ∨ 3000 < o.j) }

/-- THERMAL_SHUTDOWN (R32, R33, R277, R302): operands n and k are the die and a junction temperature of 115 °C or more. -/
def execThermalShutdown (s : State) : Out :=
  if s.operand.k < 115 ∨ s.root.phase ≠ .running then .next s else .next (s.shutDown (s.operand.n % 4) s.operand.k)

/-! ### Device time (R31) -/

/-- DEVICE_TIME_SLEW (R31): operands n and k are the die and its new offset plus 2. The offset moves by at most a tick, and back only where the master has just ticked, so that no counter goes back. -/
def execDeviceTimeSlew (s : State) : Out :=
  let d := s.operand.n % 4
  let old := s.dieOff.getD d 0
  let new : Int := (s.operand.k : Int) - 2
  let ok := d ≠ 0 && decide (s.operand.k ≤ 4) && !s.timeHeld && decide (s.time % 1000 = 0) && (new = old || new = old + 1 || (new = old - 1 && decide (s.frac < 5)))
  if ok then .next { s with dieOff := vmod s.dieOff d fun _ => new } else .next s

/-- DEVICE_TIME_RESYNC (R31): operand n is the die that is too far from the master, or 0 where the reference clock fails; every counter holds until, with operand flag set, the master resumes. The log, STRUCT, SEV and die of its entry, which R31 and R300 leave open, are the model's choice: log 0 of the die named, 0, and 6 (log 75). -/
def execDeviceTimeResync (s : State) : Out :=
  if s.operand.flag then .next { s with timeHeld := false }
  else if s.timeHeld then .next s
  else .next (State.logErr { s with timeHeld := true } 0 0 6 (s.operand.n % 4) 0 0 0 0)

/-! ### Ridge links (R22 to R24, R29) -/

/-- The row that performs a transaction (R26, R54). -/
def txnRow (t : Txn) : Instr :=
  if isCompletion t then (if t.op = 0x03#6 then .completionWithData else .completionWithoutData)
  else if !wellFormed t then .malformedTransaction
  else match t.op.toNat with
    | 0x00 => .memoryRead
    | 0x01 => .memoryWrite
    | 0x02 => .ridgeAtomic
    | 0x09 => .mailboxPost
    | 0x0C => .managementMessage
    | _ => match dw2 t 0 8 with
      | 1 => .tailWrite
      | 2 => .progressRead
      | 3 => .tailRead
      | 4 => .statusRead
      | 5 => .queueResume
      | 6 => .energyRead
      | _ => .energyClear

/-- The transactions that stand whole in a list of slots, and the slots that are left; a slot of zeros in place of a header is filler (log 39). A header with NDATA above 8, of which the spec does not say how many slots follow, takes none (log 76). Fuel is the number of slots. -/
def takeTxns : Nat → List (List Byte) → List Txn × List (List Byte)
  | 0, l => ([], l)
  | _ + 1, [] => ([], [])
  | n + 1, h :: r =>
    if h.all (· = 0) then takeTxns n r
    else
      let t := txnOf h []
      let k := if 8 < t.ndata.toNat then 0 else t.ndata.toNat
      if r.length < k then ([], h :: r)
      else
        let (ts, l) := takeTxns n (r.drop k)
        ({ t with data := (r.take k).flatten } :: ts, l)

/-- A flit that passes the checks of R23 but for its sequence number: its bytes after correction. -/
def flitGood (b : List Byte) : Option (List Byte) :=
  match fecCorrect b with
  | none => none
  | some c =>
    let h : DWord := BitVec.ofNat 64 (leNat (c.take 8))
    let crc := BitVec.ofNat 64 (leNat ((c.drop 232).take 8))
    if c.length ≠ 256 ∨ Config.crc64 (c.take 232) ≠ crc ∨ h.extractLsb' 38 2 = 3#2 ∨ h.extractLsb' 0 27 ≠ 0 then none else some c

/-- What a port that has gone down had not delivered leaves by the remaining ports, in order; with none left, the requests that await an answer complete as UNREACH (R24). A transaction counts as delivered once it is acknowledged (log 71). -/
def State.reroute (s : State) (p : Port) : State :=
  if s.ports.any (·.up) then (p.unacked.map (·.2) ++ p.held).foldl (fun s t => s.sendTxn t) s
  else
    let t (r : Request) : Txn := { Txn.zero with dst := r.self, src := r.peer, vc := 1, op := 0x04, dw2 := BitVec.ofNat 64 (rsUnreach + r.tag * 256) }
    { s with agenda := s.agenda ++ s.outstanding.map fun r => .event .completionWithoutData { t := t r } }

/-- A flit that failed (R23, R24): replay is requested from the first one missing, and the eighth failed replay makes the port retrain. The request travels in a link control flit, which is the model's choice (log 71). -/
def State.flitFailed (s : State) (k : Nat) (p : Port) : State :=
  let n := if p.rxFailed then p.replays + 1 else 0
  let q : Port := if n = 8 then { p with rxFailed := true, replays := 0, training := true } else { p with rxFailed := true, replays := n }
  State.sendFlit { s with ports := vmod s.ports k fun _ => q, sent := s.sent ++ [.replayRequest k p.rxExpect] } k .control (slotsOf 7 (Config.replayPayload p.rxExpect))

/-- FLIT_RECEIVE (R21 to R25): operand n is the port and bytes the flit. A good flit in sequence is taken, with its acknowledgement and its credits; its transactions are performed by the next turns. A transaction flit is acknowledged, and its credits are returned, by an idle flit at once (log 71). -/
def execFlitReceive (s : State) : Out :=
  let k := s.operand.n % 24
  let p := s.ports.getD k Port.reset
  if !p.up ∨ p.training = true then .next s
  else match flitGood s.operand.bytes with
    | none => .next (s.flitFailed k p)
    | some c =>
      let h : DWord := BitVec.ofNat 64 (leNat (c.take 8))
      if h.extractLsb' 52 12 ≠ p.rxExpect then (if p.rxFailed then .next s else .next (s.flitFailed k p))
      else
        let slots := if h.extractLsb' 38 2 = 0#2 then p.slots ++ slotsOf 7 ((c.drop 8).take 224) else p.slots
        let (ts, left) := takeTxns slots.length slots
        let owed := ts.foldl (fun v t => vmod v t.vc.toNat (· + 1 + t.data.length / 32)) p.owed
        let q : Port := { p with rxExpect := p.rxExpect + 1, rxFailed := false, replays := 0, slots := left, owed := owed }
        let q := q.acknowledge (h.extractLsb' 40 12) (h.extractLsb' 35 3).toNat (h.extractLsb' 27 8).toNat
        let s := { s with ports := vmod s.ports k fun _ => q, agenda := s.agenda ++ ts.map fun t => .event (txnRow t) { t := t } }
        .next (if h.extractLsb' 38 2 = 0#2 then s.sendFlit k .idle [] else s)

/-- FLIT_REPLAY (R23): operands n and k are the port and the first missing sequence number; the flits kept from there on are sent again, in order. -/
def execFlitReplay (s : State) : Out :=
  let k := s.operand.n % 24
  let p := s.ports.getD k Port.reset
  let first := BitVec.ofNat 12 s.operand.k
  if !p.up ∨ p.training = true then .next s
  else .next { s with sent := s.sent ++ (p.replay.dropWhile (·.1 ≠ first)).map fun x => .flit k x.2 }

/-- LINK_TRAINING (R24, R29): operand n is a port that retrains, flag tells whether it succeeds, and peer is what the other end declares. What the port held goes out once it succeeds; the third failure in a row takes the port down, and its traffic goes by the others. -/
def execLinkTraining (s : State) : Out :=
  let k := s.operand.n % 24
  let p := s.ports.getD k Port.reset
  if !p.training then .next s
  else if s.operand.flag then
    .next ((State.logErr { s with ports := vmod s.ports k fun p => { p with training := false, retrains := 0, peer := some s.operand.peer } } 4 0x21 6 (k / 6) 0 0 k 0).sendHeld k)
  else if p.retrains < 2 then .next { s with ports := vmod s.ports k fun p => { p with retrains := p.retrains + 1 } }
  else .next ((State.logErr { s with ports := vmod s.ports k fun p => { p with up := false, training := false, retrains := 0, slots := [], unacked := [], held := [] } } 4 0x22 6 (k / 6) 0 0 k 0).reroute p)

/-! ### Die-to-die links (R297) -/

/-- The two dies that a die-to-die link joins (R12). The numbers of the links, and that the lower die's log takes a link's entries, are the model's choice (log 77). -/
def dieLinkEnds (k : Nat) : Nat × Nat :=
  match k % 4 with
  | 0 => (0, 1)
  | 1 => (2, 3)
  | 2 => (0, 2)
  | _ => (1, 3)

/-- A die-to-die link goes down (R297): every grid fails, and the dies stay in reset until the next boot. -/
def State.dieLinkDown (s : State) (k : Nat) : State :=
  let s := s.logErr 5 0x22 6 (dieLinkEnds k).1 0 0 k 0
  let s := s.interrupt 2 (dieLinkEnds k).1 0 0 0
  let s := s.grids.foldl (fun s g => s.failGrid g.record 0 0) s
  { s with root := { s.root with phase := .linkFailed }, dieLinks := vmod s.dieLinks k fun _ => ⟨false, 0, 0⟩ }

/-- DIE_LINK_FLIT_RECEIVE (R297): operand n is the link; flag tells whether a flit passes its checks or, while the link retrains, whether that succeeds. -/
def execDieLinkFlitReceive (s : State) : Out :=
  let k := s.operand.n % 4
  let l := s.dieLinks.getD k ⟨false, 0, 0⟩
  let set (l : DieLink) : State := { s with dieLinks := vmod s.dieLinks k fun _ => l }
  if s.root.phase ≠ .running then .next s
  else if l.up then
    if s.operand.flag then .next (set { l with replays := 0 })
    else if l.replays < 7 then .next (set { l with replays := l.replays + 1 })
    else .next (set ⟨false, 0, l.retrains⟩)
  else if s.operand.flag then .next ((set ⟨true, 0, 0⟩).logErr 5 0x21 6 (dieLinkEnds k).1 0 0 k 0)
  else if l.retrains < 2 then .next (set { l with retrains := l.retrains + 1 })
  else .next (s.dieLinkDown k)

/-! ### Flash and sideband (R38) -/

/-- FLASH_SLOT_REWRITE (R38): operand flag names the slot, B when set, and slot its new content; the slot that booted is refused. -/
def execFlashSlotRewrite (s : State) : Out :=
  let o := s.operand
  if !s.root.answers true then .next s
  else if s.root.booted = some o.flag then .next (s.sendReply o.m [Config.busySlot])
  else
    let r := if o.flag then { s.root with slotB := o.slot } else { s.root with slotA := o.slot }
    .next (State.sendReply { s with root := r } o.m [stOk])

/-- DYNAMIC_ADDRESS_ASSIGNMENT (R38): operand n is the address that replaces the static one. -/
def execDynamicAddressAssignment (s : State) : Out := .next { s with root := { s.root with i3cAddr := BitVec.ofNat 7 s.operand.n } }

end Sys2Proof.Machine
end

