-- ==== Sys2Proof/Machine/LaunchOps.lean ====
section
/-! DEFINITION. Device-side launch and near-memory runs, opcodes 0xCD and 0xCE (R68 to R70, R432 to R434). -/
namespace Sys2Proof.Machine

/-- A global-window address that is formed once for the strand, checked as a 128-byte access (R396, R432, R434). -/
def State.packetTarget (s : State) (i : Iss) (a : DWord) (k : State → Target → Res Unit) : Res Unit :=
  if apertureOf a ≠ .global then
    match laneTrap i.st.mask (fun _ => laneApert) (fun _ => a) with
    | some t => .trap s t
    | none => .trap s { cause := laneCauseCode laneApert }
  else (s.targetOnce i a 128 .read false).bind fun s t => k s t

/-- The status that LAUNCH and NMRUN write (R432, R434). -/
def State.launchStatus (s : State) (i : Iss) (v : Nat) : Res Unit :=
  (s.dropImageLines i.t.core).done i fun g => g.setScalar i.r.num i.x.d.toNat (BitVec.ofNat 64 v)

/-! ### LAUNCH -/

/-- The packet enters its slot and the tail advances, in one step (R68). -/
def State.enqueue (s : State) (i : Iss) (c : Ctx) (q : Nat) (x : Queue) (pa va : Nat) (packet : List Byte) : State :=
  let w := s.whoTeam i.t
  let s := if pa < 65536 then s.physWrite pa packet else (s.writeHome w none pa va packet 1).1
  s.putQueue c q { x with tail := x.tail + 1, parents := x.parents ++ [(x.tail, i.t.vteam)] }

/-- Whether a packet is on its way to the ring of a queue at a peer, so that another LAUNCH waits for its slot (R68). -/
def State.launching (s : State) (ctx : BitVec 8) (q : Nat) : Bool := s.outstanding.any fun r => match r.want with
  | .launch p k => p.g.ctx = ctx && k = q
  | _ => false

/-- A packet put into its slot; at a peer the tail advances when the peer has answered (R70, R185). -/
def State.launchInto (s : State) (i : Iss) (c : Ctx) (q : Nat) (x : Queue) (at_ : SlotRes) (packet : List Byte) : Res Unit :=
  match at_ with
  | .here pa va => (s.enqueue i c q x pa va packet).launchStatus i (x.tail.toNat * 2 ^ 32)
  | .peer d pa => match s.request d (writeTxn c.num pa packet) (.launch i.r q) with
    | .sent s => .hold s 0
    | .full => .hold s 0
    | .noPort => s.launchStatus i 0x06
  | _ => s.launchStatus i 0x06

/-- The conditions of R70 in order, and the packet's entry (R432). What a peer answered to the write of the packet comes first. -/
def State.launchTo (s : State) (i : Iss) (t : Target) : Res Unit :=
  match s.ctx? i.t.ctx with
  | none => s.launchStatus i 0x09
  | some c =>
    let q := (i.scalar i.x.b).toNat % 16
    let x := s.queueNow c q
    if x.ring = 0 ∨ x.kind ≠ 1 then s.launchStatus i 0x09
    else match (s.core i.t.core).kcache.find? (·.line = launchKey i.r) with
      | some l =>
        let s := s.modCore i.t.core fun c => { c with kcache := c.kcache.filter (·.line ≠ launchKey i.r) }
        s.launchStatus i (if l.err = 0 then leNat l.data * 2 ^ 32 else 0x06)
      | none =>
        if t = .nonres then s.launchStatus i 0x06
        else if s.launching i.t.ctx q then .hold s 0
        else match s.writeSlot (s.whoTeam i.t) (x.slotAddr x.tail) .write with
          | (s, .unusable) => s.launchStatus i 0x06
          | (s, .hold) => .hold s 0
          | (s, .lost y) => .gone s y
          | (s, at_) => (s.readPieces i [t]).bind fun s b =>
            match b with
            | none => s.launchStatus i 0x06
            | some packet => if x.fill = 2 ^ x.logsize then s.launchStatus i 0x01 else s.launchInto i c q x at_ packet

/-- LAUNCH (R68 to R70, R432). -/
def execLaunch (x : XForm) (s : State) : Out :=
  let e := x.enc 0xCD
  s.issue e fun s i => s.packetTarget i (i.scalar e.a) fun s t => s.afterRelease i .device fun s i => s.launchTo i t

/-! ### NMRUN -/

/-- The control value of NMRUN (R433). -/
structure RunCtl where
  raw : DWord
deriving DecidableEq, Repr

namespace RunCtl
def relsc (c : RunCtl) : Nat := bitsOf c.raw.toNat 18 2
def acqsc (c : RunCtl) : Nat := bitsOf c.raw.toNat 16 2
def tok (c : RunCtl) : Option (Nat × Nat) := if c.raw.getLsbD 14 then some (bitsOf c.raw.toNat 8 6, bitsOf c.raw.toNat 0 8) else none
def bad (c : RunCtl) : Bool := decide (2 ^ 20 ≤ c.raw.toNat) || c.raw.getLsbD 15 || c.relsc = 3 || c.acqsc = 3
end RunCtl

/-- A run that has passed its checks is queued, unless a queue is full (R434). -/
def State.startRun (s : State) (i : Iss) (ctl : RunCtl) (d : RunDesc) (words : List Word) (pages : List (Nat × Nat)) : Res Unit :=
  let acqw : Option AcqWait := if ctl.acqsc = 0 then none else some ⟨i.r.g, i.r.num, i.g.newRelease (scopeOfCode ctl.acqsc) i.active true none⟩
  let (s, id) := s.fresh
  let run := mkRun id i.t.ctx (.team i.t.ctx i.t.vteam ctl.tok) d words pages ctl.acqsc ctl.relsc acqw
  if s.runFull run then .hold s 0 else (s.queueRun run).launchStatus i 0

/-- NMRUN (R433, R434). -/
def execNmrun (x : XForm) (s : State) : Out :=
  let e := x.enc 0xCE
  s.issue e fun s i =>
    let ctl : RunCtl := ⟨i.scalar e.b⟩
    if ctl.bad then .trap s (illenc e.b.toNat)
    else s.packetTarget i (i.scalar e.a) fun s t =>
      if i.storesWait then .hold s 0
      else (s.readPieces i [t]).bind fun s b =>
        match b with
        | none => s.launchStatus i 0x06
        | some raw =>
          let d : RunDesc := ⟨raw⟩
          if d.header ≠ 3 then s.launchStatus i 0x03
          else (s.checkRun (s.whoTeam i.t) d).bind fun s r =>
            match r with
            | .fail code => s.launchStatus i code.toNat
            | .ok words pages => s.startRun i ctl d words pages

end Sys2Proof.Machine
end

