-- ==== Sys2Proof/Machine/Paging.lean ====
section
/-! DEFINITION. Paging beside the accesses: first touches (R193, R194), page requests (R189 to R192), hot lists (R205, R206) and migration (R208). -/
namespace Sys2Proof.Machine

/-! ### Entries -/

/-- A page-table entry as a walk would meet it, without any effect of the walk: its address, value and page size (R182 to R184). -/
def State.pteFrom (s : State) (va : Nat) : Nat → Nat → Option (Nat × Nat × Nat)
  | 0, table =>
    let ea := entryAddr 0 table va
    if ea < 65536 ∨ memTop < ea + 8 ∨ s.bad ea 8 = true then none
    else if bitsOf (s.ld ea 8) 48 5 ≠ 0 then none else some (ea, s.ld ea 8, 65536)
  | n + 1, table =>
    let ea := entryAddr (n + 1) table va
    if ea < 65536 ∨ memTop < ea + 8 ∨ s.bad ea 8 = true then none
    else
      let e := s.ld ea 8
      if bitsOf e 48 5 ≠ 0 then none
      else if e % 8 = 1 then s.pteFrom va n (bitsOf e 8 40 * 256)
      else if n = 0 then some (ea, e, 2 ^ 21) else none

/-- The entry of a context's page. -/
def State.pte (s : State) (ctx : BitVec 8) (va : Nat) : Option (Nat × Nat × Nat) :=
  match s.ctx? ctx with
  | some c => s.pteFrom va 4 c.ptroot
  | none => none

/-- FIRST_TOUCH (R193, R194, R466): operands n, ctx and v name the die, the context and the address at which a walk has met an anonymous page. -/
def execFirstTouch (s : State) : Out :=
  let o := s.operand
  let va := o.v.toNat % 2 ^ 57
  match s.pte o.ctx va with
  | some (_, e, 65536) => if e % 8 = 4 then .next (s.lookup ⟨o.ctx, none, some (o.n % 4), none⟩ va).1 else .next s
  | _ => .next s

/-! ### Page requests -/

/-- The oldest request of a die that has not been appended (R189, R191). -/
def State.nextRequest (s : State) (die : Nat) : Option Touch := (s.touches.getD die []).find? fun p => p.first && !p.appended

/-- The 32 bytes of a page-request record (R191). -/
def Touch.record (p : Touch) : List Byte :=
  leBytes (p.page * 65536) 8 ++ leBytes (p.ctx.toNat + p.vteam.toNat * 65536) 8 ++ leBytes p.at_ 8 ++ leBytes 0 8

/-- PAGE_REQUEST_APPEND (R189, R191, R192): operand n names the die whose oldest request is appended; with the ring absent, the interrupt alone is raised, once. -/
def execPageRequestAppend (s : State) : Out :=
  let die := s.operand.n % 4
  let r := s.mcb.pr
  match s.nextRequest die with
  | none => .next s
  | some p =>
    if r.base = 0 then
      if s.prTold then .next s else .next (State.interrupt { s with prTold := true } 1 die p.ctx 0 0)
    else if 2 ^ r.logn ≤ (r.tail - r.head).toNat then .next s
    else
      let s := s.sto (r.base + 32 * (r.tail.toNat % 2 ^ r.logn)) p.record
      let told (q : Touch) : Touch := if q = p then { q with appended := true } else q
      .next (State.interrupt { s with
        mcb := { s.mcb with pr := { r with tail := r.tail + 1 } }
        touches := vmod s.touches die (·.map told)
        prTold := false } 1 die p.ctx 0 0)

/-- RESOLVE_WRITE (R190): operand v is the value written. -/
def execResolveWrite (s : State) : Out := .next (s.resolve s.operand.v.toNat)

/-! ### Hot lists -/

/-- A page put in its place: by estimate, highest first, the lower key first among equals (R205). -/
def insertHot (p : HotPage) : List HotPage → List HotPage
  | [] => [p]
  | q :: r => if q.est < p.est ∨ (q.est = p.est ∧ p.key < q.key) then p :: q :: r else q :: insertHot p r

def sortHot (l : List HotPage) : List HotPage := l.foldl (fun acc p => insertHot p acc) []

/-- The 32 bytes of a hot-list record (R206). -/
def HotPage.record (p : HotPage) : List Byte :=
  leBytes p.key 8 ++ leBytes p.est 8 ++ (p.die.toList.flatMap fun c => leBytes c 4)

/-- The half of a stack's region that interval n is written to (R205). -/
def State.hotHalf (s : State) (k n : Nat) : Nat := s.mcb.hotbase + 32768 * k + 16384 * (n % 2)

/-- Bytes that the Z9 itself writes coherently, line by line; the greatest completion time (R212, R215). -/
def State.writeLines (s : State) (pa : Nat) (bytes : List Byte) : State × Nat :=
  (upFrom (pa / 128) ((pa + bytes.length + 127) / 128 - pa / 128)).foldl (fun (s, m) line =>
    let lo := max pa (128 * line)
    let d := (bytes.drop (lo - pa)).take (128 * line + 128 - lo)
    let wt := s.completion none lo (s.timeOf (dieOfPa lo))
    ((s.storeLine none lo (s.timeOf (dieOfPa lo))).sto lo d, max m wt)) (s, 0)

/-- The boundary of an interval at one controller (R205, R206): the records are written, the header waits for their release, and the sketch and the list are cleared. -/
def State.hotBoundary (s : State) (k : Nat) : State :=
  let h := s.hot.getD k ⟨[], [], 0, [], none⟩
  let l := sortHot h.list
  let absent : HotPage := ⟨0, 0, Vector.replicate 4 0⟩
  let recs := (l ++ List.replicate (256 - l.length) absent).flatMap (·.record)
  let (s, wt) := if s.mcb.hotbase = 0 then (s, 0) else s.writeLines (s.hotHalf k s.hotSeq + 32) recs
  let header := if s.mcb.hotbase = 0 then none else some (s.hotSeq, l.length, wt)
  { s with hot := vmod s.hot k fun _ => ⟨[], [], 0, l, header⟩ }

/-- Every affinity counter of a live grid halved (R99). -/
def State.halveAffinity (s : State) : State :=
  s.grids.foldl (fun s g => (List.range 12).foldl (fun s k =>
    let a := g.record + 160 + 2 * k
    s.stoN a 2 (s.ld a 2 / 2)) s) s

/-- A header written once the release of its records is over (R205). -/
def State.writeHeader (s : State) (k : Nat) : State :=
  match (s.hot.getD k ⟨[], [], 0, [], none⟩).header with
  | none => s
  | some (n, len, after_) =>
    if s.earliestTime < after_ then s
    else
      let s := { s with hot := vmod s.hot k fun h => { h with header := none } }
      (s.writeLines (s.hotHalf k n) (leBytes n 8 ++ leBytes len 8 ++ leBytes 0 16)).1

/-- HOTNESS_INTERVAL_END (R99, R204 to R206): headers whose records have been released are written; at the end of an interval every controller writes its list. -/
def execHotnessIntervalEnd (s : State) : Out :=
  let s := (List.range 12).foldl State.writeHeader s
  if s.time < s.hotAt + 1000 * s.mcb.interval then .next s
  else
    let s := (List.range 12).foldl State.hotBoundary s
    .next { s.halveAffinity with hotSeq := s.hotSeq + 1, hotAt := s.hotAt + 1000 * s.mcb.interval }

/-! ### Migration -/

/-- The page of a key in the list of the last boundary of a stack (R208). -/
def State.hotLast (s : State) (k key : Nat) : Option HotPage := ((s.hot.getD k ⟨[], [], 0, [], none⟩).last).find? (·.key = key)

/-- Whether a Sill run that has been issued and has not completed has a line in a frame (R208, R229). -/
def State.sillIn (s : State) (frame : Nat) : Bool := s.runs.any fun r => r.pages.any fun p => p.2 / 65536 * 65536 = frame

/-- Whether die d may take a page (R208): its entry, with the conditions on its leaf, its counts, the rings and the limit. -/
def State.mayMigrate (s : State) (d : Nat) (ctx : BitVec 8) (va : Nat) : Option (Nat × Nat) :=
  match s.pte ctx va with
  | some (ea, e, 65536) =>
    let frame := bitsOf e 8 40 * 256
    let k := stackOfPa frame
    let home := dieOfPa frame
    let ring := s.mcb.ft.getD d Ring.absent
    match s.hotLast k (pageKey ctx (va / 65536)) with
    | none => none
    | some p =>
      let ok := s.mcb.migen && s.mcb.hotbase ≠ 0 && s.mcb.rel.base ≠ 0 && ring.base ≠ 0 && ring.tail ≠ ring.head
        && decide (s.mcb.ftlow ≤ (ring.tail - ring.head).toNat) && e % 8 = 2 && e.testBit 7 && !e.testBit 63
        && decide (65536 ≤ frame ∧ frame < memTop ∧ frame % 65536 = 0) && d ≠ home && decide (2 * p.die.getD home 0 ≤ p.die.getD d 0)
        && decide ((s.hot.getD k ⟨[], [], 0, [], none⟩).moved < s.mcb.miglim) && !s.sillIn frame && !s.held ea
        && !(s.migrations.any fun m => m.die = d || m.pte = ea)
      if ok then some (ea, frame) else none
  | _ => none

/-- Steps 1 of R208: the leaf becomes TYPE 5, its translations go, and a frame of die d is taken. -/
def State.startMigration (s : State) (d : Nat) (ctx : BitVec 8) (va ea frame : Nat) : State :=
  let r := s.mcb.ft.getD d Ring.absent
  match State.takeFrame d ctx ((r.tail - r.head).toNat + 1) s with
  | (s, none) => s
  | (s, some f) =>
    let s := s.stoN ea 8 (s.ld ea 8 / 8 * 8 + 5)
    let s := s.dropTlb (fun t => t.leaf.base = frame && t.leaf.size = 65536 && t.hit ctx va) (fun _ => false)
    { s with
      hot := vmod s.hot (stackOfPa frame) fun h => { h with moved := h.moved + 1 }
      migrations := s.migrations ++ [⟨d, ctx, va / 65536 * 65536, ea, frame, f⟩] }

/-- An access of the page that has been translated and not performed goes to the new frame (R208, log 37). -/
def Migration.target (m : Migration) : Target → Target
  | .phys va pa => if va / 65536 * 65536 = m.va ∧ pa / 65536 * 65536 = m.oldFrame then .phys va (m.newFrame + pa % 65536) else .phys va pa
  | t => t

def Migration.group (m : Migration) (g : Group) : Group :=
  { g with
    sb := g.sb.map fun e => { e with parts := e.parts.map fun p => { p with target := m.target p.target } }
    loads := g.loads.map fun l => { l with parts := l.parts.map fun p => { p with target := m.target p.target } } }

def Migration.team (m : Migration) (t : Team) : Team := if t.ctx = m.ctx then { t with groups := t.groups.map m.group } else t

/-- The contents of a frame moved: bytes, and uncorrectable words as such (R286). -/
def State.copyFrame (s : State) (a b : Nat) : State :=
  let inF (f x : Nat) : Bool := decide (f ≤ x ∧ x < f + 65536)
  let moved := s.mem.filter fun c => inF a c.1
  { s with
    mem := moved.foldr (fun c m => memSet m (c.1 - a + b) c.2) (s.mem.filter fun c => !inF b c.1)
    poison := (s.poison.filter fun w => !inF b (32 * w)) ++ (s.poison.filter fun w => inF a (32 * w)).map fun w => w - a / 32 + b / 32 }

/-- Steps 2 to 4 of R208: the page is copied with its dirty lines, its leaf names the new frame, and the old frame waits for its last lease. -/
def State.endMigration (s : State) (m : Migration) : State :=
  let until_ := (List.range 512).foldl (fun t k => max t (s.lastLease (m.oldFrame + 128 * k))) 0
  let lines := s.l2.filter fun x => decide (m.oldFrame ≤ x.line * 128 ∧ x.line * 128 < m.oldFrame + 65536)
  let s := lines.foldl (fun s x => s.dropL2 { x with dirty := false }) s
  let s := s.copyFrame m.oldFrame m.newFrame
  let e := s.ld m.pte 8
  let s := s.stoN m.pte 8 (bitsOf e 48 16 * 2 ^ 48 + m.newFrame + bitsOf e 3 5 * 8 + 2)
  { s with
    teams := s.teams.map m.team
    bents := s.bents.map fun b => { b with saved := b.saved.map m.team }
    migrations := s.migrations.filter (· ≠ m)
    oldFrames := s.oldFrames ++ [⟨m.oldFrame, until_⟩] }

/-- MIGRATION (R208): operands n, ctx and v name the die that takes the page, the context and an address in it. The event starts a migration, and ends one that it finds under way. -/
def execMigration (s : State) : Out :=
  let d := s.operand.n % 4
  let va := s.operand.v.toNat % 2 ^ 57
  match s.migrations.find? fun m => m.die = d && m.ctx = s.operand.ctx && m.va = va / 65536 * 65536 with
  | some m => if s.held m.pte then .next s else .next (s.endMigration m)
  | none =>
    match s.mayMigrate d s.operand.ctx va with
    | none => .next s
    | some (ea, frame) => .next (s.startMigration d s.operand.ctx va ea frame)

/-- MIGRATION_FRAME_RELEASE (R208, R209): operand n is an old frame whose last lease has passed; it is zeroed and appended to the released-frame ring. -/
def execMigrationFrameRelease (s : State) : Out :=
  let r := s.mcb.rel
  match s.oldFrames.find? (·.frame = s.operand.n) with
  | none => .next s
  | some f =>
    if s.timeOf (dieOfPa f.frame) ≤ f.until_ ∨ r.base = 0 ∨ 2 ^ r.logn ≤ (r.tail - r.head).toNat then .next s
    else
      let s := (zeroFrame s f.frame).stoN (r.base + 8 * (r.tail.toNat % 2 ^ r.logn)) 8 f.frame
      .next { s with mcb := { s.mcb with rel := { r with tail := r.tail + 1 } }, oldFrames := s.oldFrames.filter (· ≠ f) }

end Sys2Proof.Machine
end

