-- ==== Sys2Proof/Machine/VectorInt.lean ====
section
/-! DEFINITION. Vector integer and logic instructions, opcodes 0x10 to 0x31 (R335 to R344). -/
namespace Sys2Proof.Machine

/-! ### Shared shapes -/

/-- A result computed in each active lane from sources A and B, each of the operand width. -/
def bits2 (x : Enc) (f : IntTy → DWord → DWord → DWord) (s : State) : Out :=
  s.regOp x fun i => { v := vout x.is64 x.d.toNat fun l => f (Enc.intTy x) (i.srcA x.is64 l) (i.srcB x.is64 l) }

/-- An exact integer result of val(a) and val(b), written under R336. -/
def int2 (x : Enc) (f : IntTy → Int → Int → Int) (s : State) : Out :=
  bits2 x (fun t a b => t.store x.satBit (f t (t.val a) (t.val b))) s

/-- A result of source A alone. -/
def bits1 (x : Enc) (f : IntTy → DWord → DWord) (s : State) : Out :=
  s.regOp x fun i => { v := vout x.is64 x.d.toNat fun l => f (Enc.intTy x) (i.srcA x.is64 l) }

/-- A shift of source A by the amount in B (R342). -/
def shiftOp (x : Enc) (f : IntTy → DWord → Nat → DWord) (s : State) : Out :=
  s.regOp x fun i => { v := vout x.is64 x.d.toNat fun l => f (Enc.intTy x) (i.srcA x.is64 l) (i.shiftB l) }

/-! ### Results -/

/-- IMULH (R337). -/
def mulHigh (t : IntTy) (a b : Int) : Int := a * b / 2 ^ t.w

/-- IABS and INEG (R337). -/
def absOf (t : IntTy) (sat : Bool) (a : DWord) : DWord := t.store sat (t.val a).natAbs
def negOf (t : IntTy) (sat : Bool) (a : DWord) : DWord := t.store sat (-(t.val a))

/-- Quotient and remainder of R338. -/
def divOf (t : IntTy) (sat : Bool) (a b : DWord) : DWord :=
  let x := t.val a
  let y := t.val b
  if y = 0 then t.wrap (if t.signed then -1 else t.hi)
  else if t.signed ∧ x = t.lo ∧ y = -1 then t.wrap (if sat then t.hi else t.lo)
  else t.wrap (x.tdiv y)

def remOf (t : IntTy) (a b : DWord) : DWord :=
  let x := t.val a
  let y := t.val b
  if y = 0 then t.wrap x
  else if t.signed ∧ x = t.lo ∧ y = -1 then 0
  else t.wrap (x - x.tdiv y * y)

/-- SHL, SHR, SAR and ROT of R342. -/
def shlOf (t : IntTy) (a : DWord) (n : Nat) : DWord := if t.w ≤ n then 0 else t.wrap ((a.toNat : Int) * 2 ^ n)
def shrOf (t : IntTy) (a : DWord) (n : Nat) : DWord := if t.w ≤ n then 0 else BitVec.ofNat 64 (a.toNat % 2 ^ t.w / 2 ^ n)
def sarOf (t : IntTy) (a : DWord) (n : Nat) : DWord := t.wrap ((IntTy.mk t.w true).val a / 2 ^ min n t.w)
def rotOf (t : IntTy) (a : DWord) (n : Nat) : DWord :=
  let k := n % t.w
  let v := a.toNat % 2 ^ t.w
  BitVec.ofNat 64 ((v * 2 ^ k + v / 2 ^ (t.w - k)) % 2 ^ t.w)

/-- SHF (R342): sub-operation 0 left, 1 right. -/
def shfOf (sub : Nat) (a b c : DWord) : DWord :=
  let q := b.toNat % 2 ^ 32 * 2 ^ 32 + a.toNat % 2 ^ 32
  let n := c.toNat % 32
  if sub = 0 then BitVec.ofNat 64 (q * 2 ^ n / 2 ^ 32 % 2 ^ 32) else BitVec.ofNat 64 (q / 2 ^ n % 2 ^ 32)

/-- Bits set, leading zeros and reversal over W bits (R343). -/
def popcOf (t : IntTy) (a : DWord) : DWord := BitVec.ofNat 64 ((List.range t.w).filter (a.getLsbD ·)).length
def clzOf (t : IntTy) (a : DWord) : DWord :=
  let n := a.toNat % 2 ^ t.w
  BitVec.ofNat 64 (if n = 0 then t.w else t.w - 1 - Nat.log2 n)
def brevOf (t : IntTy) (a : DWord) : DWord :=
  (List.range t.w).foldl (fun (r : DWord) k => if a.getLsbD k then r ||| (1#64 <<< (t.w - 1 - k)) else r) 0

/-- BFE (R343). -/
def bfeOf (t : IntTy) (a : DWord) (start len : Nat) : DWord :=
  let len := min len t.w
  if len = 0 then 0
  else
    let f := (t.val a / 2 ^ start) % 2 ^ len
    t.wrap (if t.signed ∧ 2 ^ (len - 1) ≤ f then f - 2 ^ len else f)

/-- BFI (R343): insert a into b. -/
def bfiOf (t : IntTy) (a b : DWord) (start len : Nat) : DWord :=
  let m : DWord := BitVec.ofNat 64 ((2 ^ len - 1) * 2 ^ start % 2 ^ t.w)
  (b &&& ~~~m) ||| (BitVec.ofNat 64 (a.toNat * 2 ^ start) &&& m)

/-- BMIX (R341). -/
def bmixOf (map : BitVec 8) (a b c : DWord) : DWord :=
  (List.range 64).foldl (fun (r : DWord) k =>
    if map.getLsbD ((a.getLsbD k).toNat + 2 * (b.getLsbD k).toNat + 4 * (c.getLsbD k).toNat) then r ||| (1#64 <<< k) else r) 0

/-- The value of MOVI (R344). -/
def immOf (x : Enc) : DWord :=
  if x.hasLit then x.lit
  else if x.ty = 13 then x.w2.signExtend 64 else x.w2.zeroExtend 64

/-! ### The meanings -/

/-- IADD (R337). -/
def execIadd (x : SForm) (s : State) : Out := int2 (x.enc 0x10) (fun _ a b => a + b) s
def execIaddExtended (x : XForm) (s : State) : Out := int2 (x.enc 0x10) (fun _ a b => a + b) s
/-- ISUB (R337). -/
def execIsub (x : SForm) (s : State) : Out := int2 (x.enc 0x11) (fun _ a b => a - b) s
def execIsubExtended (x : XForm) (s : State) : Out := int2 (x.enc 0x11) (fun _ a b => a - b) s
/-- IMUL (R337). -/
def execImul (x : SForm) (s : State) : Out := int2 (x.enc 0x12) (fun _ a b => a * b) s
def execImulExtended (x : XForm) (s : State) : Out := int2 (x.enc 0x12) (fun _ a b => a * b) s
/-- IMULH (R337). -/
def execImulh (x : SForm) (s : State) : Out := int2 (x.enc 0x13) mulHigh s
def execImulhExtended (x : XForm) (s : State) : Out := int2 (x.enc 0x13) mulHigh s

/-- IMAD (R337). -/
def execImad (x : XForm) (s : State) : Out :=
  let e := x.enc 0x14
  s.regOp e fun i =>
    let f (l : Nat) : DWord :=
      let t := Enc.intTy e
      t.store e.satBit (t.val (i.srcA e.is64 l) * t.val (i.srcB e.is64 l) + t.val (i.srcC e.is64 l))
    { v := vout e.is64 e.d.toNat f }

/-- IDIV (R338). -/
def execIdiv (x : XForm) (s : State) : Out :=
  let e := x.enc 0x15
  s.longOp e fun i => vout e.is64 e.d.toNat fun l => divOf (Enc.intTy e) e.satBit (i.srcA e.is64 l) (i.srcB e.is64 l)

/-- IREM (R338). -/
def execIrem (x : XForm) (s : State) : Out :=
  let e := x.enc 0x16
  s.longOp e fun i => vout e.is64 e.d.toNat fun l => remOf (Enc.intTy e) (i.srcA e.is64 l) (i.srcB e.is64 l)

/-- IMIN (R337). -/
def execImin (x : SForm) (s : State) : Out := int2 (x.enc 0x17) (fun _ a b => min a b) s
def execIminExtended (x : XForm) (s : State) : Out := int2 (x.enc 0x17) (fun _ a b => min a b) s
/-- IMAX (R337). -/
def execImax (x : SForm) (s : State) : Out := int2 (x.enc 0x18) (fun _ a b => max a b) s
def execImaxExtended (x : XForm) (s : State) : Out := int2 (x.enc 0x18) (fun _ a b => max a b) s
/-- IABS (R337). -/
def execIabs (x : SForm) (s : State) : Out := bits1 (x.enc 0x19) (fun t a => absOf t (x.enc 0x19).satBit a) s
def execIabsExtended (x : XForm) (s : State) : Out := bits1 (x.enc 0x19) (fun t a => absOf t (x.enc 0x19).satBit a) s
/-- INEG (R337). -/
def execIneg (x : SForm) (s : State) : Out := bits1 (x.enc 0x1A) (fun t a => negOf t (x.enc 0x1A).satBit a) s
def execInegExtended (x : XForm) (s : State) : Out := bits1 (x.enc 0x1A) (fun t a => negOf t (x.enc 0x1A).satBit a) s

/-- IADDC (R339). -/
def execIaddc (x : XForm) (s : State) : Out :=
  let e := x.enc 0x1B
  s.regOp e fun i =>
    let w := e.width
    let exact (l : Nat) : Int := carryExact e.sub ((i.srcA e.is64 l).toNat % 2 ^ w) ((i.srcB e.is64 l).toNat % 2 ^ w) ((i.pred e.c.toNat).getLsbD l)
    { v := vout e.is64 e.d.toNat fun l => (IntTy.mk w false).wrap (exact l), p := [(e.c.toNat, maskOf fun l => carryOut w (exact l))] }

/-- ICMP (R340). -/
def execIcmp (x : XForm) (s : State) : Out :=
  let e := x.enc 0x1C
  let t := Enc.intTy e
  s.regOp e fun i => { p := [(e.d.toNat, maskOf fun l => intCmp e.sub (t.val (i.srcA e.is64 l)) (t.val (i.srcB e.is64 l)))] }

/-- ISET (R340). -/
def execIset (x : XForm) (s : State) : Out :=
  let e := x.enc 0x1D
  let t := Enc.intTy e
  s.regOp e fun i => { v := vout false e.d.toNat fun l => if intCmp e.sub (t.val (i.srcA e.is64 l)) (t.val (i.srcB e.is64 l)) then 1 else 0 }

/-- AND (R341). -/
def execAndV (x : SForm) (s : State) : Out := bits2 (x.enc 0x1E) (fun _ a b => a &&& b) s
def execAndVExtended (x : XForm) (s : State) : Out := bits2 (x.enc 0x1E) (fun _ a b => a &&& b) s
/-- OR (R341). -/
def execOrV (x : SForm) (s : State) : Out := bits2 (x.enc 0x1F) (fun _ a b => a ||| b) s
def execOrVExtended (x : XForm) (s : State) : Out := bits2 (x.enc 0x1F) (fun _ a b => a ||| b) s
/-- XOR (R341). -/
def execXorV (x : SForm) (s : State) : Out := bits2 (x.enc 0x20) (fun _ a b => a ^^^ b) s
def execXorVExtended (x : XForm) (s : State) : Out := bits2 (x.enc 0x20) (fun _ a b => a ^^^ b) s
/-- ANDN (R341). -/
def execAndn (x : SForm) (s : State) : Out := bits2 (x.enc 0x21) (fun _ a b => a &&& ~~~b) s
def execAndnExtended (x : XForm) (s : State) : Out := bits2 (x.enc 0x21) (fun _ a b => a &&& ~~~b) s
/-- NOT (R341). -/
def execNotV (x : SForm) (s : State) : Out := bits1 (x.enc 0x22) (fun _ a => ~~~a) s
def execNotVExtended (x : XForm) (s : State) : Out := bits1 (x.enc 0x22) (fun _ a => ~~~a) s

/-- BMIX (R341). -/
def execBmix (x : XForm) (s : State) : Out :=
  let e := x.enc 0x23
  s.regOp e fun i =>
    let f (l : Nat) : DWord :=
      bmixOf (e.w2.extractLsb' 0 8) (i.srcA e.is64 l) (i.srcB e.is64 l) (i.srcC e.is64 l)
    { v := vout e.is64 e.d.toNat f }

/-- SHL (R342). -/
def execShl (x : SForm) (s : State) : Out := shiftOp (x.enc 0x24) shlOf s
def execShlExtended (x : XForm) (s : State) : Out := shiftOp (x.enc 0x24) shlOf s
/-- SHR (R342). -/
def execShr (x : SForm) (s : State) : Out := shiftOp (x.enc 0x25) shrOf s
def execShrExtended (x : XForm) (s : State) : Out := shiftOp (x.enc 0x25) shrOf s
/-- SAR (R342). -/
def execSar (x : SForm) (s : State) : Out := shiftOp (x.enc 0x26) sarOf s
def execSarExtended (x : XForm) (s : State) : Out := shiftOp (x.enc 0x26) sarOf s
/-- ROT (R342). -/
def execRot (x : SForm) (s : State) : Out := shiftOp (x.enc 0x27) rotOf s
def execRotExtended (x : XForm) (s : State) : Out := shiftOp (x.enc 0x27) rotOf s

/-- SHF (R342). -/
def execShf (x : XForm) (s : State) : Out :=
  let e := x.enc 0x28
  s.regOp e fun i => { v := vout false e.d.toNat fun l => shfOf e.sub (i.srcA false l) (i.srcB false l) (i.srcC false l) }

/-- POPC (R343). -/
def execPopc (x : SForm) (s : State) : Out := bits1 (x.enc 0x29) popcOf s
def execPopcExtended (x : XForm) (s : State) : Out := bits1 (x.enc 0x29) popcOf s
/-- CLZ (R343). -/
def execClz (x : SForm) (s : State) : Out := bits1 (x.enc 0x2A) clzOf s
def execClzExtended (x : XForm) (s : State) : Out := bits1 (x.enc 0x2A) clzOf s
/-- BREV (R343). -/
def execBrev (x : SForm) (s : State) : Out := bits1 (x.enc 0x2B) brevOf s
def execBrevExtended (x : XForm) (s : State) : Out := bits1 (x.enc 0x2B) brevOf s

/-- BFE (R343). -/
def execBfe (x : XForm) (s : State) : Out :=
  let e := x.enc 0x2C
  s.regOp e fun i =>
    let f (l : Nat) : DWord :=
      bfeOf (Enc.intTy e) (i.srcA e.is64 l) ((i.srcB false l).toNat % 256) ((i.srcC false l).toNat % 256)
    { v := vout e.is64 e.d.toNat f }

/-- BFI (R343). -/
def execBfi (x : XForm) (s : State) : Out :=
  let e := x.enc 0x2D
  s.regOp e fun i =>
    let f (l : Nat) : DWord :=
      let c := (i.srcC false l).toNat
      bfiOf (Enc.intTy e) (i.srcA e.is64 l) (i.srcB e.is64 l) (c % 256) (c / 256 % 256)
    { v := vout e.is64 e.d.toNat f }

/-- SEL (R344). -/
def execSelV (x : XForm) (s : State) : Out :=
  let e := x.enc 0x2E
  s.regOp e fun i => { v := vout e.is64 e.d.toNat fun l => if (i.pred e.c.toNat).getLsbD l then i.srcA e.is64 l else i.srcB e.is64 l }

/-- MOV (R344). -/
def execMov (x : SForm) (s : State) : Out := bits1 (x.enc 0x2F) (fun _ a => a) s
def execMovExtended (x : XForm) (s : State) : Out := bits1 (x.enc 0x2F) (fun _ a => a) s

/-- MOVI (R344). -/
def execMovi (x : XForm) (s : State) : Out :=
  let e := x.enc 0x30
  s.regOp e fun _ => { v := vout e.is64 e.d.toNat fun _ => immOf e }

/-- LEA (R344). -/
def execLea (x : XForm) (s : State) : Out := bits2 (x.enc 0x31) (fun _ a b => a <<< (x.enc 0x31).sub + b) s

end Sys2Proof.Machine
end

