-- ==== Sys2Proof/Machine/Scalars.lean ====
section
/-! DEFINITION. Scalar, broadcast, vote, predicate and status instructions, opcodes 0x40 to 0x56 (R345 to R351). -/
namespace Sys2Proof.Machine

/-- A scalar result of a type: as it stands, or bits [31:0] extended (R345). -/
def scalarResult (t : IntTy) (v : DWord) : DWord :=
  if t.w = 64 then v else if t.signed then (v.extractLsb' 0 32).signExtend 64 else (v.extractLsb' 0 32).zeroExtend 64

/-- A scalar instruction of two sources (R345, R346). -/
def scalar2 (x : Enc) (f : DWord → DWord → DWord) (s : State) : Out :=
  s.regOp x fun i => { s := [(x.d.toNat, scalarResult (Enc.intTy x) (f (i.scalar x.a) i.scalarB))] }

/-- A scalar shift (R346). -/
def scalarShift (x : Enc) (f : IntTy → DWord → Nat → DWord) (s : State) : Out :=
  s.regOp x fun i =>
    let n := if x.form = .s then x.b6.toNat else i.scalarB.toNat % 2 ^ 32
    { s := [(x.d.toNat, scalarResult (Enc.intTy x) (f (Enc.intTy x) (i.scalar x.a) n))] }

/-- A predicate instruction over the strand's MASK (R350): the second source is B6 or B. -/
def pred2 (x : Enc) (f : Mask → Mask → Mask) (s : State) : Out :=
  s.regOp x fun i =>
    let b := if x.form = .s then x.b6.toNat else x.b.toNat
    { p := [(x.d.toNat, f (i.pred x.a.toNat) (i.pred b))] }

/-! ### The meanings -/

/-- SADD (R346). -/
def execSadd (x : SForm) (s : State) : Out := scalar2 (x.enc 0x40) (· + ·) s
def execSaddExtended (x : XForm) (s : State) : Out := scalar2 (x.enc 0x40) (· + ·) s
/-- SSUB (R346). -/
def execSsub (x : SForm) (s : State) : Out := scalar2 (x.enc 0x41) (· - ·) s
def execSsubExtended (x : XForm) (s : State) : Out := scalar2 (x.enc 0x41) (· - ·) s
/-- SMUL (R346). -/
def execSmul (x : SForm) (s : State) : Out := scalar2 (x.enc 0x42) (· * ·) s
def execSmulExtended (x : XForm) (s : State) : Out := scalar2 (x.enc 0x42) (· * ·) s
/-- SAND (R346). -/
def execSand (x : SForm) (s : State) : Out := scalar2 (x.enc 0x43) (· &&& ·) s
def execSandExtended (x : XForm) (s : State) : Out := scalar2 (x.enc 0x43) (· &&& ·) s
/-- SOR (R346). -/
def execSor (x : SForm) (s : State) : Out := scalar2 (x.enc 0x44) (· ||| ·) s
def execSorExtended (x : XForm) (s : State) : Out := scalar2 (x.enc 0x44) (· ||| ·) s
/-- SXOR (R346). -/
def execSxor (x : SForm) (s : State) : Out := scalar2 (x.enc 0x45) (· ^^^ ·) s
def execSxorExtended (x : XForm) (s : State) : Out := scalar2 (x.enc 0x45) (· ^^^ ·) s
/-- SSHL (R346). -/
def execSshl (x : SForm) (s : State) : Out := scalarShift (x.enc 0x46) shlOf s
def execSshlExtended (x : XForm) (s : State) : Out := scalarShift (x.enc 0x46) shlOf s
/-- SSHR (R346). -/
def execSshr (x : SForm) (s : State) : Out := scalarShift (x.enc 0x47) shrOf s
def execSshrExtended (x : XForm) (s : State) : Out := scalarShift (x.enc 0x47) shrOf s
/-- SSAR (R346). -/
def execSsar (x : SForm) (s : State) : Out := scalarShift (x.enc 0x48) sarOf s
def execSsarExtended (x : XForm) (s : State) : Out := scalarShift (x.enc 0x48) sarOf s

/-- SMOV (R346). -/
def execSmov (x : SForm) (s : State) : Out := scalar2 (x.enc 0x49) (fun a _ => a) s
def execSmovExtended (x : XForm) (s : State) : Out := scalar2 (x.enc 0x49) (fun a _ => a) s

/-- SMOVI (R346): the I word extended for 64-bit types, or the literal. -/
def execSmovi (x : XForm) (s : State) : Out :=
  let e := x.enc 0x4A
  s.regOp e fun _ => { s := [(e.d.toNat, scalarResult (Enc.intTy e) (immOf e))] }

/-- SCMP (R347). -/
def execScmp (x : XForm) (s : State) : Out :=
  let e := x.enc 0x4B
  let t := Enc.intTy e
  s.regOp e fun i => { p := [(e.d.toNat, if intCmp e.sub (t.val (i.scalar e.a)) (t.val i.scalarB) then 0xFFFFFFFF#32 else 0)] }

/-- VBCAST (R348). -/
def vbcastOp (x : Enc) (s : State) : Out :=
  s.regOp x fun i => { v := vout false x.d.toNat fun l => i.scalarLane x.a l }
def execVbcast (x : SForm) (s : State) : Out := vbcastOp (x.enc 0x4C) s
def execVbcastExtended (x : XForm) (s : State) : Out := vbcastOp (x.enc 0x4C) s

/-- READLANE (R348): the strand counts as sharing the named lane, and waits for it. -/
def readlaneOp (x : Enc) (s : State) : Out :=
  s.issue x fun s i =>
    let lane := if x.form = .s then x.b6.toNat else i.scalarB.toNat % 32
    let u : Uses := { rv := [x.a.toNat], lanes := laneBit lane }
    if i.g.setHolds i.st u ∨ u.touches (i.g.pendingFor i.r.num (laneBit lane)) then .hold s 0
    else s.resultChecked i fun s => s.done i fun g => g.setScalar i.r.num x.d.toNat ((i.vreg x.a.toNat lane).zeroExtend 64)
def execReadlane (x : SForm) (s : State) : Out := readlaneOp (x.enc 0x4D) s
def execReadlaneExtended (x : XForm) (s : State) : Out := readlaneOp (x.enc 0x4D) s

/-- VOTE (R349): with no lane nothing is written (R309). -/
def execVote (x : XForm) (s : State) : Out :=
  let e := x.enc 0x4E
  s.regOp e fun i =>
    let p := i.pred e.a.toNat
    if i.active = 0 then {}
    else if e.sub = 2 then { s := [(e.d.toNat, (p &&& i.active).zeroExtend 64)] }
    else { p := [(e.d.toNat, if voteBit e.sub i.active p then 0xFFFFFFFF#32 else 0)] }

/-- PAND (R350). -/
def execPand (x : SForm) (s : State) : Out := pred2 (x.enc 0x4F) (· &&& ·) s
def execPandExtended (x : XForm) (s : State) : Out := pred2 (x.enc 0x4F) (· &&& ·) s
/-- POR (R350). -/
def execPor (x : SForm) (s : State) : Out := pred2 (x.enc 0x50) (· ||| ·) s
def execPorExtended (x : XForm) (s : State) : Out := pred2 (x.enc 0x50) (· ||| ·) s
/-- PXOR (R350). -/
def execPxor (x : SForm) (s : State) : Out := pred2 (x.enc 0x51) (· ^^^ ·) s
def execPxorExtended (x : XForm) (s : State) : Out := pred2 (x.enc 0x51) (· ^^^ ·) s
/-- PNOT (R350). -/
def execPnot (x : SForm) (s : State) : Out := pred2 (x.enc 0x52) (fun a _ => ~~~a) s
def execPnotExtended (x : XForm) (s : State) : Out := pred2 (x.enc 0x52) (fun a _ => ~~~a) s
/-- PMOV (R350). -/
def execPmov (x : SForm) (s : State) : Out := pred2 (x.enc 0x53) (fun a _ => a) s
def execPmovExtended (x : XForm) (s : State) : Out := pred2 (x.enc 0x53) (fun a _ => a) s

/-- PPOPC (R350). -/
def ppopcOp (x : Enc) (s : State) : Out :=
  s.regOp x fun i => { s := [(x.d.toNat, BitVec.ofNat 64 (popMask (i.pred x.a.toNat &&& i.st.mask)))] }
def execPpopc (x : SForm) (s : State) : Out := ppopcOp (x.enc 0x54) s
def execPpopcExtended (x : XForm) (s : State) : Out := ppopcOp (x.enc 0x54) s

/-- GETSR (R276, R351). -/
def execGetsr (x : XForm) (s : State) : Out :=
  let e := x.enc 0x55
  s.issue e fun s i =>
    let (s, v) := s.readCtl i (e.w2.extractLsb' 0 8).toNat
    s.done i fun g => g.setScalar i.r.num e.d.toNat v

/-- `$seed` as SETSR writes it (R351). -/
def seedFrom (a : DWord) : Lanes := lanesFn fun l => a.extractLsb' 0 32 + BitVec.ofNat 32 l

/-- SETSR (R276, R351). -/
def execSetsr (x : XForm) (s : State) : Out :=
  let e := x.enc 0x56
  s.issue e fun s i =>
    let n := (e.w2.extractLsb' 0 8).toNat
    let v := i.scalar e.a
    if n = 0x81 then s.done i fun g => g.commit i.r.num i.st.mask { seed := some (seedFrom v) }
    else (s.writeCtl i n v).done i id

end Sys2Proof.Machine
end

