-- ==== Sys2Proof/Machine/Sync.lean ====
section
/-! DEFINITION. Barriers, events and mailboxes as instructions, opcodes 0xC0 to 0xCA (R420 to R428). -/
namespace Sys2Proof.Machine

/-! ### Shared parts -/

/-- The instruction issues and its strand parks: its PC is that of the next instruction (R126, R127). -/
def State.parkStrand (s : State) (i : Iss) (p : Park) (why : DWord) : State :=
  s.modGroup i.r.g fun g =>
    ((g.stepFence i.r.num i.t.fused i.time).advance i.r.num i.nextPc s.cycle).modStrand i.r.num fun st =>
      { st with state := .parked, park := some p, why := why }

/-- The scope of a barrier (R155, R422). -/
def barScope (num : Nat) : Scope := if num < 24 then .team else .bent

/-- A barrier that an instruction names: its owner and its entry, or BARMISUSE (R158, R159). -/
def State.theBar (s : State) (i : Iss) (num : Nat) (k : State → Team → BarEntry → Res Unit) : Res Unit :=
  match s.barOwner i.t num with
  | none => .trap s (barMisuse num)
  | some o => (s.findBar o num i.st.spilled).bind fun s e =>
    match e with
    | none => .trap s (barMisuse num)
    | some e => k s ((s.anyTeam? o.ctx o.vteam).getD o) e

/-- Whether a barrier wait is proved dead, with a number of arrivals counted in advance (R173). -/
def State.deadBar (s : State) (i : Iss) (o : Team) (e : BarEntry) (phase : Bool) (extra : Nat) : Bool :=
  decide (e.arrive + extra < e.expect) && e.agents = 0 && e.phase ≠ phase && s.othersStuck o e.num i.t.ctx i.t.vteam i.g.gidx i.r.num

/-- The wait half of BARWAIT and BARARW (R157, R422): complete, or parked, as an instruction that has arrived or not; other parked waits may be dead now. -/
def State.barWait (s : State) (i : Iss) (o : Team) (num : Nat) (phase arrived : Bool) : Res Unit :=
  match s.bar? o num with
  | none => .trap s (barMisuse num)
  | some e =>
    if e.phase = phase then s.done i id
    else
      let s := (s.parkStrand i (.barrier num phase) (barWhy num phase)).modStrand i.r fun st => { st with arrived := arrived }
      .ok (s.judgeBars i.t) ()

/-! ### Barriers -/

/-- What BARINIT writes (R158, R421). -/
def barStart (o : Team) (num count : Nat) : BarEntry := ⟨decide (24 ≤ num), false, num, o.ctx, o.vteam, count, 0, 0, 0⟩

/-- BARINIT on the entry found: written in place, or into a free entry of the owner's core; a phase that returns to 0 is a condition that becomes true (R163). -/
def State.initBar (s : State) (o : Team) (num count : Nat) (old : Option BarEntry) : State :=
  let e := barStart o num count
  let s := match old with
    | some _ => s.modBar o num fun _ => e
    | none => match (s.core o.core).freeBar? with
      | some k => (s.modCore o.core fun c => { c with bars := vmod c.bars k fun _ => some e }).modAnyTeam o.ctx o.vteam fun t =>
          { t with home := vmod t.home num fun _ => none }
      | none => s
  let s := s.modAnyTeam o.ctx o.vteam fun t => { t with inited := t.inited ||| (1#32 <<< num) }
  match old with
  | some x => if x.phase then (s.barTeams o num).foldl (fun s t => s.fireTeam t.ctx t.vteam fun b => b.kind = 1#2 && b.obj.toNat = num && !b.val.getLsbD 0) s else s
  | none => s

/-- BARINIT (R421). -/
def execBarinit (x : XForm) (s : State) : Out :=
  let e := x.enc 0xC0
  s.issue e fun s i =>
    let num := e.d.toNat
    let count := e.w2.toNat
    if 24 ≤ num ∧ i.t.bpos ≠ 0 then .trap s (barMisuse num)
    else match s.barOwner i.t num with
      | none => .trap s (barMisuse num)
      | some o => (s.findBar o num i.st.spilled).bind fun s old =>
        let o := (s.anyTeam? o.ctx o.vteam).getD o
        let busy : Bool := match old with
          | some b => s.barParked o num || b.agents ≠ 0 || b.arrive ≠ 0
          | none => s.barParked o num
        if count = 0 ∨ 4095 < count ∨ busy then .trap s (barMisuse num)
        else (s.initBar o num count old).done i id

/-- BARARV (R422). -/
def execBararv (x : SForm) (s : State) : Out :=
  let e := x.enc 0xC1
  s.issue e fun s i =>
    s.afterRelease i (barScope e.d.toNat) fun s i => s.theBar i e.d.toNat fun s o _ =>
      (s.done i id).bind fun s _ => .ok (s.arrive o e.d.toNat) ()

/-- BARWAIT (R422): a wait that is proved dead traps at once (R173). -/
def execBarwait (x : SForm) (s : State) : Out :=
  let e := x.enc 0xC2
  s.issue e fun s i =>
    let num := e.d.toNat
    let phase := e.b6.getLsbD 0
    s.theBar i num fun s o b =>
      if s.deadBar i o b phase 0 then .trap s { cause := 0x21#8, why := barWhy num phase }
      else s.barWait i o num phase false

/-- BARARW (R422): the dead-wait test comes before the arrival and counts it (R173). One that has arrived and was taken out of its wait by the trap arrives no second time. -/
def execBararw (x : SForm) (s : State) : Out :=
  let e := x.enc 0xC3
  s.issue e fun s i =>
    let num := e.d.toNat
    let phase := e.b6.getLsbD 0
    s.afterRelease i (barScope num) fun s i => s.theBar i num fun s o b =>
      if s.deadBar i o b phase (if i.st.arrived then 0 else 1) then .trap s { cause := 0x21#8, why := barWhy num phase }
      else (if i.st.arrived then s else s.arrive o num).barWait i o num phase true

/-- BARSTAT (R423). -/
def execBarstat (x : SForm) (s : State) : Out :=
  let e := x.enc 0xC4
  s.issue e fun s i => s.theBar i e.a.toNat fun s _ b => s.done i fun g => g.setScalar i.r.num e.d.toNat b.status

/-! ### Events -/

/-- Whether the condition of a binding holds (R163). -/
def bindHolds (t : Team) (bar : Option BarEntry) (b : Binding) : Bool :=
  match b.kind.toNat with
  | 1 => bar.any fun e => e.phase = b.val.getLsbD 0
  | 2 => tokenReached (t.tokens.getD b.obj.toNat 0) b.val
  | 3 => !(t.mbs.getD b.obj.toNat []).isEmpty
  | _ => false

/-- The three steps of a bind (R163); a slot that is set at once is still to be offered (R166). -/
def Group.bindEvent (g : Group) (n : Nat) (b : Binding) (holds : Bool) : Group :=
  { g with events := vmod g.events n fun _ => { b with spent := holds }
           pe := if holds then g.pe ||| (1#16 <<< n) else g.pe &&& ~~~(1#16 <<< n)
           offers := if holds then g.offers ||| (1#16 <<< n) else g.offers &&& ~~~(1#16 <<< n) }

/-- EVBIND (R424); a strand parked in WAITANY is offered the slot (R166). -/
def execEvbind (x : XForm) (s : State) : Out :=
  let e := x.enc 0xC5
  s.issue e fun s i =>
    let b : Binding := ⟨BitVec.ofNat 2 e.sub, false, e.a.extractLsb' 0 6, e.w2⟩
    let bind (s : State) (bar : Option BarEntry) : Res Unit :=
      (s.done i fun g => g.bindEvent e.d.toNat b (bindHolds i.t bar b)).bind fun s _ => .ok (s.offer i.r.g) ()
    if e.sub = 1 then s.theBar i e.a.toNat fun s _ bar => bind s (some bar) else bind s none

/-- EVMASK (R425). -/
def evmaskOp (x : Enc) (s : State) : Out := s.issue x fun s i => s.done i fun g => { g with em := (i.scalar x.a).extractLsb' 0 16 }
def execEvmask (x : SForm) (s : State) : Out := evmaskOp (x.enc 0xC6) s
def execEvmaskExtended (x : XForm) (s : State) : Out := evmaskOp (x.enc 0xC6) s

/-- EVCLR (R425): the bindings stay spent. -/
def evclrOp (x : Enc) (s : State) : Out := s.issue x fun s i => s.done i fun g => { g with pe := g.pe &&& ~~~(i.scalar x.a).extractLsb' 0 16 }
def execEvclr (x : SForm) (s : State) : Out := evclrOp (x.enc 0xC7) s
def execEvclrExtended (x : XForm) (s : State) : Out := evclrOp (x.enc 0xC7) s

/-- Whether a slot can no longer fire: unbound, or spent with its PE bit clear (R165). -/
def Group.deadSlot (g : Group) (n : Nat) : Bool :=
  let b := g.events.getD n Binding.unbound
  b.kind = 0 || (b.spent && !g.pe.getLsbD n)

/-- WAITANY (R165, R426). -/
def execWaitany (x : XForm) (s : State) : Out :=
  let e := x.enc 0xC8
  s.issue e fun s i =>
    let set : BitVec 16 := e.c ++ e.b
    let live := set &&& ~~~i.g.em
    match lowSlot (live &&& i.g.pe) with
    | some n => (s.dispatch i.t i.g set e.win e.ofs n).bind fun s h =>
        s.doneAt i (i.st.pc + h) fun g =>
          { (g.modStrand i.r.num fun st => { st with evn := BitVec.ofNat 5 n }) with pe := g.pe &&& ~~~(1#16 <<< n) }
    | none =>
      let why := waitDesc 2 set.toNat
      if (List.range 16).all fun n => !live.getLsbD n || i.g.deadSlot n then .trap s { cause := 0x21#8, why := why }
      else .ok (s.parkStrand i (.waitany set e.win e.ofs i.st.pc) why) ()

/-! ### Mailboxes -/

/-- POST (R427): a full mailbox holds it, and a value for no live team is discarded. -/
def execPostMb (x : XForm) (s : State) : Out :=
  let e := x.enc 0xC9
  s.issue e fun s i =>
    let mb := e.d.toNat
    let v : BitVec 16 := if e.mod.getLsbD 0 then i.t.vteam else (i.scalar e.a).extractLsb' 0 16
    s.afterRelease i (if v = i.t.vteam then .team else .device) fun s i =>
      match s.anyTeam? i.t.ctx v with
      | none => s.done i id
      | some u =>
        if u.mbFull mb then .hold s (waitDesc 6 (mb + v.toNat * 2 ^ 16))
        else (s.done i id).bind fun s _ => .ok (s.post i.t.ctx v mb (i.scalar e.b)) ()

/-- RECV (R428): the oldest value, or the strand parks behind the receivers that wait already (R168). -/
def execRecv (x : XForm) (s : State) : Out :=
  let e := x.enc 0xCA
  s.issue e fun s i =>
    let mb := e.a.toNat
    match i.t.mbs.getD mb [] with
    | v :: rest =>
      (s.modTeam i.t.ctx i.t.vteam fun t => { t with mbs := vmod t.mbs mb fun _ => rest }).done i fun g => g.setScalar i.r.num e.d.toNat v
    | [] =>
      let s := s.modTeam i.t.ctx i.t.vteam fun t => { t with waiters := t.waiters ++ [⟨mb, i.g.gidx, i.r.num⟩] }
      .ok (s.parkStrand i (.recv mb e.d) (waitDesc 5 (mb + i.t.vteam.toNat * 2 ^ 16))) ()

end Sys2Proof.Machine
end

