-- ==== Sys2Proof/Machine/Dispatch.lean ====
section
/-! DEFINITION. One arm for each operation: the meaning it calls. -/
namespace Sys2Proof.Machine

/-- The effect of an operation on the machine. -/
def exec (i : Instr) (s : State) : Host.Outcome State Fault Refusal :=
  match i with
  | .illegalOpcode w w1 => Sys2Proof.Machine.execIllegalOpcode w w1 s
  | .nop x => Sys2Proof.Machine.execNop x s
  | .nopExtended x => Sys2Proof.Machine.execNopExtended x s
  | .bra x => Sys2Proof.Machine.execBra x s
  | .fork x => Sys2Proof.Machine.execFork x s
  | .seal x => Sys2Proof.Machine.execSeal x s
  | .sealExtended x => Sys2Proof.Machine.execSealExtended x s
  | .join x => Sys2Proof.Machine.execJoin x s
  | .joinExtended x => Sys2Proof.Machine.execJoinExtended x s
  | .endarm x => Sys2Proof.Machine.execEndarm x s
  | .callSub x => Sys2Proof.Machine.execCallSub x s
  | .ret x => Sys2Proof.Machine.execRet x s
  | .loopTo x => Sys2Proof.Machine.execLoopTo x s
  | .exitStrand x => Sys2Proof.Machine.execExitStrand x s
  | .spawn x => Sys2Proof.Machine.execSpawn x s
  | .yieldStrand x => Sys2Proof.Machine.execYieldStrand x s
  | .bkpt x => Sys2Proof.Machine.execBkpt x s
  | .trapCode x => Sys2Proof.Machine.execTrapCode x s
  | .iadd x => Sys2Proof.Machine.execIadd x s
  | .iaddExtended x => Sys2Proof.Machine.execIaddExtended x s
  | .isub x => Sys2Proof.Machine.execIsub x s
  | .isubExtended x => Sys2Proof.Machine.execIsubExtended x s
  | .imul x => Sys2Proof.Machine.execImul x s
  | .imulExtended x => Sys2Proof.Machine.execImulExtended x s
  | .imulh x => Sys2Proof.Machine.execImulh x s
  | .imulhExtended x => Sys2Proof.Machine.execImulhExtended x s
  | .imad x => Sys2Proof.Machine.execImad x s
  | .idiv x => Sys2Proof.Machine.execIdiv x s
  | .irem x => Sys2Proof.Machine.execIrem x s
  | .imin x => Sys2Proof.Machine.execImin x s
  | .iminExtended x => Sys2Proof.Machine.execIminExtended x s
  | .imax x => Sys2Proof.Machine.execImax x s
  | .imaxExtended x => Sys2Proof.Machine.execImaxExtended x s
  | .iabs x => Sys2Proof.Machine.execIabs x s
  | .iabsExtended x => Sys2Proof.Machine.execIabsExtended x s
  | .ineg x => Sys2Proof.Machine.execIneg x s
  | .inegExtended x => Sys2Proof.Machine.execInegExtended x s
  | .iaddc x => Sys2Proof.Machine.execIaddc x s
  | .icmp x => Sys2Proof.Machine.execIcmp x s
  | .iset x => Sys2Proof.Machine.execIset x s
  | .andV x => Sys2Proof.Machine.execAndV x s
  | .andVExtended x => Sys2Proof.Machine.execAndVExtended x s
  | .orV x => Sys2Proof.Machine.execOrV x s
  | .orVExtended x => Sys2Proof.Machine.execOrVExtended x s
  | .xorV x => Sys2Proof.Machine.execXorV x s
  | .xorVExtended x => Sys2Proof.Machine.execXorVExtended x s
  | .andn x => Sys2Proof.Machine.execAndn x s
  | .andnExtended x => Sys2Proof.Machine.execAndnExtended x s
  | .notV x => Sys2Proof.Machine.execNotV x s
  | .notVExtended x => Sys2Proof.Machine.execNotVExtended x s
  | .bmix x => Sys2Proof.Machine.execBmix x s
  | .shl x => Sys2Proof.Machine.execShl x s
  | .shlExtended x => Sys2Proof.Machine.execShlExtended x s
  | .shr x => Sys2Proof.Machine.execShr x s
  | .shrExtended x => Sys2Proof.Machine.execShrExtended x s
  | .sar x => Sys2Proof.Machine.execSar x s
  | .sarExtended x => Sys2Proof.Machine.execSarExtended x s
  | .rot x => Sys2Proof.Machine.execRot x s
  | .rotExtended x => Sys2Proof.Machine.execRotExtended x s
  | .shf x => Sys2Proof.Machine.execShf x s
  | .popc x => Sys2Proof.Machine.execPopc x s
  | .popcExtended x => Sys2Proof.Machine.execPopcExtended x s
  | .clz x => Sys2Proof.Machine.execClz x s
  | .clzExtended x => Sys2Proof.Machine.execClzExtended x s
  | .brev x => Sys2Proof.Machine.execBrev x s
  | .brevExtended x => Sys2Proof.Machine.execBrevExtended x s
  | .bfe x => Sys2Proof.Machine.execBfe x s
  | .bfi x => Sys2Proof.Machine.execBfi x s
  | .selV x => Sys2Proof.Machine.execSelV x s
  | .mov x => Sys2Proof.Machine.execMov x s
  | .movExtended x => Sys2Proof.Machine.execMovExtended x s
  | .movi x => Sys2Proof.Machine.execMovi x s
  | .lea x => Sys2Proof.Machine.execLea x s
  | .sadd x => Sys2Proof.Machine.execSadd x s
  | .saddExtended x => Sys2Proof.Machine.execSaddExtended x s
  | .ssub x => Sys2Proof.Machine.execSsub x s
  | .ssubExtended x => Sys2Proof.Machine.execSsubExtended x s
  | .smul x => Sys2Proof.Machine.execSmul x s
  | .smulExtended x => Sys2Proof.Machine.execSmulExtended x s
  | .sand x => Sys2Proof.Machine.execSand x s
  | .sandExtended x => Sys2Proof.Machine.execSandExtended x s
  | .sor x => Sys2Proof.Machine.execSor x s
  | .sorExtended x => Sys2Proof.Machine.execSorExtended x s
  | .sxor x => Sys2Proof.Machine.execSxor x s
  | .sxorExtended x => Sys2Proof.Machine.execSxorExtended x s
  | .sshl x => Sys2Proof.Machine.execSshl x s
  | .sshlExtended x => Sys2Proof.Machine.execSshlExtended x s
  | .sshr x => Sys2Proof.Machine.execSshr x s
  | .sshrExtended x => Sys2Proof.Machine.execSshrExtended x s
  | .ssar x => Sys2Proof.Machine.execSsar x s
  | .ssarExtended x => Sys2Proof.Machine.execSsarExtended x s
  | .smov x => Sys2Proof.Machine.execSmov x s
  | .smovExtended x => Sys2Proof.Machine.execSmovExtended x s
  | .smovi x => Sys2Proof.Machine.execSmovi x s
  | .scmp x => Sys2Proof.Machine.execScmp x s
  | .vbcast x => Sys2Proof.Machine.execVbcast x s
  | .vbcastExtended x => Sys2Proof.Machine.execVbcastExtended x s
  | .readlane x => Sys2Proof.Machine.execReadlane x s
  | .readlaneExtended x => Sys2Proof.Machine.execReadlaneExtended x s
  | .vote x => Sys2Proof.Machine.execVote x s
  | .pand x => Sys2Proof.Machine.execPand x s
  | .pandExtended x => Sys2Proof.Machine.execPandExtended x s
  | .por x => Sys2Proof.Machine.execPor x s
  | .porExtended x => Sys2Proof.Machine.execPorExtended x s
  | .pxor x => Sys2Proof.Machine.execPxor x s
  | .pxorExtended x => Sys2Proof.Machine.execPxorExtended x s
  | .pnot x => Sys2Proof.Machine.execPnot x s
  | .pnotExtended x => Sys2Proof.Machine.execPnotExtended x s
  | .pmov x => Sys2Proof.Machine.execPmov x s
  | .pmovExtended x => Sys2Proof.Machine.execPmovExtended x s
  | .ppopc x => Sys2Proof.Machine.execPpopc x s
  | .ppopcExtended x => Sys2Proof.Machine.execPpopcExtended x s
  | .getsr x => Sys2Proof.Machine.execGetsr x s
  | .setsr x => Sys2Proof.Machine.execSetsr x s
  | .fadd x => Sys2Proof.Machine.execFadd x s
  | .faddExtended x => Sys2Proof.Machine.execFaddExtended x s
  | .fsub x => Sys2Proof.Machine.execFsub x s
  | .fsubExtended x => Sys2Proof.Machine.execFsubExtended x s
  | .fmul x => Sys2Proof.Machine.execFmul x s
  | .fmulExtended x => Sys2Proof.Machine.execFmulExtended x s
  | .ffma x => Sys2Proof.Machine.execFfma x s
  | .fmin x => Sys2Proof.Machine.execFmin x s
  | .fminExtended x => Sys2Proof.Machine.execFminExtended x s
  | .fmax x => Sys2Proof.Machine.execFmax x s
  | .fmaxExtended x => Sys2Proof.Machine.execFmaxExtended x s
  | .fabs x => Sys2Proof.Machine.execFabs x s
  | .fabsExtended x => Sys2Proof.Machine.execFabsExtended x s
  | .fneg x => Sys2Proof.Machine.execFneg x s
  | .fnegExtended x => Sys2Proof.Machine.execFnegExtended x s
  | .fcmp x => Sys2Proof.Machine.execFcmp x s
  | .fset x => Sys2Proof.Machine.execFset x s
  | .frnd x => Sys2Proof.Machine.execFrnd x s
  | .frndExtended x => Sys2Proof.Machine.execFrndExtended x s
  | .fscale x => Sys2Proof.Machine.execFscale x s
  | .fscaleExtended x => Sys2Proof.Machine.execFscaleExtended x s
  | .hadd2 x => Sys2Proof.Machine.execHadd2 x s
  | .hadd2Extended x => Sys2Proof.Machine.execHadd2Extended x s
  | .hmul2 x => Sys2Proof.Machine.execHmul2 x s
  | .hmul2Extended x => Sys2Proof.Machine.execHmul2Extended x s
  | .hfma2 x => Sys2Proof.Machine.execHfma2 x s
  | .dadd x => Sys2Proof.Machine.execDadd x s
  | .daddExtended x => Sys2Proof.Machine.execDaddExtended x s
  | .dmul x => Sys2Proof.Machine.execDmul x s
  | .dmulExtended x => Sys2Proof.Machine.execDmulExtended x s
  | .dfma x => Sys2Proof.Machine.execDfma x s
  | .frcp x => Sys2Proof.Machine.execFrcp x s
  | .frsq x => Sys2Proof.Machine.execFrsq x s
  | .fsqrt x => Sys2Proof.Machine.execFsqrt x s
  | .fexp2 x => Sys2Proof.Machine.execFexp2 x s
  | .flog2 x => Sys2Proof.Machine.execFlog2 x s
  | .fsin x => Sys2Proof.Machine.execFsin x s
  | .fcos x => Sys2Proof.Machine.execFcos x s
  | .ftanh x => Sys2Proof.Machine.execFtanh x s
  | .cvt x => Sys2Proof.Machine.execCvt x s
  | .bscale x => Sys2Proof.Machine.execBscale x s
  | .bpack x => Sys2Proof.Machine.execBpack x s
  | .bunpack x => Sys2Proof.Machine.execBunpack x s
  | .shfl x => Sys2Proof.Machine.execShfl x s
  | .shflExtended x => Sys2Proof.Machine.execShflExtended x s
  | .shflx x => Sys2Proof.Machine.execShflx x s
  | .shflxExtended x => Sys2Proof.Machine.execShflxExtended x s
  | .shflup x => Sys2Proof.Machine.execShflup x s
  | .shflupExtended x => Sys2Proof.Machine.execShflupExtended x s
  | .shfldn x => Sys2Proof.Machine.execShfldn x s
  | .shfldnExtended x => Sys2Proof.Machine.execShfldnExtended x s
  | .bfly x => Sys2Proof.Machine.execBfly x s
  | .bflyExtended x => Sys2Proof.Machine.execBflyExtended x s
  | .lred x => Sys2Proof.Machine.execLred x s
  | .lscan x => Sys2Proof.Machine.execLscan x s
  | .sldef x => Sys2Proof.Machine.execSldef x s
  | .slpush x => Sys2Proof.Machine.execSlpush x s
  | .slpushExtended x => Sys2Proof.Machine.execSlpushExtended x s
  | .slread x => Sys2Proof.Machine.execSlread x s
  | .slreadExtended x => Sys2Proof.Machine.execSlreadExtended x s
  | .slsetw x => Sys2Proof.Machine.execSlsetw x s
  | .slreset x => Sys2Proof.Machine.execSlreset x s
  | .slsave x => Sys2Proof.Machine.execSlsave x s
  | .slload x => Sys2Proof.Machine.execSlload x s
  | .ld x => Sys2Proof.Machine.execLd x s
  | .st x => Sys2Proof.Machine.execSt x s
  | .ldk x => Sys2Proof.Machine.execLdk x s
  | .sld x => Sys2Proof.Machine.execSld x s
  | .sst x => Sys2Proof.Machine.execSst x s
  | .atom x => Sys2Proof.Machine.execAtom x s
  | .atomagg x => Sys2Proof.Machine.execAtomagg x s
  | .cas x => Sys2Proof.Machine.execCas x s
  | .fence x => Sys2Proof.Machine.execFence x s
  | .fencer x => Sys2Proof.Machine.execFencer x s
  | .touch x => Sys2Proof.Machine.execTouch x s
  | .pref x => Sys2Proof.Machine.execPref x s
  | .cpy x => Sys2Proof.Machine.execCpy x s
  | .cpyred x => Sys2Proof.Machine.execCpyred x s
  | .cpyx x => Sys2Proof.Machine.execCpyx x s
  | .barinit x => Sys2Proof.Machine.execBarinit x s
  | .bararv x => Sys2Proof.Machine.execBararv x s
  | .barwait x => Sys2Proof.Machine.execBarwait x s
  | .bararw x => Sys2Proof.Machine.execBararw x s
  | .barstat x => Sys2Proof.Machine.execBarstat x s
  | .evbind x => Sys2Proof.Machine.execEvbind x s
  | .evmask x => Sys2Proof.Machine.execEvmask x s
  | .evmaskExtended x => Sys2Proof.Machine.execEvmaskExtended x s
  | .evclr x => Sys2Proof.Machine.execEvclr x s
  | .evclrExtended x => Sys2Proof.Machine.execEvclrExtended x s
  | .waitany x => Sys2Proof.Machine.execWaitany x s
  | .postMb x => Sys2Proof.Machine.execPostMb x s
  | .recv x => Sys2Proof.Machine.execRecv x s
  | .cvinit x => Sys2Proof.Machine.execCvinit x s
  | .msign x => Sys2Proof.Machine.execMsign x s
  | .launch x => Sys2Proof.Machine.execLaunch x s
  | .nmrun x => Sys2Proof.Machine.execNmrun x s
  | .strsave x => Sys2Proof.Machine.execStrsave x s
  | .strload x => Sys2Proof.Machine.execStrload x s
  | .ctxsave x => Sys2Proof.Machine.execCtxsave x s
  | .ctxload x => Sys2Proof.Machine.execCtxload x s
  | .mfreeze x => Sys2Proof.Machine.execMfreeze x s
  | .cinv x => Sys2Proof.Machine.execCinv x s
  | .cwb x => Sys2Proof.Machine.execCwb x s
  | .znop x => Sys2Proof.Machine.execZnop x s
  | .zld x => Sys2Proof.Machine.execZld x s
  | .zst x => Sys2Proof.Machine.execZst x s
  | .zmov x => Sys2Proof.Machine.execZmov x s
  | .zadd x => Sys2Proof.Machine.execZadd x s
  | .zsub x => Sys2Proof.Machine.execZsub x s
  | .zmul x => Sys2Proof.Machine.execZmul x s
  | .zfma x => Sys2Proof.Machine.execZfma x s
  | .zfms x => Sys2Proof.Machine.execZfms x s
  | .zmin x => Sys2Proof.Machine.execZmin x s
  | .zmax x => Sys2Proof.Machine.execZmax x s
  | .zabs x => Sys2Proof.Machine.execZabs x s
  | .zneg x => Sys2Proof.Machine.execZneg x s
  | .zrsqe x => Sys2Proof.Machine.execZrsqe x s
  | .zrsqs x => Sys2Proof.Machine.execZrsqs x s
  | .zcmp x => Sys2Proof.Machine.execZcmp x s
  | .zsel x => Sys2Proof.Machine.execZsel x s
  | .zcvtn x => Sys2Proof.Machine.execZcvtn x s
  | .zcvtw x => Sys2Proof.Machine.execZcvtw x s
  | .zrow x => Sys2Proof.Machine.execZrow x s
  | .zplanes x => Sys2Proof.Machine.execZplanes x s
  | .zrcpe x => Sys2Proof.Machine.execZrcpe x s
  | .zrcps x => Sys2Proof.Machine.execZrcps x s
  | .boot => Sys2Proof.Machine.execBoot s
  | .thermalShutdown => Sys2Proof.Machine.execThermalShutdown s
  | .throttle => Sys2Proof.Machine.execThrottle s
  | .deviceTimeSlew => Sys2Proof.Machine.execDeviceTimeSlew s
  | .deviceTimeResync => Sys2Proof.Machine.execDeviceTimeResync s
  | .flitReceive => Sys2Proof.Machine.execFlitReceive s
  | .flitReplay => Sys2Proof.Machine.execFlitReplay s
  | .linkTraining => Sys2Proof.Machine.execLinkTraining s
  | .dieLinkFlitReceive => Sys2Proof.Machine.execDieLinkFlitReceive s
  | .memoryRead => Sys2Proof.Machine.execMemoryRead s
  | .memoryWrite => Sys2Proof.Machine.execMemoryWrite s
  | .ridgeAtomic => Sys2Proof.Machine.execRidgeAtomic s
  | .completionWithData => Sys2Proof.Machine.execCompletionWithData s
  | .completionWithoutData => Sys2Proof.Machine.execCompletionWithoutData s
  | .malformedTransaction => Sys2Proof.Machine.execMalformedTransaction s
  | .tailWrite => Sys2Proof.Machine.execTailWrite s
  | .progressRead => Sys2Proof.Machine.execProgressRead s
  | .tailRead => Sys2Proof.Machine.execTailRead s
  | .statusRead => Sys2Proof.Machine.execStatusRead s
  | .queueResume => Sys2Proof.Machine.execQueueResume s
  | .energyRead => Sys2Proof.Machine.execEnergyRead s
  | .energyClear => Sys2Proof.Machine.execEnergyClear s
  | .mailboxPost => Sys2Proof.Machine.execMailboxPost s
  | .managementMessage => Sys2Proof.Machine.execManagementMessage s
  | .getVersion => Sys2Proof.Machine.execGetVersion s
  | .getCapabilities => Sys2Proof.Machine.execGetCapabilities s
  | .negotiateAlgorithms => Sys2Proof.Machine.execNegotiateAlgorithms s
  | .getDigests => Sys2Proof.Machine.execGetDigests s
  | .getCertificate => Sys2Proof.Machine.execGetCertificate s
  | .challenge => Sys2Proof.Machine.execChallenge s
  | .getMeasurements => Sys2Proof.Machine.execGetMeasurements s
  | .spdmUnsupportedRequest => Sys2Proof.Machine.execSpdmUnsupportedRequest s
  | .setIdentity => Sys2Proof.Machine.execSetIdentity s
  | .mgmtStatus => Sys2Proof.Machine.execMgmtStatus s
  | .flashSlotRewrite => Sys2Proof.Machine.execFlashSlotRewrite s
  | .sensorRead => Sys2Proof.Machine.execSensorRead s
  | .scrubRead => Sys2Proof.Machine.execScrubRead s
  | .scrubWrite => Sys2Proof.Machine.execScrubWrite s
  | .logRead => Sys2Proof.Machine.execLogRead s
  | .logClear => Sys2Proof.Machine.execLogClear s
  | .lifetimeRead => Sys2Proof.Machine.execLifetimeRead s
  | .returnToService => Sys2Proof.Machine.execReturnToService s
  | .quarantineList => Sys2Proof.Machine.execQuarantineList s
  | .unlistedVendorCommand => Sys2Proof.Machine.execUnlistedVendorCommand s
  | .lifetimeCountSave => Sys2Proof.Machine.execLifetimeCountSave s
  | .launchPacket => Sys2Proof.Machine.execLaunchPacket s
  | .taskGraphPacket => Sys2Proof.Machine.execTaskGraphPacket s
  | .sillRunPacket => Sys2Proof.Machine.execSillRunPacket s
  | .copyPacket => Sys2Proof.Machine.execCopyPacket s
  | .signalPacket => Sys2Proof.Machine.execSignalPacket s
  | .signalPacketRecheck => Sys2Proof.Machine.execSignalPacketRecheck s
  | .mailboxPostPacket => Sys2Proof.Machine.execMailboxPostPacket s
  | .createContext => Sys2Proof.Machine.execCreateContext s
  | .destroyContext => Sys2Proof.Machine.execDestroyContext s
  | .mapQueue => Sys2Proof.Machine.execMapQueue s
  | .unmapQueue => Sys2Proof.Machine.execUnmapQueue s
  | .reservedPacketType => Sys2Proof.Machine.execReservedPacketType s
  | .packetCompletionSignal => Sys2Proof.Machine.execPacketCompletionSignal s
  | .systemCopyComplete => Sys2Proof.Machine.execSystemCopyComplete s
  | .taskNodeStart => Sys2Proof.Machine.execTaskNodeStart s
  | .taskNodeComplete => Sys2Proof.Machine.execTaskNodeComplete s
  | .codeSwap => Sys2Proof.Machine.execCodeSwap s
  | .bentRequest => Sys2Proof.Machine.execBentRequest s
  | .requestGrant => Sys2Proof.Machine.execRequestGrant s
  | .holdCommit => Sys2Proof.Machine.execHoldCommit s
  | .bentCommit => Sys2Proof.Machine.execBentCommit s
  | .commitComplete => Sys2Proof.Machine.execCommitComplete s
  | .preemptionRequest => Sys2Proof.Machine.execPreemptionRequest s
  | .preemptionHoldRelease => Sys2Proof.Machine.execPreemptionHoldRelease s
  | .controlBlockWrite => Sys2Proof.Machine.execControlBlockWrite s
  | .bentSaveComplete => Sys2Proof.Machine.execBentSaveComplete s
  | .yieldSave => Sys2Proof.Machine.execYieldSave s
  | .restoreComplete => Sys2Proof.Machine.execRestoreComplete s
  | .spawnBinTimeout => Sys2Proof.Machine.execSpawnBinTimeout s
  | .passArbitration => Sys2Proof.Machine.execPassArbitration s
  | .passComplete => Sys2Proof.Machine.execPassComplete s
  | .storePartRelease => Sys2Proof.Machine.execStorePartRelease s
  | .laneLoadPerform => Sys2Proof.Machine.execLaneLoadPerform s
  | .loadDataReturn => Sys2Proof.Machine.execLoadDataReturn s
  | .storeAcknowledge => Sys2Proof.Machine.execStoreAcknowledge s
  | .releaseWaitComplete => Sys2Proof.Machine.execReleaseWaitComplete s
  | .strandFree => Sys2Proof.Machine.execStrandFree s
  | .fairnessTimer => Sys2Proof.Machine.execFairnessTimer s
  | .starvationQueueEntry => Sys2Proof.Machine.execStarvationQueueEntry s
  | .handlerEntry => Sys2Proof.Machine.execHandlerEntry s
  | .groupWatchdog => Sys2Proof.Machine.execGroupWatchdog s
  | .dbgstop => Sys2Proof.Machine.execDbgstop s
  | .bspill => Sys2Proof.Machine.execBspill s
  | .firstTouch => Sys2Proof.Machine.execFirstTouch s
  | .pageRequestAppend => Sys2Proof.Machine.execPageRequestAppend s
  | .resolveWrite => Sys2Proof.Machine.execResolveWrite s
  | .hotnessIntervalEnd => Sys2Proof.Machine.execHotnessIntervalEnd s
  | .migration => Sys2Proof.Machine.execMigration s
  | .migrationFrameRelease => Sys2Proof.Machine.execMigrationFrameRelease s
  | .copyComplete => Sys2Proof.Machine.execCopyComplete s
  | .sillRunStart => Sys2Proof.Machine.execSillRunStart s
  | .sillWave => Sys2Proof.Machine.execSillWave s
  | .sillRunComplete => Sys2Proof.Machine.execSillRunComplete s
  | .scrubVisit => Sys2Proof.Machine.execScrubVisit s
  | .energyFold => Sys2Proof.Machine.execEnergyFold s
  | .tret => Sys2Proof.Machine.execTret s
  | .tretKill => Sys2Proof.Machine.execTretKill s
  | .tretFail => Sys2Proof.Machine.execTretFail s
  | .longLatencyCompletion => Sys2Proof.Machine.execLongLatencyCompletion s
  | .dynamicAddressAssignment => Sys2Proof.Machine.execDynamicAddressAssignment s

end Sys2Proof.Machine
end

