-- ==== Sys2Proof/Machine/Due.lean ====
section
/-! DEFINITION. The turns that may fall due when the agenda is empty, in the order in which they are tried (log 3): first the boot, then the internal events, then the strands in the order of R145. -/
namespace Sys2Proof.Machine

/-- The boot of a device on which every test passes and every port meets another Z9. -/
def bootTurn : Turn := .event .boot { n := 0xFFF, k := 0xF, j := 0xFFFFFF }

/-- When the fault of an access shows (log 41): once the strand can issue no more of the window, the group drains, or its team is being saved (R278). While a handler runs only its own shows (R271). -/
def Group.faultShows (g : Group) (saving : Bool) (f : Failing) : Bool :=
  !f.raised && if g.trap = .handling then f.sid = handlerSid else saving || g.trap ≠ .none || (g.strand f.sid).state ≠ .ready

/-- Events of one group. -/
def groupTurns (saving : Bool) (t : Team) (g : Group) : List Turn :=
  let r : GroupRef := ⟨t.ctx, t.vteam, g.gidx⟩
  let at_ (i : Instr) (n k : Nat) : Turn := .event i { g := r, n := n, k := k }
  g.sb.flatMap (fun e => e.parts.map fun p => at_ .storePartRelease e.id p.lane)
    ++ g.loads.flatMap (fun l => l.parts.filterMap fun p => if p.st = .gated then some (at_ .laneLoadPerform l.id p.lane) else none)
    ++ g.loads.map (fun l => at_ .loadDataReturn l.id 0)
    ++ g.acks.map (fun a => at_ .storeAcknowledge a.id 0)
    ++ g.longs.map (fun o => at_ .longLatencyCompletion o.id 0)
    ++ (g.failing.filter (g.faultShows saving)).map (fun f => at_ .longLatencyCompletion f.id 0)
    ++ g.live.flatMap (fun x => [at_ .releaseWaitComplete 0 x.1, at_ .strandFree 0 x.1, at_ .starvationQueueEntry 0 x.1])
    ++ [at_ .releaseWaitComplete 0 handlerSid, at_ .fairnessTimer 0 0, at_ .handlerEntry 0 0, at_ .groupWatchdog 0 0, at_ .dbgstop 0 0]

/-- Events of a core, an engine and a stack. -/
def State.unitTurns (s : State) : List Turn :=
  let at_ (i : Instr) (n k : Nat) : Turn := .event i { n := n, k := k }
  ((s.teams.map (·.core)).eraseDups).flatMap (fun c =>
      (s.core c).copies.map (fun x => at_ .copyComplete c x.id) ++ (List.range 16).map (at_ .spawnBinTimeout c)
        ++ (if (s.core c).staticAt + 10 ≤ s.timeOf (dieOfCore c) / 1000 then [at_ .energyFold c 0] else []))
    ++ (List.range 64).flatMap (fun k => [at_ .passArbitration k 0, at_ .passComplete k 0])
    ++ s.runs.flatMap (fun r => [at_ .sillRunStart r.id 0, at_ .sillRunComplete r.id 0])
    ++ (List.range 12).flatMap (fun k => [at_ .sillWave k 0, .sill k])

/-- Events of queues, packets, graphs and system copies. -/
def State.queueTurns (s : State) : List Turn :=
  let rows : List Instr := [.launchPacket, .taskGraphPacket, .sillRunPacket, .copyPacket, .signalPacket, .signalPacketRecheck, .mailboxPostPacket,
    .createContext, .destroyContext, .mapQueue, .unmapQueue, .reservedPacketType]
  s.ctxs.flatMap (fun c => (List.range 16).flatMap fun q =>
      if (c.queues.getD q Queue.absent).slot.isSome then rows.map fun i => .event i { ctx := c.num, q := BitVec.ofNat 4 q } else [])
    ++ s.graphs.flatMap (fun g => (List.range g.nodes.length).flatMap fun n =>
      [.event .taskNodeStart { n := g.id, k := n }, .event .taskNodeComplete { n := g.id, k := n }])
    ++ s.works.map (fun w => .event .packetCompletionSignal { n := w.id })
    ++ s.sysCopies.map (fun c => .event .systemCopyComplete { n := c.id })

/-- Events of the distributor. -/
def State.bentTurns (s : State) : List Turn :=
  let at_ (i : Instr) (n : Nat) : Turn := .event i { n := n }
  s.bents.flatMap (fun b => [at_ .requestGrant b.id, at_ .bentCommit b.id, at_ .commitComplete b.id, at_ .restoreComplete b.id, at_ .bentSaveComplete b.id])
    ++ (List.range 4).map (at_ .holdCommit)
    ++ s.grids.map (fun g => at_ .bentRequest g.record)
    ++ s.ctxs.flatMap (fun c => [.event .yieldSave { ctx := c.num }] ++ (List.range 48).map fun k => .event .codeSwap { ctx := c.num, k := k })

/-- Events of paging, and the saving of the lifetime counts. -/
def State.pageTurns (s : State) : List Turn :=
  let move (d : Nat) (p : HotPage) : Turn := .event .migration { n := d, ctx := BitVec.ofNat 8 (p.key / 2 ^ 41), v := BitVec.ofNat 64 (p.key % 2 ^ 41 * 65536) }
  (List.range 4).map (fun d => .event .pageRequestAppend { n := d })
    ++ [.event .hotnessIntervalEnd {}, .event .lifetimeCountSave {}]
    ++ s.migrations.map (fun m => .event .migration { n := m.die, ctx := m.ctx, v := BitVec.ofNat 64 m.va })
    ++ s.oldFrames.map (fun f => .event .migrationFrameRelease { n := f.frame })
    ++ s.hot.toList.flatMap (fun h => h.last.flatMap fun p => (List.range 4).map (move · p))

/-- Events of the groups of a team. -/
def State.teamTurns (s : State) (t : Team) : List Turn := t.groups.flatMap (groupTurns ((s.bent? t.bent).any (·.st = .saving)) t)

/-- Every event that may be due: only a device that a reset has just left boots of itself, and one that has failed or shut down stays as it is (R33, R35, R297). -/
def State.eventTurns (s : State) : List Turn :=
  if s.root.phase = .inReset then [bootTurn]
  else if s.root.phase ≠ .running then []
  else s.waiting.map (fun t => .event (txnRow t) { t := t }) ++ s.teams.flatMap s.teamTurns ++ s.unitTurns ++ s.queueTurns ++ s.bentTurns ++ s.pageTurns

/-! ### Strands (R145, R146, R356) -/

/-- An element put before the first one that it precedes. -/
def insertBy {α : Type} (lt : α → α → Bool) (x : α) : List α → List α
  | [] => [x]
  | y :: r => if lt x y then x :: y :: r else y :: insertBy lt x r

def sortBy {α : Type} (lt : α → α → Bool) (l : List α) : List α := l.foldl (fun acc x => insertBy lt x acc) []

/-- The strands of a group in the order in which R145 takes them: one with priority first, those that yield last, a handler strand alone. -/
def Group.turnOrder (g : Group) : List (Nat × Bool) :=
  if g.trap = .handling then [(0, true)]
  else
    let l := g.inOrder fun st => st.state = .ready || st.state = .waiting
    let l := l.filter (·.2.yieldFor = 0) ++ l.filter (·.2.yieldFor ≠ 0)
    let l := if 0 < g.fairFor then l.filter (·.1 = g.fairSid) ++ l.filter (·.1 ≠ g.fairSid) else l
    l.map fun x => (x.1, false)

/-- Turns of one quadrant of a core: its starvation queue, then its groups by age (R145). An idle cycle of a throttled die gives none (R33). -/
def State.quadTurns (s : State) (c q : Nat) : List Turn :=
  if s.throttled.getD (dieOfCore c) false && s.cycle % 2 = 1 then []
  else
    let starved := (((s.core c).starve.getD q []).filter s.starving).map fun x => Turn.issue ⟨x.1, x.2, false⟩
    let groups := (s.teams.filter (·.core = c)).flatMap fun t => (t.groups.filter fun g => g.gidx % 4 = q).map fun g => (t, g)
    let older (x y : Team × Group) : Bool := decide (x.2.born < y.2.born) || (x.2.born = y.2.born && decide (x.2.gidx < y.2.gidx))
    starved ++ (sortBy older groups).flatMap fun x => x.2.turnOrder.map fun k => .issue ⟨⟨x.1.ctx, x.1.vteam, x.2.gidx⟩, k.1, k.2⟩

/-- Turns of every quadrant that holds a group; the quadrants take turns at being first. -/
def State.issueTurns (s : State) : List Turn :=
  let quads := ((s.teams.map (·.core)).eraseDups).flatMap fun c => (List.range 4).map fun q => (c, q)
  let k := s.cycle % max quads.length 1
  (quads.drop k ++ quads.take k).flatMap fun x => s.quadTurns x.1 x.2

/-- Every turn that may fall due. -/
def State.dueTurns (s : State) : List Turn := s.eventTurns ++ s.issueTurns

end Sys2Proof.Machine
end

