-- ==== Sys2Proof/Machine/Sched.lean ====
section
/-! DEFINITION. Who moves next (log 3): the clock (R7, R33), the fetch of an instruction (R304, R317), a strand's turn (R151, R152, R273), a Sill unit's turn (R447), and the turn that falls due when nothing is on the agenda. -/
namespace Sys2Proof.Machine

/-- The ticks of n core cycles: 12 cycles are 5 ticks (R7), and none pass while the counters hold (R31). -/
def State.ticksOf (s : State) (n : Nat) : Nat := if s.timeHeld then 0 else (s.frac + 5 * n) / 12

/-- The idle issue cycles among the n after a cycle, on a die that inserts them: the odd ones (R33). -/
def idleCycles (throttled : Bool) (cycle n : Nat) : Nat := if throttled then (cycle + n + 1) / 2 - (cycle + 1) / 2 else 0

/-- What n core cycles do to the groups of a team (R145, R148, R174). -/
def State.passTeam (s : State) (n : Nat) (t : Team) : Team :=
  let runs := (s.bent? t.bent).any (·.st = .run)
  let idle := idleCycles (s.throttled.getD (dieOfCore t.core) false) s.cycle n
  { t with groups := t.groups.map (·.passTime runs (s.cycle + n) idle (s.ticksOf n)) }

/-- Core cycles pass (R7). -/
def State.cycles (s : State) (n : Nat) : State :=
  { s with cycle := s.cycle + n, time := s.time + s.ticksOf n, frac := if s.timeHeld then s.frac else (s.frac + 5 * n) % 12
           teams := s.teams.map (s.passTeam n) }

/-- One core cycle passes. -/
def State.tick (s : State) : State := s.cycles 1

/-- Further words of an instruction. -/
def State.fetchWords (s : State) (t : Team) (bounds : Nat × Nat) (pc : DWord) : Nat → List Word → Res (List Word)
  | 0, ws => .ok s ws
  | n + 1, ws => (s.fetchWord t bounds (pc + BitVec.ofNat 64 (4 * ws.length))).bind fun s w => s.fetchWords t bounds pc n (ws ++ [w])

/-- The instruction at the PC of a strand, and its length in words (R304, R317); what the map does not list is an illegal opcode. -/
def State.fetch (s : State) (t : Team) (g : Group) (r : StrandRef) : Res (Instr × Nat) :=
  let bounds := s.codeBounds t g r.handler
  let pc := (g.strand r.num).pc
  (s.fetchWord t bounds pc).bind fun s w0 =>
    let n := (Form.ofLen (w0.extractLsb' 0 2)).words
    (s.fetchWords t bounds pc (n - 1) [w0]).bind fun s ws =>
      match decode w0 (ws.getD 1 0) (ws.getD 2 0) (ws.getD 3 0) (ws.getD 4 0) with
      | .ok x => .ok s x
      | .error _ => .ok s (.illegalOpcode w0 (ws.getD 1 0), n)

/-- Whether a strand may issue: its bent runs, it is ready or waits to be ready, and no trap stops it (R97, R152, R273). -/
def State.issuable (s : State) (r : StrandRef) : Bool :=
  match s.team? r.g.ctx r.g.vteam, s.group? r.g with
  | some t, some g =>
    let st := g.strand r.num
    let runs := match s.bent? t.bent with
      | some b => b.st = .run
      | none => false
    runs && st.valid && (st.state = .ready || st.state = .waiting) && match g.trap with
      | .none => !r.handler
      | .draining => !r.handler && !g.record.fset.getLsbD r.sid
      | .handling => r.handler
  | _, _ => false

/-- An instruction that returned skips is passed over (R151). -/
def State.skip (s : State) (r : StrandRef) (n : Nat) : State :=
  s.modGroup r.g fun g => g.advance r.num ((g.strand r.num).pc + BitVec.ofNat 64 (4 * n)) s.cycle

/-- A strand's turn: its instruction is fetched, decoded and executed. -/
def State.issueTurn (s : State) (r : StrandRef) : Out :=
  if !s.issuable r then .next s
  else match s.team? r.g.ctx r.g.vteam, s.group? r.g with
    | some t, some g =>
      match s.fetch t g r with
      | .ok s (i, n) =>
        if (g.strand r.num).skips.head? = some true then .next (s.skip r n)
        else exec i { s with cur := some r }
      | .hold s why => .next (s.holdStrand r { why := why })
      | .trap s tr => .next (s.takeTrap r tr)
      | .gone s x => .next (s.abortTeam r.g.ctx r.g.vteam x)
    | _, _ => .next s

/-- The word that the unit of a stack is about to execute (R442, R447). -/
def State.sillFetch (s : State) (k : Nat) : Option Word :=
  match (s.stackCtls.getD k ⟨[], 0, none⟩).unit with
  | none => none
  | some u => match s.runs.find? (·.id = u.run) with
    | none => none
    | some r => r.words[u.pc]?

/-- A Sill unit's turn: one word of its program. -/
def State.sillTurn (s : State) (k : Nat) : Out :=
  match s.sillFetch k with
  | none => .next s
  | some w => match decodeSill w with
    | .ok i => exec i { s with curSill := some k }
    | .error _ => .next s

/-- What a turn does where it meets no error. -/
def State.act (s : State) : Turn → Out
  | .event i o => exec i { s with operand := o }
  | .issue r => s.issueTurn r
  | .sill k => s.sillTurn k
  | .elapse n => .next (s.cycles n)

/-- A core without what a mere attempt leaves in it: its caches and its counts. -/
def Core.bare (c : Core) : Core :=
  { c with l1 := [], kcache := [], icache := [], tlb := [], energy := [], sbstall := 0, pffetch := 0, pfused := 0, pftimely := 0, sampled := 0 }

/-- A state without caches, counts of requests and energy, and what the model itself notes of a turn. -/
def State.bare (s : State) : State :=
  { s with l2 := [], l2es := [], l2tlb := Vector.replicate 4 [], walkCache := Vector.replicate 4 [], hot := s.hot.map fun h => { h with rows := [] }
           cores := s.cores.map Core.bare, ctxs := s.ctxs.map fun c => { c with energy := 0 }, operand := {}, cur := none, curSill := none }

/-- Whether a turn has done anything but fill caches and count (log 3). -/
def State.movedBy (s t : State) : Bool := decide (s.bare ≠ t.bare)

/-- The instruction that a strand is about to issue, if nothing holds it. -/
def State.issuing (s : State) (r : StrandRef) : Option Iss :=
  if !s.issuable r then none
  else match s.team? r.g.ctx r.g.vteam, s.group? r.g with
    | some t, some g => match s.fetch t g r with
      | .ok s (i, _) =>
        if (g.strand r.num).skips.head? = some true then none
        else (i.enc?.bind fun x => State.iss? { s with cur := some r } r x).filter fun i => (i.held (Enc.uses i.x)).isNone
      | _ => none
    | _, _ => none

/-- The errors that a turn meets (R285). -/
def State.meets (s : State) (t : Turn) : List Flaw :=
  let takes : Bool := match s.act t with
    | .next s' => s.movedBy s'
    | _ => false
  match t with
  | .issue r => match s.issuing r with
    | some i => s.flaws.filter fun f => i.meets s f.at_
    | none => []
  | .event e o => if takes then s.flaws.filter fun f => s.eventMeets e o f.at_ else []
  | .sill k => if takes then s.flaws.filter fun f => f.at_ = .sill k else []
  | .elapse _ => []

/-- The group for which a turn acts. -/
def Turn.group : Turn → GroupRef
  | .event _ o => o.g
  | .issue r => r.g
  | _ => ⟨0, 0, 0⟩

/-- The registers that a turn writes, in their lanes. -/
def State.turnWrites (s : State) (t : Turn) (g : GroupRef) (reg lane : Nat) : Bool :=
  match t with
  | .issue r => match s.issuing r with
    | some i => !(Enc.memoryOp i.x) && g = r.g && (Enc.uses i.x).wv.contains reg && i.active.getLsbD lane
    | none => false
  | .event _ o => g = o.g && (s.eventWrites o).1.contains reg && (s.eventWrites o).2.getLsbD lane
  | _ => false

/-- A turn that may meet errors: what they come to, and then its own effect, if none of them has taken its data (R285, R286). -/
def State.flawedTurn (s : State) (t : Turn) : Out :=
  let met := s.meets t
  let s' := met.foldl (State.meetFlaw t.group) s
  if met.any (·.stops) then .next s'
  else match s'.act t with
    | .next u => .next (u.keepFlaws s (s.turnWrites t))
    | o => o

/-- A turn of the agenda. -/
def State.turn (s : State) (t : Turn) : Out := if s.flaws.isEmpty then s.act t else s.flawedTurn t

/-- The first turn of a list that does something; one that does nothing leaves no trace, and none leaves the state as it is. -/
def State.firstTurn (s : State) : List Turn → Out
  | [] => .next s
  | t :: r =>
    match s.turn t with
    | .next s' => if s.movedBy s' then .next s' else s.firstTurn r
    | o => o

/-- The turn that falls due when the agenda is empty. -/
def State.defaultTurn (s : State) : Out := s.firstTurn s.dueTurns

/-- Completions over Ridge whose time has come on every die, whose lines no Sill run holds, and whose pieces at other peers are answered are sent (R185, R216, R230). -/
def State.flushReplies (s : State) : State :=
  let ready (r : Reply) : Bool := decide (r.after_ ≤ s.earliestTime ∧ r.out = 0) && !(r.lines.any s.held)
  (s.replies.filter ready).foldl (fun s r => s.sendTxn r.t) { s with replies := s.replies.filter (!ready ·) }

/-- The packets of a message over Ridge, each behind a transport header (R51, R52, log 34). -/
def mctpPackets : Nat → Nat → List Byte → List (List Byte)
  | 0, _, _ => []
  | n + 1, k, b => mctpPacket true k (b.take 252) :: mctpPackets n (k + 1) (b.drop 252)

/-- A management message of one MCTP packet (R51). -/
def packetTxn (b : List Byte) : Txn :=
  let n := (b.length + 31) / 32
  { Txn.zero with vc := 3, op := 0x0C, ndata := BitVec.ofNat 4 n, dw2 := 1, data := (b ++ List.replicate 31 0).take (32 * n) }

/-- The packets of one message sent in turn. -/
def State.sendPackets (s : State) : List (List Byte) → Sending
  | [] => .sent s
  | p :: r => match s.request s.root.hostNum (packetTxn p) .message with
    | .sent t => t.sendPackets r
    | x => x

/-- The root controller's messages go to the system host adapter; one that finds no tag stays, and with no port it is lost (R24, R39, R277). -/
def State.flushOutbox (s : State) : State :=
  s.outbox.foldl (fun s b => match s.sendPackets (mctpPackets ((b.length + 251) / 252) 0 b) with
    | .sent t => t
    | .noPort => s
    | .full => { s with outbox := s.outbox ++ [b] }) { s with outbox := [] }

/-- What comes before a turn: a cycle passes, what killed teams left is freed, and replies and messages go out. -/
def State.advance (s : State) : State := s.tick.freeLeft.flushReplies.flushOutbox

/-- A step: a cycle passes, and the first turn of the agenda, or the turn that falls due, is taken. -/
def State.takeTurn (s : State) : Out :=
  match s.agenda with
  | t :: rest => (State.advance { s with agenda := rest }).turn t
  | [] => s.advance.defaultTurn

end Sys2Proof.Machine
end

