-- ==== Sys2Proof/Machine/Placing.lean ====
section
/-! DEFINITION. A program placed from outside the machine (log 10): one group of context 0, whose addresses are physical (R52), about to fetch the words of an instruction; or one Sill unit about to fetch a word. -/
namespace Sys2Proof.Machine

/-- Where the launch record and the code of the placed program stand. -/
def placedRecord : Nat := 0x20000
def placedCode : Nat := 0x100000

def placedRef : StrandRef := ⟨⟨0, 0, 0⟩, 0, false⟩

/-- The team of the placed program: one group of 256 vector registers on core 0. -/
def placedTeam : Team where
  ctx := 0
  vteam := 0
  bent := 0
  bpos := 0
  core := 0
  members := [0]
  bx := 0
  bY := 0
  bz := 0
  gx := 1
  gy := 1
  gz := 1
  fused := false
  legacy := false
  streamer := true
  materr := false
  prio := 0
  roles := [⟨1, 256, false⟩]
  nroles := 1
  windows := Vector.replicate 8 ⟨0, 0, false⟩
  base := placedCode
  size := 0x1000
  units := 1
  scratch := []
  full := []
  poison := []
  mbs := Vector.replicate 8 []
  waiters := []
  tokens := Vector.replicate 64 0
  spillbase := 0
  stackIdx := [0]
  inited := 0
  home := Vector.replicate 32 none
  keptBins := []
  keptConvs := []
  keptRun := none
  keptPasses := []
  children := []
  leftMax := 0
  frozen := []
  groups := []

/-- The bent and the grid of the placed program. -/
def placedBent : Bent := ⟨0, placedRecord, 0, none, .run, 0, 0, 0, 0, 0, none, [], [], false, none⟩
def placedGrid : Grid := ⟨placedRecord, 0, 0, .queue 0, none, 0, [], [], false, false⟩

/-- Code bounds in the launch record, and the words at the entry: twenty bytes, the longest instruction. -/
def State.placeCode (s : State) (w : Nat) : State :=
  { s with mem := memWrite (memWrite (memWrite s.mem (placedRecord + 128) (leBytes placedCode 8)) (placedRecord + 136) (leBytes 0x1000 4)) placedCode (leBytes w 20) }

/-- A Yalhel program placed: its group is resident and its strand's turn comes next. -/
def State.placeYalhel (s : State) (w : Nat) : State :=
  let g := Group.start placedTeam 0 0 256 placedCode placedTeam.lanes Lanes.zero Lanes.zero s.cycle
  { s.placeCode w with
    root := { s.root with phase := .running }
    teams := [{ placedTeam with groups := [g] }]
    bents := [placedBent]
    grids := [placedGrid]
    agenda := [.issue placedRef] }

/-- The home atom of a placed Sill run, in bank 0 of stack 0. -/
def placedAtom : Nat := 0x300000

/-- The unit of a placed Sill run, at the word to fetch, in bank 0. -/
def placedUnit : SillUnit where
  run := 0
  wave := 0
  bank := 0
  atoms := [placedAtom]
  inPrologue := false
  pc := 0
  z := Vector.replicate 8 0
  zStart := Vector.replicate 8 0
  buf := []
  rest := []
  miss := 0
  replayed := false

def placedRun (w : Nat) : SillRun where
  id := 0
  ctx := 0
  origin := .packet 0
  words := [BitVec.ofNat 32 w]
  rbase := placedAtom
  rlen := 32
  pages := [(placedAtom, placedAtom)]
  q := Vector.replicate 16 0
  acqsc := 0
  relsc := 0
  acqw := none
  sigaddr := 0
  sigval := 0
  muted := false
  stage := .running
  startAt := 0

/-- A Sill program placed: a unit of stack 0 is at work and its turn comes next. -/
def State.placeSill (s : State) (w : Nat) : State :=
  { s with
    root := { s.root with phase := .running }
    runs := [placedRun w]
    stackCtls := vmod s.stackCtls 0 fun _ => ⟨[0], 0, some placedUnit⟩
    agenda := [.sill 0] }

/-- A program of one instruction placed from outside the machine, which the next step fetches. -/
def State.placeWord (s : State) (w : Nat) : State := if sillFirst w then s.placeSill w else s.placeYalhel w

end Sys2Proof.Machine
end

