-- ==== Sys2Proof/Machine/Step.lean ====
section
/-! DEFINITION. The step of the machine, and a program of one instruction placed where the next step fetches. -/
namespace Sys2Proof.Machine

/-- One step (log 3): a turn of the agenda, or the turn that falls due. -/
def step (s : State) : Host.Outcome State Fault Refusal := s.takeTurn

/-- The state with one instruction placed where the next step fetches (log 10). -/
def State.withFetchWord (s : State) (_nbits w : Nat) : State := s.placeWord w

end Sys2Proof.Machine
end

