-- ==== Sys2Proof/Safety.lean ====
section
/-! DEFINITION. What counts as a safe step, and the terms in which the statements speak: an instruction that issues, the registers and the rest of the state before and after, and the canonical form of every memory. -/
namespace Sys2Proof
open Machine

/-- A step that neither faults nor is refused. -/
def SafeStep (s : State) : Prop := ∃ t, step s = .next t

/-! ### An instruction that issues -/

/-- No registers but those that the fields name. -/
def noMore (_ : State) (_ : Iss) : Uses := {}

/-- The strand whose turn it is issues the instruction: it is live in a resident group, nothing holds the instruction (R137, R149), and it passes the checks of R317. s' is the state once the window operand is read, i the instruction as it issues. -/
def IssuesWith (more : State → Iss → Uses) (s : State) (x : Enc) (s' : State) (i : Iss) : Prop :=
  ∃ r j, s.cur = some r ∧ s.iss? r x = some j ∧ j.held ((Enc.uses x).join (more s j)) = none ∧
    s.checked j ((Enc.uses x).join (more s j)) = .ok s' i

/-- As IssuesWith, with the registers that the fields name. -/
def Issues (s : State) (x : Enc) (s' : State) (i : Iss) : Prop := IssuesWith noMore s x s' i

/-! ### Registers of a group -/

/-- A lane of a vector register (R120). -/
def vlane (g : Group) (k l : Nat) : Word := (g.v.getD k Lanes.zero).toArray.getD l 0

/-- A predicate's bit for a lane (R124). -/
def plane (g : Group) (k l : Nat) : Bool := (g.p.getD k 0).getLsbD l

/-- A scalar as a strand names it: 144 to 155 are the supervisor registers in the handler strand, 156 to 159 the strand's own (R122, R273). -/
def scalarOf (g : Group) (num k : Nat) : DWord :=
  if k = 0 then 0
  else if num = handlerSid ∧ 144 ≤ k ∧ k < 156 then g.sup.getD (k - 144) 0
  else if k < 156 then g.s.getD k 0
  else (g.strand num).priv.getD (k - 156) 0

/-- A lane of `$seed` (R244). -/
def seedLane (g : Group) (l : Nat) : Word := g.seed.toArray.getD l 0

/-- What a list of writes leaves in a place: its last write there. -/
def lastOf {α : Type} (xs : List (Nat × α)) (k : Nat) : Option α := xs.foldl (fun r x => if x.1 = k then some x.2 else r) none

/-- Every register after an instruction: what it writes, in the lanes of a mask where it writes lanes, and everything else as before. p0 and s0 discard what is written to them (R122, R124). -/
structure RegsAfter (g g' : Group) (num : Nat) (m : Mask) (o : RegOut) : Prop where
  v : ∀ k < 256, ∀ l < 32, vlane g' k l =
    if m.getLsbD l then ((lastOf o.v k).map fun x => x.toArray.getD l 0).getD (vlane g k l) else vlane g k l
  p : ∀ k < 8, ∀ l < 32, plane g' k l =
    if m.getLsbD l ∧ k ≠ 0 then ((lastOf o.p k).map fun (x : Mask) => x.getLsbD l).getD (plane g k l) else plane g k l
  s : ∀ k < 160, scalarOf g' num k = if k = 0 then 0 else (lastOf o.s k).getD (scalarOf g num k)
  seed : ∀ l < 32, seedLane g' l = if m.getLsbD l then (o.seed.map fun x => x.toArray.getD l 0).getD (seedLane g l) else seedLane g l

/-! ### The rest of the state -/

/-- The fields of a strand that only its own control transfers change. -/
structure SameStrand (a b : Strand) : Prop where
  valid : b.valid = a.valid
  mask : b.mask = a.mask
  taken : b.taken = a.taken
  order : b.order = a.order
  arm : b.arm = a.arm
  parent : b.parent = a.parent
  folds : b.folds = a.folds
  evn : b.evn = a.evn
  vset : b.vset = a.vset
  pset : b.pset = a.pset

/-- A strand that an instruction of another strand leaves alone. -/
structure SameOther (a b : Strand) : Prop extends SameStrand a b where
  pc : b.pc = a.pc
  state : b.state = a.state
  park : b.park = a.park
  priv : b.priv = a.priv

/-- What an instruction that only computes leaves of its group: the supervisor registers that it cannot name, slides, event slots, fold records, the fault record and the trap, the store buffer and its acknowledgements, loads and results in flight, marks, the lanes that have left, and every other strand. -/
structure SameGroup (g g' : Group) (num : Nat) : Prop where
  sup : num ≠ handlerSid → g'.sup = g.sup
  shadowed : num = handlerSid → ∀ k, 144 ≤ k → k < 156 → g'.s.getD k 0 = g.s.getD k 0
  slides : g'.slides = g.slides
  events : g'.events = g.events
  pe : g'.pe = g.pe
  em : g'.em = g.em
  folds : g'.folds = g.folds
  record : g'.record = g.record
  trap : g'.trap = g.trap
  repc : g'.repc = g.repc
  sb : g'.sb = g.sb
  acks : g'.acks = g.acks
  wmax : g'.wmax = g.wmax
  rt : g'.rt = g.rt
  omax : g'.omax = g.omax
  loads : (g'.loads.map fun l => { l with issuedAfter := 0 }) = g.loads.map fun l => { l with issuedAfter := 0 }
  marks : g'.marks = g.marks
  gone : g'.gone = g.gone
  ended : g'.ended = g.ended
  own : SameStrand (g.strand num) (g'.strand num)
  others : ∀ k ≤ handlerSid, k ≠ num → SameOther (g.strand k) (g'.strand k)

/-- A team but for its groups. -/
def Team.sansGroups (t : Team) : Team := { t with groups := [] }

/-- What an instruction that changes nothing but its own group leaves: all of device memory, contexts, bents, grids, host queues' work, cores but for the energy they count, every team and its scratch, and every other group. -/
structure SameElsewhere (s t : State) (r : GroupRef) : Prop where
  mem : t.mem = s.mem
  ctxs : t.ctxs = s.ctxs
  bents : t.bents = s.bents
  grids : t.grids = s.grids
  works : t.works = s.works
  dcb : t.dcb = s.dcb
  mcb : t.mcb = s.mcb
  engines : t.engines = s.engines
  runs : t.runs = s.runs
  cores : ∀ k, { t.core k with energy := [] } = { s.core k with energy := [] }
  teams : ∀ c v, (t.team? c v).map Team.sansGroups = (s.team? c v).map Team.sansGroups
  groups : ∀ q, q ≠ r → t.group? q = s.group? q

/-- The strand stands at an address and may issue (R127, R304). -/
def GoesOn (g : Group) (num : Nat) (pc : DWord) : Prop := (g.strand num).pc = pc ∧ (g.strand num).state = .ready

/-- An instruction completes: the step answers a next state in which its registers hold what it writes, its strand stands at an address, and nothing else has changed. -/
def Completes (c : Instr) (s s' : State) (i : Iss) (pc : DWord) (m : Mask) (o : RegOut) : Prop :=
  ∃ t g', exec c s = .next t ∧ t.group? i.r.g = some g' ∧ RegsAfter i.g g' i.r.num m o ∧
    (g'.longs.map fun l => { l with issuedAfter := 0 }) = (i.g.longs.map fun l => { l with issuedAfter := 0 }) ∧
    GoesOn g' i.r.num pc ∧ SameGroup i.g g' i.r.num ∧ SameElsewhere s' t i.r.g

/-- As Completes, for results written in two parts, the second after the first. -/
def CompletesTwice (c : Instr) (s s' : State) (i : Iss) (m₁ : Mask) (o₁ : RegOut) (m₂ : Mask) (o₂ : RegOut) : Prop :=
  ∃ t g₁ g', exec c s = .next t ∧ t.group? i.r.g = some g' ∧ RegsAfter i.g g₁ i.r.num m₁ o₁ ∧ RegsAfter g₁ g' i.r.num m₂ o₂ ∧
    GoesOn g' i.r.num i.nextPc ∧ SameGroup i.g g' i.r.num ∧ SameElsewhere s' t i.r.g

/-- A long-latency instruction issues (R149): its results stand in flight, no register has changed yet, and its strand goes on. -/
def GoesInFlight (c : Instr) (s s' : State) (i : Iss) (writes : List (Nat × Lanes)) : Prop :=
  ∃ t g', exec c s = .next t ∧ t.group? i.r.g = some g' ∧ RegsAfter i.g g' i.r.num 0 {} ∧
    (g'.longs.map fun l => { l with issuedAfter := 0 }) =
      (i.g.longs.map fun l => { l with issuedAfter := 0 }) ++ [⟨i.g.nextId, i.r.num, i.x.la.toNat, 0, i.active, writes⟩] ∧
    GoesOn g' i.r.num i.nextPc ∧ SameGroup i.g g' i.r.num ∧ SameElsewhere s' t i.r.g

/-- The instruction takes a fault or a trap (R272): it has none of its effect. -/
def Traps (c : Instr) (s s' : State) (i : Iss) (t : Trap) : Prop := exec c s = .next (s'.takeTrap i.r t)

/-- The strand ends its attempt to issue and waits (R127): nothing else of its group has changed but what says when it is looked at again. -/
def Waits (c : Instr) (s : State) (i : Iss) : Prop :=
  ∃ t g', exec c s = .next t ∧ t.group? i.r.g = some g' ∧ (g'.strand i.r.num).state = .waiting ∧ (g'.strand i.r.num).pc = i.st.pc

/-- No strand of the machine stands in a barrier wait (R157). -/
def noBarrierWait (s : State) : Bool :=
  let free (t : Team) : Bool := t.groups.all fun g => g.everyone.all fun (_, st) => match st.park with
    | some (.barrier _ _) => false
    | _ => true
  s.teams.all free && s.bents.all fun b => b.saved.all free

end Sys2Proof
end

