-- ==== Sys2Proof/WellFormed.lean ====
section
/-! DEFINITION. Well-formed instructions: words the opcode map lists, with every field inside its kind (R307 to R316, R327, R450). -/
namespace Sys2Proof
open Machine

/-- A Yalhel instruction is well formed when its opcode, form and sub-operation are listed (R327) and no field offends in a group of 256 registers whose windows are not known; a Sill word when it keeps R450 and R452; an event carries no fields. -/
def Instr.wellFormed (i : Instr) : Bool :=
  match i.enc? with
  | some x => (opForms x.op.toNat).contains x.form && subListed x.op.toNat x.sub && (encFault 256 none x).isNone
  | none =>
    match i.sillWord? with
    | some _ => sillOk i none
    | none =>
      match i with
      | .illegalOpcode w w1 => (match decode w w1 0 0 0 with | .ok _ => false | .error _ => true)
      | _ => true

/-- The well-formedness of an instruction as a proposition. -/
def Instr.WellFormed (i : Instr) : Prop := i.wellFormed = true

end Sys2Proof
end

