-- ==== Sys2Proof/Certificates/Slice0/Obligations.lean ====
section
/-! DEFINITION. The statements: what the rules of the spec say that the machine does. -/
namespace Sys2Proof
open Machine

/-! ### Vector integer instructions (R335 to R344) -/

/-- A claim about an instruction that computes registers: its fields, and what it writes. -/
abbrev Claim := Option (Enc × (Iss → RegOut))

/-- A vector result, a pair where the type has 64 bits (R335). -/
def vecClaim (x : Enc) (wide : Bool) (f : Iss → Nat → DWord) : Claim := some (x, fun i => { v := vout wide x.d.toNat (f i) })

/-- A result that one exact integer gives under R336, from the values of the sources. -/
def exactClaim (x : Enc) (f : IntTy → Int → Int → Int) : Claim :=
  let t := Enc.intTy x
  vecClaim x x.is64 fun i l => t.store x.satBit (f t (t.val (i.srcA x.is64 l)) (t.val (i.srcB x.is64 l)))

/-- A result of the bits of the sources (R341, R344). -/
def bitsClaim (x : Enc) (f : DWord → DWord → DWord) : Claim := vecClaim x x.is64 fun i l => f (i.srcA x.is64 l) (i.srcB x.is64 l)

/-- A result on 64 bits or on 32, as the type has them. -/
def byWidth (wide : Bool) (f64 : DWord → DWord) (f32 : Word → Word) (a : DWord) : DWord :=
  if wide then f64 a else (f32 (a.extractLsb' 0 32)).zeroExtend 64

/-- A shift of the bits of source A (R342). -/
def shiftClaim (x : Enc) (f64 : Nat → DWord → DWord) (f32 : Nat → Word → Word) : Claim :=
  vecClaim x x.is64 fun i l => byWidth x.is64 (f64 (i.shiftB l)) (f32 (i.shiftB l)) (i.srcA x.is64 l)

/-- A number from its bits, lowest first. -/
def fromBits (f : Nat → Bool) : DWord := BitVec.ofNat 64 ((List.range 64).foldl (fun n k => n + if f k then 2 ^ k else 0) 0)

/-- What the vector integer and logic instructions write. -/
def integerClaim : Instr → Claim
  | .iadd x => exactClaim (x.enc 0x10) fun _ a b => a + b
  | .iaddExtended x => exactClaim (x.enc 0x10) fun _ a b => a + b
  | .isub x => exactClaim (x.enc 0x11) fun _ a b => a - b
  | .isubExtended x => exactClaim (x.enc 0x11) fun _ a b => a - b
  | .imul x => exactClaim (x.enc 0x12) fun _ a b => a * b
  | .imulExtended x => exactClaim (x.enc 0x12) fun _ a b => a * b
  | .imulh x => exactClaim (x.enc 0x13) fun t a b => (a * b) >>> t.w
  | .imulhExtended x => exactClaim (x.enc 0x13) fun t a b => (a * b) >>> t.w
  | .imad x =>
    let e := x.enc 0x14
    let t := Enc.intTy e
    vecClaim e e.is64 fun i l => t.store e.satBit (t.val (i.srcA e.is64 l) * t.val (i.srcB e.is64 l) + t.val (i.srcC e.is64 l))
  | .imin x => exactClaim (x.enc 0x17) fun _ a b => if a ≤ b then a else b
  | .iminExtended x => exactClaim (x.enc 0x17) fun _ a b => if a ≤ b then a else b
  | .imax x => exactClaim (x.enc 0x18) fun _ a b => if a ≤ b then b else a
  | .imaxExtended x => exactClaim (x.enc 0x18) fun _ a b => if a ≤ b then b else a
  | .iabs x => exactClaim (x.enc 0x19) fun _ a _ => if a < 0 then -a else a
  | .iabsExtended x => exactClaim (x.enc 0x19) fun _ a _ => if a < 0 then -a else a
  | .ineg x => exactClaim (x.enc 0x1A) fun _ a _ => -a
  | .inegExtended x => exactClaim (x.enc 0x1A) fun _ a _ => -a
  | .iaddc x =>
    let e := x.enc 0x1B
    let w := e.width
    let exact (i : Iss) (l : Nat) : Int :=
      let a : Int := (i.srcA e.is64 l).toNat
      let b : Int := (i.srcB e.is64 l).toNat
      let c : Int := if (i.pred e.c.toNat).getLsbD l then 1 else 0
      if e.sub = 0 then a + b + c else a - b - c
    some (e, fun i => { v := vout e.is64 e.d.toNat fun l => BitVec.ofInt 64 (exact i l % 2 ^ w)
                        p := [(e.c.toNat, maskOf fun l => decide (exact i l < 0 ∨ 2 ^ w ≤ exact i l))] })
  | .icmp x =>
    let e := x.enc 0x1C
    let t := Enc.intTy e
    some (e, fun i => { p := [(e.d.toNat, maskOf fun l => intCmp e.sub (t.val (i.srcA e.is64 l)) (t.val (i.srcB e.is64 l)))] })
  | .iset x =>
    let e := x.enc 0x1D
    let t := Enc.intTy e
    vecClaim e false fun i l => (intCmp e.sub (t.val (i.srcA e.is64 l)) (t.val (i.srcB e.is64 l))).toNat
  | .andV x => bitsClaim (x.enc 0x1E) fun a b => fromBits fun k => a.getLsbD k && b.getLsbD k
  | .andVExtended x => bitsClaim (x.enc 0x1E) fun a b => fromBits fun k => a.getLsbD k && b.getLsbD k
  | .orV x => bitsClaim (x.enc 0x1F) fun a b => fromBits fun k => a.getLsbD k || b.getLsbD k
  | .orVExtended x => bitsClaim (x.enc 0x1F) fun a b => fromBits fun k => a.getLsbD k || b.getLsbD k
  | .xorV x => bitsClaim (x.enc 0x20) fun a b => fromBits fun k => a.getLsbD k != b.getLsbD k
  | .xorVExtended x => bitsClaim (x.enc 0x20) fun a b => fromBits fun k => a.getLsbD k != b.getLsbD k
  | .andn x => bitsClaim (x.enc 0x21) fun a b => fromBits fun k => a.getLsbD k && !b.getLsbD k
  | .andnExtended x => bitsClaim (x.enc 0x21) fun a b => fromBits fun k => a.getLsbD k && !b.getLsbD k
  | .notV x => bitsClaim (x.enc 0x22) fun a _ => fromBits fun k => !a.getLsbD k
  | .notVExtended x => bitsClaim (x.enc 0x22) fun a _ => fromBits fun k => !a.getLsbD k
  | .bmix x =>
    let e := x.enc 0x23
    vecClaim e e.is64 fun i l => fromBits fun k =>
      let a := (i.srcA e.is64 l).getLsbD k
      let b := (i.srcB e.is64 l).getLsbD k
      let c := (i.srcC e.is64 l).getLsbD k
      e.w2.getLsbD (a.toNat + 2 * b.toNat + 4 * c.toNat)
  | .shl x => shiftClaim (x.enc 0x24) (fun n a => a <<< n) (fun n a => a <<< n)
  | .shlExtended x => shiftClaim (x.enc 0x24) (fun n a => a <<< n) (fun n a => a <<< n)
  | .shr x => shiftClaim (x.enc 0x25) (fun n a => a >>> n) (fun n a => a >>> n)
  | .shrExtended x => shiftClaim (x.enc 0x25) (fun n a => a >>> n) (fun n a => a >>> n)
  | .sar x => shiftClaim (x.enc 0x26) (fun n a => a.sshiftRight n) (fun n a => a.sshiftRight n)
  | .sarExtended x => shiftClaim (x.enc 0x26) (fun n a => a.sshiftRight n) (fun n a => a.sshiftRight n)
  | .rot x => shiftClaim (x.enc 0x27) (fun n a => a.rotateLeft n) (fun n a => a.rotateLeft n)
  | .rotExtended x => shiftClaim (x.enc 0x27) (fun n a => a.rotateLeft n) (fun n a => a.rotateLeft n)
  | .shf x =>
    let e := x.enc 0x28
    vecClaim e false fun i l =>
      let q : DWord := (i.srcB false l).extractLsb' 0 32 ++ (i.srcA false l).extractLsb' 0 32
      let n := ((i.srcC false l).extractLsb' 0 5).toNat
      if e.sub = 0 then (q <<< n) >>> 32 else q >>> n
  | .popc x => bitsClaim (x.enc 0x29) fun a _ => BitVec.ofNat 64 ((List.range (x.enc 0x29).width).countP fun k => a.getLsbD k)
  | .popcExtended x => bitsClaim (x.enc 0x29) fun a _ => BitVec.ofNat 64 ((List.range (x.enc 0x29).width).countP fun k => a.getLsbD k)
  | .clz x => bitsClaim (x.enc 0x2A) fun a _ => byWidth (x.enc 0x2A).is64 BitVec.clz BitVec.clz a
  | .clzExtended x => bitsClaim (x.enc 0x2A) fun a _ => byWidth (x.enc 0x2A).is64 BitVec.clz BitVec.clz a
  | .brev x => bitsClaim (x.enc 0x2B) fun a _ => byWidth (x.enc 0x2B).is64 BitVec.reverse BitVec.reverse a
  | .brevExtended x => bitsClaim (x.enc 0x2B) fun a _ => byWidth (x.enc 0x2B).is64 BitVec.reverse BitVec.reverse a
  | .bfe x =>
    let e := x.enc 0x2C
    let t := Enc.intTy e
    vecClaim e e.is64 fun i l =>
      let len := min ((i.srcC false l).toNat % 256) t.w
      let f := t.val (i.srcA e.is64 l) / 2 ^ ((i.srcB false l).toNat % 256) % 2 ^ len
      if len = 0 then 0 else BitVec.ofInt 64 ((if t.signed ∧ 2 ^ (len - 1) ≤ f then f - 2 ^ len else f) % 2 ^ t.w)
  | .bfi x =>
    let e := x.enc 0x2D
    vecClaim e e.is64 fun i l =>
      let start := (i.srcC false l).toNat % 256
      let len := (i.srcC false l).toNat / 256 % 256
      fromBits fun k =>
        if start ≤ k ∧ k < start + len ∧ k < e.width then (i.srcA e.is64 l).getLsbD (k - start) else (i.srcB e.is64 l).getLsbD k
  | .selV x =>
    let e := x.enc 0x2E
    vecClaim e e.is64 fun i l => if (i.pred e.c.toNat).getLsbD l then i.srcA e.is64 l else i.srcB e.is64 l
  | .mov x => bitsClaim (x.enc 0x2F) fun a _ => a
  | .movExtended x => bitsClaim (x.enc 0x2F) fun a _ => a
  | .movi x => vecClaim (x.enc 0x30) (x.enc 0x30).is64 fun _ _ => immOf (x.enc 0x30)
  | .lea x => bitsClaim (x.enc 0x31) fun a b => a * 2 ^ (x.enc 0x31).sub + b
  | _ => none

/-! ### Scalar, predicate and status instructions (R345 to R351) -/

/-- A scalar result of a type: 64 bits as they stand, or bits [31:0] extended by the type's sign (R345). -/
def scalarClaim (x : Enc) (f : Iss → DWord) : Claim :=
  some (x, fun i =>
    let v := f i
    { s := [(x.d.toNat, if x.is64 then v else if x.signed then (v.extractLsb' 0 32).signExtend 64 else (v.extractLsb' 0 32).zeroExtend 64)] })

def scalar2Claim (x : Enc) (f : DWord → DWord → DWord) : Claim := scalarClaim x fun i => f (i.scalar x.a) i.scalarB

/-- A scalar shift (R346): the amount is B6 in the S form, else bits [31:0] of B. -/
def scalarShiftClaim (x : Enc) (f64 : Nat → DWord → DWord) (f32 : Nat → Word → Word) : Claim :=
  scalarClaim x fun i =>
    let n := if x.form = .s then x.b6.toNat else (i.scalarB.extractLsb' 0 32).toNat
    byWidth x.is64 (f64 n) (f32 n) (i.scalar x.a)

/-- A predicate result, lane by lane (R350). -/
def predClaim (x : Enc) (f : Bool → Bool → Bool) : Claim :=
  some (x, fun i =>
    let b := i.pred (if x.form = .s then x.b6.toNat else x.b.toNat)
    { p := [(x.d.toNat, maskOf fun l => f ((i.pred x.a.toNat).getLsbD l) (b.getLsbD l))] })

/-- What the scalar, broadcast, vote and predicate instructions write. -/
def scalarPredClaim : Instr → Claim
  | .sadd x => scalar2Claim (x.enc 0x40) fun a b => a + b
  | .saddExtended x => scalar2Claim (x.enc 0x40) fun a b => a + b
  | .ssub x => scalar2Claim (x.enc 0x41) fun a b => a - b
  | .ssubExtended x => scalar2Claim (x.enc 0x41) fun a b => a - b
  | .smul x => scalar2Claim (x.enc 0x42) fun a b => a * b
  | .smulExtended x => scalar2Claim (x.enc 0x42) fun a b => a * b
  | .sand x => scalar2Claim (x.enc 0x43) fun a b => fromBits fun k => a.getLsbD k && b.getLsbD k
  | .sandExtended x => scalar2Claim (x.enc 0x43) fun a b => fromBits fun k => a.getLsbD k && b.getLsbD k
  | .sor x => scalar2Claim (x.enc 0x44) fun a b => fromBits fun k => a.getLsbD k || b.getLsbD k
  | .sorExtended x => scalar2Claim (x.enc 0x44) fun a b => fromBits fun k => a.getLsbD k || b.getLsbD k
  | .sxor x => scalar2Claim (x.enc 0x45) fun a b => fromBits fun k => a.getLsbD k != b.getLsbD k
  | .sxorExtended x => scalar2Claim (x.enc 0x45) fun a b => fromBits fun k => a.getLsbD k != b.getLsbD k
  | .sshl x => scalarShiftClaim (x.enc 0x46) (fun n a => a <<< n) (fun n a => a <<< n)
  | .sshlExtended x => scalarShiftClaim (x.enc 0x46) (fun n a => a <<< n) (fun n a => a <<< n)
  | .sshr x => scalarShiftClaim (x.enc 0x47) (fun n a => a >>> n) (fun n a => a >>> n)
  | .sshrExtended x => scalarShiftClaim (x.enc 0x47) (fun n a => a >>> n) (fun n a => a >>> n)
  | .ssar x => scalarShiftClaim (x.enc 0x48) (fun n a => a.sshiftRight n) (fun n a => a.sshiftRight n)
  | .ssarExtended x => scalarShiftClaim (x.enc 0x48) (fun n a => a.sshiftRight n) (fun n a => a.sshiftRight n)
  | .smov x => scalarClaim (x.enc 0x49) fun i => i.scalar x.a
  | .smovExtended x => scalarClaim (x.enc 0x49) fun i => i.scalar x.a
  | .smovi x => scalarClaim (x.enc 0x4A) fun _ => immOf (x.enc 0x4A)
  | .scmp x =>
    let e := x.enc 0x4B
    let t := Enc.intTy e
    some (e, fun i => { p := [(e.d.toNat, maskOf fun _ => intCmp e.sub (t.val (i.scalar e.a)) (t.val i.scalarB))] })
  | .vbcast x => vecClaim (x.enc 0x4C) false fun i l => i.scalarLane x.a l
  | .vbcastExtended x => vecClaim (x.enc 0x4C) false fun i l => i.scalarLane x.a l
  | .vote x =>
    let e := x.enc 0x4E
    some (e, fun i =>
      let set (l : Nat) : Bool := (i.pred e.a.toNat).getLsbD l
      let ls := lanesOf i.active
      if ls = [] then {}
      else if e.sub = 2 then { s := [(e.d.toNat, fromBits fun k => ls.contains k && set k)] }
      else
        let bit := if e.sub = 0 then ls.all set else if e.sub = 1 then ls.any set else ls.all set || !ls.any set
        { p := [(e.d.toNat, maskOf fun _ => bit)] })
  | .pand x => predClaim (x.enc 0x4F) fun a b => a && b
  | .pandExtended x => predClaim (x.enc 0x4F) fun a b => a && b
  | .por x => predClaim (x.enc 0x50) fun a b => a || b
  | .porExtended x => predClaim (x.enc 0x50) fun a b => a || b
  | .pxor x => predClaim (x.enc 0x51) fun a b => a != b
  | .pxorExtended x => predClaim (x.enc 0x51) fun a b => a != b
  | .pnot x => predClaim (x.enc 0x52) fun a _ => !a
  | .pnotExtended x => predClaim (x.enc 0x52) fun a _ => !a
  | .pmov x => predClaim (x.enc 0x53) fun a _ => a
  | .pmovExtended x => predClaim (x.enc 0x53) fun a _ => a
  | .ppopc x => some (x.enc 0x54, fun i => { s := [((x.enc 0x54).d.toNat, ((lanesOf i.st.mask).countP fun l => (i.pred x.a.toNat).getLsbD l : Nat))] })
  | .ppopcExtended x => some (x.enc 0x54, fun i => { s := [((x.enc 0x54).d.toNat, ((lanesOf i.st.mask).countP fun l => (i.pred x.a.toNat).getLsbD l : Nat))] })
  | _ => none

/-- Each scalar, broadcast, vote and predicate instruction that issues writes what R345 to R350 give; nothing else changes but its strand's address, which moves past it. -/
def ScalarResultsPart : Prop :=
  ∀ c x f s s' i, scalarPredClaim c = some (x, f) → Issues s x s' i → s.residueMiss ≤ 2 → Completes c s s' i i.nextPc i.active (f i)

/-- READLANE writes zext(vA[lane], 64), of any lane of the group, once no register of that lane is pending or in the write set of an earlier strand that holds it (R348, R137, R149). -/
def ReadLanePart : Prop :=
  ∀ c x s s' i, (∃ y, c = .readlane y ∧ x = y.enc 0x4D) ∨ (∃ y, c = .readlaneExtended y ∧ x = y.enc 0x4D) → Issues s x s' i → s.residueMiss ≤ 2 →
    let lane := if x.form = .s then x.b6.toNat else i.scalarB.toNat % 32
    i.g.setHolds i.st { rv := [x.a.toNat], lanes := laneBit lane } = false →
    Uses.touches { rv := [x.a.toNat], lanes := laneBit lane } (i.g.pendingFor i.r.num (laneBit lane)) = false →
    Completes c s s' i i.nextPc i.active { s := [(x.d.toNat, (vlane i.g x.a.toNat lane).zeroExtend 64)] }

/-! ### Floating-point, conversion and block instructions (R362 to R377) -/

/-- A binary32 result of each lane; SR steps the seed once (R364). -/
def floatClaim (x : Enc) (f : Iss → Nat → Nat) : Claim :=
  some (x, fun i => { v := [(x.d.toNat, lanesFn fun l => BitVec.ofNat 32 (f i l))], seed := i.seeds 1 })

/-- A binary32 result of an exact one rounded once, with the lane's first draw (R364, R365). -/
def roundedClaim (x : Enc) (f : RMode → Iss → Nat → Machine.Num) : Claim := floatClaim x fun i l => ffF32.round (Enc.mode x) (f (Enc.mode x) i l) (i.draw l 0)

/-- Two 16-bit results, each rounded once, with the lane's first draw for element 0 and its second for element 1 (R364, R369). -/
def packedClaim (x : Enc) (f : RMode → Machine.Num → Machine.Num → Machine.Num → Machine.Num) : Claim :=
  some (x, fun i =>
    let ff := if x.sub = 0 then ffF16 else ffBF16
    let elem (l j : Nat) : BitVec 16 :=
      let part (a : DWord) : Machine.Num := ff.decode (a.extractLsb' (16 * j) 16).toNat
      BitVec.ofNat 16 (ff.round (Enc.mode x) (f (Enc.mode x) (part (i.srcA false l)) (part (i.srcB false l)) (part (i.srcC false l))) (i.draw l j))
    { v := [(x.d.toNat, lanesFn fun l => elem l 1 ++ elem l 0)], seed := i.seeds 2 })

/-- A binary64 result rounded once (R370). -/
def doubleClaim (x : Enc) (f : RMode → Machine.Num → Machine.Num → Machine.Num → Machine.Num) : Claim :=
  some (x, fun i =>
    let r (l : Nat) : DWord := BitVec.ofNat 64 (ffF64.round (Enc.mode x)
      (f (Enc.mode x) (ffF64.decode (i.srcA true l).toNat) (ffF64.decode (i.srcB true l).toNat) (ffF64.decode (i.srcC true l).toNat)) 0)
    { v := [(x.d.toNat, lanesFn fun l => (r l).extractLsb' 0 32), (x.d.toNat + 1, lanesFn fun l => (r l).extractLsb' 32 32)] })

/-- The sign bit of a 32-bit source replaced; a NaN gives the canonical NaN (R236, R365). -/
def signClaim (x : Enc) (f : Bool → Bool) : Claim :=
  some (x, fun i =>
    let result (a : Word) : Word :=
      if a.extractLsb' 23 8 = 0xFF#8 ∧ a.extractLsb' 0 23 ≠ 0 then 0x7FC00000#32 else BitVec.ofBool (f a.msb) ++ a.extractLsb' 0 31
    { v := [(x.d.toNat, lanesFn fun l => result ((i.srcA false l).extractLsb' 0 32))], seed := i.seeds 1 })

/-- What the floating-point instructions of one step write. -/
def floatsClaim : Instr → Claim
  | .fadd x => roundedClaim (x.enc 0x60) fun m i l => Machine.Num.add m (i.fa ffF32 l) (i.fb ffF32 l)
  | .faddExtended x => roundedClaim (x.enc 0x60) fun m i l => Machine.Num.add m (i.fa ffF32 l) (i.fb ffF32 l)
  | .fsub x => roundedClaim (x.enc 0x61) fun m i l => Machine.Num.add m (i.fa ffF32 l) (i.fb ffF32 l).negate
  | .fsubExtended x => roundedClaim (x.enc 0x61) fun m i l => Machine.Num.add m (i.fa ffF32 l) (i.fb ffF32 l).negate
  | .fmul x => roundedClaim (x.enc 0x62) fun _ i l => (i.fa ffF32 l).mul (i.fb ffF32 l)
  | .fmulExtended x => roundedClaim (x.enc 0x62) fun _ i l => (i.fa ffF32 l).mul (i.fb ffF32 l)
  | .ffma x => roundedClaim (x.enc 0x63) fun m i l => Machine.Num.fma m (i.fa ffF32 l) (i.fb ffF32 l) (i.fc ffF32 l)
  | .fmin x => floatClaim (x.enc 0x64) fun i l => ffF32.minmax false (i.srcA false l).toNat (i.srcB false l).toNat
  | .fminExtended x => floatClaim (x.enc 0x64) fun i l => ffF32.minmax false (i.srcA false l).toNat (i.srcB false l).toNat
  | .fmax x => floatClaim (x.enc 0x65) fun i l => ffF32.minmax true (i.srcA false l).toNat (i.srcB false l).toNat
  | .fmaxExtended x => floatClaim (x.enc 0x65) fun i l => ffF32.minmax true (i.srcA false l).toNat (i.srcB false l).toNat
  | .fabs x => signClaim (x.enc 0x66) fun _ => false
  | .fabsExtended x => signClaim (x.enc 0x66) fun _ => false
  | .fneg x => signClaim (x.enc 0x67) fun s => !s
  | .fnegExtended x => signClaim (x.enc 0x67) fun s => !s
  | .fcmp x =>
    let e := x.enc 0x68
    some (e, fun i => { p := [(e.d.toNat, maskOf fun l => Machine.Num.fcmp e.sub (i.fa ffF32 l) (i.fb ffF32 l))] })
  | .fset x =>
    let e := x.enc 0x69
    floatClaim e fun i l => if Machine.Num.fcmp e.sub (i.fa ffF32 l) (i.fb ffF32 l) then 0x3F800000 else 0
  | .frnd x => floatClaim (x.enc 0x6A) fun i l => frnd (Enc.mode (x.enc 0x6A)) (i.srcA false l).toNat
  | .frndExtended x => floatClaim (x.enc 0x6A) fun i l => frnd (Enc.mode (x.enc 0x6A)) (i.srcA false l).toNat
  | .fscale x => floatClaim (x.enc 0x6B) fun i l => fscale (Enc.mode (x.enc 0x6B)) (i.srcA false l).toNat ((i.srcB false l).extractLsb' 0 32).toInt
  | .fscaleExtended x => floatClaim (x.enc 0x6B) fun i l => fscale (Enc.mode (x.enc 0x6B)) (i.srcA false l).toNat ((i.srcB false l).extractLsb' 0 32).toInt
  | .hadd2 x => packedClaim (x.enc 0x6C) fun m a b _ => Machine.Num.add m a b
  | .hadd2Extended x => packedClaim (x.enc 0x6C) fun m a b _ => Machine.Num.add m a b
  | .hmul2 x => packedClaim (x.enc 0x6D) fun _ a b _ => a.mul b
  | .hmul2Extended x => packedClaim (x.enc 0x6D) fun _ a b _ => a.mul b
  | .hfma2 x => packedClaim (x.enc 0x6E) fun m a b c => Machine.Num.fma m a b c
  | .dadd x => doubleClaim (x.enc 0x6F) fun m a b _ => Machine.Num.add m a b
  | .daddExtended x => doubleClaim (x.enc 0x6F) fun m a b _ => Machine.Num.add m a b
  | .dmul x => doubleClaim (x.enc 0x70) fun _ a b _ => a.mul b
  | .dmulExtended x => doubleClaim (x.enc 0x70) fun _ a b _ => a.mul b
  | .dfma x => doubleClaim (x.enc 0x71) fun m a b c => Machine.Num.fma m a b c
  | .bscale x => floatClaim (x.enc 0x7B) fun i l => bscale (Enc.mode (x.enc 0x7B)) (i.srcA false l).toNat ((i.srcB false l).extractLsb' 0 8)
  | .bunpack x =>
    let e := x.enc 0x7D
    floatClaim e fun i l =>
      let a := e.a.toNat
      let k := (i.srcB false l).toNat % 32
      let word := vlane i.g (a + k / 8) l
      let scale := (vlane i.g (a + 4) l).extractLsb' 0 8
      ffF32.round .rn (blockValue scale ((word >>> (4 * (k % 8))).extractLsb' 0 4)) 0
  | _ => none

/-! ### Lane exchange, reductions, scans and JOIN (R135, R378 to R383) -/

/-- What a lane takes from another lane: its value of source A where that lane is active, else its own destination with FILL and 0 without (R378). -/
def exchangeClaim (x : Enc) (vec : Bool) (src : Bool → Nat → Nat → Int) : Claim :=
  vecClaim x x.is64 fun i l =>
    let j := src i.t.legacy l (i.shuffleArg vec l)
    if 0 ≤ j ∧ j ≤ 31 ∧ i.active.getLsbD j.toNat then i.srcA x.is64 j.toNat
    else if x.fill then i.vop x.is64 x.d.toNat l else 0

/-- The values of the lanes of a mask in order of lanes. -/
def valuesIn (m : Mask) (a : Nat → DWord) : List DWord := ((List.range 32).filter fun l => m.getLsbD l).map a

/-- Adjacent values combined, five times over (R382). -/
def pairTree (f : DWord → DWord → DWord) (a : Nat → DWord) : DWord :=
  let level (b : Nat → DWord) (k : Nat) : DWord := f (b (2 * k)) (b (2 * k + 1))
  level (level (level (level (level a)))) 0

/-- Values combined in their order; the identity for none (R382, R383). -/
def inOrder (t : RedTy) (k : Nat) (vs : List DWord) : DWord :=
  match vs with
  | [] => t.canon (t.identity k)
  | v :: r => t.canon (r.foldl (t.op k) v)

/-- What the exchanges, reductions, scans and joins write. -/
def exchangesClaim : Instr → Claim
  | .shfl x => exchangeClaim (x.enc 0x90) true fun _ _ j => j
  | .shflExtended x => exchangeClaim (x.enc 0x90) true fun _ _ j => j
  | .shflx x => exchangeClaim (x.enc 0x91) false fun legacy l m => (l ^^^ (m % (if legacy then 16 else 32)) : Nat)
  | .shflxExtended x => exchangeClaim (x.enc 0x91) false fun legacy l m => (l ^^^ (m % (if legacy then 16 else 32)) : Nat)
  | .shflup x => exchangeClaim (x.enc 0x92) false fun _ l n => (l : Int) - n
  | .shflupExtended x => exchangeClaim (x.enc 0x92) false fun _ l n => (l : Int) - n
  | .shfldn x => exchangeClaim (x.enc 0x93) false fun _ l n => (l : Int) + n
  | .shfldnExtended x => exchangeClaim (x.enc 0x93) false fun _ l n => (l : Int) + n
  | .lred x =>
    let e := x.enc 0x95
    let t := Enc.redTy e
    vecClaim e e.is64 fun i _ =>
      match t, e.sub with
      | .flt f, 0 => pairTree (t.op 0) fun l => if i.active.getLsbD l then i.srcA e.is64 l else (RedTy.flt f).identity 0
      | _, k => inOrder t k (valuesIn i.active (i.srcA e.is64))
  | .lscan x =>
    let e := x.enc 0x96
    vecClaim e e.is64 fun i l =>
      let upTo : Mask := i.active &&& (if 8 ≤ e.sub then (1#32 <<< l) - 1 else (2#32 <<< l) - 1)
      inOrder (Enc.redTy e) (e.sub % 8) (valuesIn upTo (i.srcA e.is64))
  | .join x => some (x.enc 0x04, fun i => { v := [(x.d.toNat, lanesFn fun l => if i.st.taken.getLsbD l then vlane i.g x.a.toNat l else vlane i.g x.b6.toNat l)] })
  | .joinExtended x =>
    let e := x.enc 0x04
    some (e, fun i => { v := [(e.d.toNat, lanesFn fun l => if i.st.taken.getLsbD l then vlane i.g e.a.toNat l else vlane i.g (e.w1.extractLsb' 0 8).toNat l)] })
  | _ => none

/-- Each lane exchange, reduction, scan and join that issues writes, in the active lanes, what R378 to R383 and R135 give; nothing else changes but its strand's address, which moves past it. -/
def ExchangeResultsPart : Prop :=
  ∀ c x f s s' i, exchangesClaim c = some (x, f) → Issues s x s' i → s.residueMiss ≤ 2 → Completes c s s' i i.nextPc i.active (f i)

/-- The registers that BFLY also reads or writes: both are read and written (R381). -/
def bflyMore (_ : State) (i : Iss) : Uses := (Kind.reads (fieldKinds i.x).d i.x.d.toNat).join (Kind.writes (fieldKinds i.x).a i.x.a.toNat)

/-- BFLY exchanges between lanes a distance apart (R381): the lanes below take vD of the lane above into vA, then the lanes above take vA of the lane below into vD; a distance that is no power of two up to 16, or 8 in a legacy group, raises ILLENC with that distance. -/
def ButterflyPart : Prop :=
  ∀ c x s s' i, (∃ y, c = .bfly y ∧ x = y.enc 0x94) ∨ (∃ y, c = .bflyExtended y ∧ x = y.enc 0x94) → IssuesWith bflyMore s x s' i → s.residueMiss ≤ 2 →
    let dist (l : Nat) : Nat := i.shuffleArg false l
    let legal (d : Nat) : Prop := d = 1 ∨ d = 2 ∨ d = 4 ∨ d = 8 ∨ (d = 16 ∧ i.t.legacy = false)
    let read : List Nat := lanesOf (if i.active = 0 then i.st.mask else i.active)
    let below : Mask := maskOf fun l => l &&& dist l = 0
    let old (k l : Nat) : DWord := i.vop x.is64 k l
    let got (k own l : Nat) (j : Int) : DWord :=
      if 0 ≤ j ∧ j ≤ 31 ∧ i.active.getLsbD j.toNat then old k j.toNat else if x.fill then old own l else 0
    ((∀ l ∈ read, legal (dist l)) →
      CompletesTwice c s s' i (i.active &&& below) { v := vout x.is64 x.a.toNat fun l => got x.d.toNat x.a.toNat l (l + dist l) }
        (i.active &&& ~~~below) { v := vout x.is64 x.d.toNat fun l => got x.a.toNat x.d.toNat l (l - dist l) }) ∧
    (∀ l, read.find? (fun l => !decide (legal (dist l))) = some l → Traps c s s' i { cause := 0x02#8, detail := dist l % 256, la := x.la })

/-- The lanes of a mask that a test picks, as a lane fault records them (R270, R271). -/
def laneFault (m : Mask) (bad : Nat → Bool) : Trap :=
  let ls := (lanesOf m).filter bad
  { cause := laneCauseCode laneCvt, lanes := maskOf fun l => ls.contains l
    lcause := ls.foldl (fun a l => a ||| BitVec.ofNat 128 laneCvt <<< (4 * l)) 0 }

/-- CVT writes the converted element and its flag in the active lanes, and a lane that its overflow policy traps raises a lane fault with nothing written (R270, R373, R374). -/
def ConvertPart : Prop :=
  ∀ y s s' i, let x := y.enc 0x7A
    Issues s x s' i → s.residueMiss ≤ 2 →
    let target := (Fmt.ofCode (x.c.extractLsb' 0 4)).getD .f32
    let source := (Fmt.ofCode (x.c.extractLsb' 4 4)).getD .f32
    let r (l : Nat) : Conv := target.conv (Enc.mode x) (Ovp.ofCode x.ovp) (source.decode (i.srcA (source.bits = 64) l).toNat) (i.draw l 0)
    ((∀ l < 32, i.active.getLsbD l → (r l).trap = false) →
      Completes (.cvt y) s s' i i.nextPc i.active
        { v := vout (target.bits = 64) x.d.toNat fun l => BitVec.ofNat 64 (r l).code, p := [(x.b.toNat, maskOf fun l => (r l).flag)], seed := i.seeds 1 }) ∧
    ((∃ l < 32, i.active.getLsbD l ∧ (r l).trap = true) → Traps (.cvt y) s s' i { laneFault i.active (fun l => (r l).trap) with la := x.la })

/-- BPACK writes the codes and the scale of the block of its strand's lanes to the active lanes and each lane's flag to every lane of the strand (R375); a lane that overflows under the trapping policy raises a lane fault with nothing written; with no active lane nothing is written. -/
def BlockPackPart : Prop :=
  ∀ y s s' i, let x := y.enc 0x7C
    Issues s x s' i → s.residueMiss ≤ 2 →
    let bad (l : Nat) : Bool := decide (Ovp.ofCode x.ovp = .trap) && i.block.overflowed.getD l false
    let code (j l : Nat) : BitVec 4 := i.block.codes.getD (8 * j + l) 0#4
    let word (j : Nat) : Word := code j 7 ++ code j 6 ++ code j 5 ++ code j 4 ++ code j 3 ++ code j 2 ++ code j 1 ++ code j 0
    (i.active = 0 → Completes (.bpack y) s s' i i.nextPc 0 {}) ∧
    (i.active ≠ 0 → (∀ l < 32, i.lanesIn.getLsbD l → bad l = false) →
      CompletesTwice (.bpack y) s s' i i.active
        { v := [(x.d.toNat, .splat (word 0)), (x.d.toNat + 1, .splat (word 1)), (x.d.toNat + 2, .splat (word 2)), (x.d.toNat + 3, .splat (word 3)),
                (x.d.toNat + 4, .splat (i.block.scale.zeroExtend 32))] }
        i.lanesIn { p := [(x.b.toNat, maskOf fun l => i.block.flags.getD l false)], seed := i.seeds 1 }) ∧
    (i.active ≠ 0 → (∃ l < 32, i.lanesIn.getLsbD l ∧ bad l = true) → Traps (.bpack y) s s' i { laneFault i.lanesIn bad with la := x.la })

/-! ### Long-latency arithmetic (R149, R338, R371, R372) -/

/-- What the long-latency arithmetic instructions write when their results are there: registers and values by lane. -/
def longClaim : Instr → Option (Enc × (Iss → List (Nat × Lanes)))
  | .idiv x =>
    let e := x.enc 0x15
    let t := Enc.intTy e
    some (e, fun i => vout e.is64 e.d.toNat fun l =>
      let a := t.val (i.srcA e.is64 l)
      let b := t.val (i.srcB e.is64 l)
      t.store e.satBit (if b = 0 then (if t.signed then -1 else t.hi) else a.tdiv b))
  | .irem x =>
    let e := x.enc 0x16
    let t := Enc.intTy e
    some (e, fun i => vout e.is64 e.d.toNat fun l =>
      let a := t.val (i.srcA e.is64 l)
      let b := t.val (i.srcB e.is64 l)
      t.store false (a.tmod b))
  | .frcp x => special 0x72 x .rcp
  | .frsq x => special 0x73 x .rsq
  | .fsqrt x => special 0x74 x .sqrt
  | .fexp2 x => special 0x75 x .exp2
  | .flog2 x => special 0x76 x .log2
  | .fsin x => special 0x77 x .sin
  | .fcos x => special 0x78 x .cos
  | .ftanh x => special 0x79 x .tanh
  | _ => none
where
  special (op : BitVec 8) (x : XForm) (f : SpFn) : Option (Enc × (Iss → List (Nat × Lanes))) :=
    some (x.enc op, fun i => [((x.enc op).d.toNat, lanesFn fun l => f.eval ((i.srcA false l).extractLsb' 0 32))])

/-! ### Control registers (R276, R351) -/

/-- The value of a control register that GETSR reads; DBGSTOP cannot be read (R276). -/
def controlValue (s : State) (i : Iss) : Nat → Option DWord
  | 0x00 => some (s.core i.t.core).fairint
  | 0x01 => some (s.core i.t.core).wdlog
  | 0x02 => some i.t.spillbase
  | 0x04 => some (s.core i.t.core).bspill
  | 0x08 => some (s.core i.t.core).pffetch
  | 0x09 => some (s.core i.t.core).pfused
  | 0x0A => some (s.core i.t.core).pftimely
  | 0x0B => some (s.core i.t.core).sbstall
  | 0x0C => some (s.core i.t.core).coissue
  | 0x80 => some (i.t.vteam.zeroExtend 64)
  | _ => none

/-- GETSR writes the control register it names to its scalar, VTEAM for any group and the others in the handler strand (R276, R351); a read of one that cannot be read writes some value (the model's choice, log 5). -/
def GetControlPart : Prop :=
  ∀ y s s' i, let x := y.enc 0x55
    Issues s x s' i →
    (∀ v, controlValue s' i (x.w2.toNat % 256) = some v → Completes (.getsr y) s s' i i.nextPc i.active { s := [(x.d.toNat, v)] }) ∧
    (controlValue s' i (x.w2.toNat % 256) = none → ∃ v, Completes (.getsr y) s s' i i.nextPc i.active { s := [(x.d.toNat, v)] })

/-- A field of every core. -/
def coreField {α : Type} (f : Core → α) (s : State) : List α := s.cores.toList.map f

/-- A core but for what a write to a control register and the energy count may change. -/
def Machine.Core.sansControl (c : Core) : Core :=
  { c with energy := [], fairint := 0, wdlog := 0, bspill := 0, pffetch := 0, pfused := 0, pftimely := 0, sbstall := 0, coissue := 0 }

/-- The control registers of a core. -/
def Machine.Core.controls (c : Core) : List DWord :=
  [c.fairint, c.wdlog, c.bspill, c.pffetch, c.pfused, c.pftimely, c.sbstall, c.coissue]

/-- SETSR writes the control register it names (R276, R351): FAIRINT and WDLOG within their bounds, SPILLBASE, a counter only to zero; SEED gives every lane of the strand's mask the scalar plus its lane; a DBGSTOP write asks the named groups of the context's team to stop, and a BSPILL write leaves its outcome in BSPILL; registers are as before but for the seed, and the strand goes on. -/
def SetControlPart : Prop :=
  ∀ y s s' i, let x := y.enc 0x56
    Issues s x s' i →
    let n := x.w2.toNat % 256
    let v := i.scalar x.a
    let k := i.t.core
    ∃ t g', exec (.setsr y) s = .next t ∧ t.group? i.r.g = some g' ∧ GoesOn g' i.r.num i.nextPc ∧ SameStrand (i.g.strand i.r.num) (g'.strand i.r.num) ∧
      RegsAfter i.g g' i.r.num i.st.mask (if n = 0x81 then { seed := some (lanesFn fun l => v.extractLsb' 0 32 + BitVec.ofNat 32 l) } else {}) ∧
      (n = 0x00 → coreField (·.controls) t = (coreField (·.controls) s').modify k (·.set 0 (max 64 (min 4096 v.toNat) : Nat))) ∧
      (n = 0x01 → coreField (·.controls) t = (coreField (·.controls) s').modify k (·.set 1 (max 16 (min 40 v.toNat) : Nat))) ∧
      (n = 0x02 → (t.team? i.t.ctx i.t.vteam).map (·.spillbase) = some v ∧ coreField (·.controls) t = coreField (·.controls) s') ∧
      (n = 0x03 → ∀ u h, t.team? i.t.ctx (v.extractLsb' 0 16) = some u → h ∈ u.groups → (v.getLsbD 24 ∨ h.gidx = (v.extractLsb' 16 8).toNat) → h.dbg = true) ∧
      (n = 0x04 → v.extractLsb' 30 34 ≠ 0 → ∀ w, (coreField (·.bspill) t)[k]? = some w → w.extractLsb' 30 2 = 2#2) ∧
      (∀ j < 5, n = 8 + j → coreField (·.controls) t = if v = 0 then (coreField (·.controls) s').modify k (·.set (3 + j) 0) else coreField (·.controls) s') ∧
      (n ≠ 0x04 → t.mem = s'.mem ∧ (∀ q, (t.core q).sansControl = (s'.core q).sansControl) ∧ ∀ q, q ≠ k → (t.core q).controls = (s'.core q).controls)

/-! ### Control transfer (R304, R353 to R357) -/

/-- Where a control transfer goes, and what it writes. -/
def transferClaim : Instr → Option (Enc × (Iss → DWord × RegOut))
  | .nop x => some (x.enc 0x00, fun i => (i.nextPc, {}))
  | .nopExtended x => some (x.enc 0x00, fun i => (i.nextPc, {}))
  | .bra x => some (x.enc 0x01, fun i =>
      (if ((lanesOf i.st.mask).head?.any fun l => i.active.getLsbD l) then i.target else i.nextPc, {}))
  | .callSub x => some (x.enc 0x06, fun i => (i.target, { s := [(159, i.nextPc)] }))
  | .ret x => some (x.enc 0x07, fun i => ((i.scalar 159).extractLsb' 2 62 ++ 0#2, {}))
  | .loopTo x => some (x.enc 0x08, fun i => (if i.scalar (x.enc 0x08).a = 1 then i.nextPc else i.target, { s := [((x.enc 0x08).a.toNat, i.scalar (x.enc 0x08).a - 1)] }))
  | .yieldStrand x => some (x.enc 0x0B, fun i => (i.nextPc, {}))
  | _ => none

/-! ### Strands (R129 to R136, R358 to R361) -/

/-- The step answers a next state, of which, and of the group as it stands there, this holds. -/
def Ends (c : Instr) (s : State) (i : Iss) (p : State → Group → Prop) : Prop :=
  ∃ t g', exec c s = .next t ∧ t.group? i.r.g = some g' ∧ p t g'

/-- The store entries of a group but for their strands' positions, from which a collapse of R128 takes digits. -/
def entriesOf (g : Group) : List StoreEntry := g.sb.map fun e => { e with order := [] }

/-- Nothing of a group has changed but its strands with their positions, and fold records. -/
def OnlyStrands (i : Iss) (g' : Group) : Prop :=
  RegsAfter i.g { g' with strands := i.g.strands } i.r.num 0 {} ∧ entriesOf g' = entriesOf i.g ∧
    SameGroup i.g { g' with strands := i.g.strands, folds := i.g.folds, sb := i.g.sb } i.r.num

/-- The arms of a FORK in the order in which it makes them (R129): lanes, address and order digit. -/
def forkArms (i : Iss) : List (Mask × DWord × BitVec 2) :=
  let p := i.pred i.x.a.toNat
  [(i.st.mask &&& p, i.st.pc + (i.x.lit.extractLsb' 0 32).signExtend 64, 0#2), (i.st.mask &&& ~~~p, i.nextPc, 1#2)].filter (·.1 ≠ 0)

/-- The join target of a FORK (R358). -/
def forkJoin (i : Iss) : DWord := i.st.pc + (i.x.lit.extractLsb' 32 32).signExtend 64

/-- The vector registers of a write-set descriptor, those below the group's count (R130). -/
def inDescriptor (ws : List Word) (vregs k : Nat) : Bool := decide (k < vregs) && (ws.getD (k / 32) 0).getLsbD (k % 32)

/-- A write-set descriptor that FORK refuses (R130). -/
def badDescriptor (ws : List Word) : Bool := (ws.getD 8 0).getLsbD 0 || decide (256 ≤ (ws.getD 8 0).toNat)

/-- The first register of a descriptor, vector registers before predicates, that the strand's own write set does not have (R129). -/
def undeclaredOf (i : Iss) (ws : List Word) : Option Nat :=
  if i.hasSet = false then none
  else ((List.range 256).find? fun k => inDescriptor ws i.g.vregs k && !i.curSet.1.getLsbD k).or
    ((List.range 8).find? fun k => (ws.getD 8 0).getLsbD k && !i.curSet.2.getLsbD k)

/-- The strand table after a FORK, but for the collapse of R128: the arms in the lowest free entries, and the strand as the continuation. -/
structure Forked (i : Iss) (ws : List Word) (g1 : Group) : Prop where
  arms : ∀ n < 2, ∀ a, (forkArms i)[n]? = some a →
    let st := g1.strand (i.g.freeEntries.getD n 0)
    st.valid = true ∧ st.state = .ready ∧ st.mask = a.1 ∧ st.pc = a.2.1 ∧ st.order = i.st.order ++ [a.2.2] ∧ st.arm = true ∧ st.taken = 0 ∧ st.folds = 0 ∧
      st.parent = BitVec.ofNat 5 i.r.num ∧ st.priv = i.st.priv ∧ st.pset = (ws.getD 8 0).extractLsb' 0 8 ∧
      ∀ k < 256, st.vset.getLsbD k = inDescriptor ws i.g.vregs k
  own : let st := g1.strand i.r.num
    st.valid = true ∧ st.state = .ready ∧ st.mask = i.st.mask ∧ st.pc = forkJoin i ∧ st.order = i.st.order ++ [2#2] ∧ st.taken = i.st.mask &&& i.pred i.x.a.toNat ∧
      st.arm = i.st.arm ∧ st.folds = i.st.folds ∧ st.vset = i.st.vset ∧ st.pset = i.st.pset ∧ st.priv = i.st.priv
  others : ∀ k ≤ handlerSid, k ≠ i.r.num → (∀ n < (forkArms i).length, k ≠ i.g.freeEntries.getD n 0) → SameOther (i.g.strand k) (g1.strand k)
  folds : g1.folds = i.g.folds

/-- The strand after a FORK that folds (R132): it runs the first arm itself, and a record on the fold stack holds the rest. -/
structure Folded (i : Iss) (ws : List Word) (g' : Group) : Prop where
  record : ∃ f, g'.folds = i.g.folds ++ [f] ∧ f.sid = i.r.num ∧ f.jpc = forkJoin i ∧ f.tmask = i.st.mask &&& i.pred i.x.a.toNat ∧
    f.nmask = i.st.mask &&& ~~~i.pred i.x.a.toNat ∧ f.phase = decide (f.tmask = 0) ∧ f.npc = i.nextPc &&& 0x01FFFFFFFFFFFFFC#64 ∧
    f.fpset = (ws.getD 8 0).extractLsb' 0 8 ∧ ∀ k < 256, f.fvset.getLsbD k = inDescriptor ws i.g.vregs k
  own : let st := g'.strand i.r.num
    let a := (forkArms i).headD (0, i.nextPc, 0)
    st.valid = true ∧ st.state = .ready ∧ st.mask = a.1 ∧ st.pc = a.2.1 ∧ st.folds = i.st.folds + 1 ∧ st.taken = i.st.taken ∧
      st.order = i.st.order ∧ st.arm = i.st.arm ∧ st.vset = i.st.vset ∧ st.pset = i.st.pset ∧ st.priv = i.st.priv
  others : ∀ k ≤ handlerSid, k ≠ i.r.num → SameOther (i.g.strand k) (g'.strand k)

/-- FORK with a legal descriptor inside the strand's own write set and fewer than 15 levels makes its arms and turns the strand into the continuation in one step; without free entries the earliest strand folds and any other waits; a descriptor that is out of place, holds what it may not or names an undeclared register, and a level too many, raise their traps with nothing changed. Nothing else of the group or of the machine changes (R129 to R132, R358). -/
def ForkPart : Prop :=
  ∀ y s s' i s2 ws, let x := XForm.enc 0x02 y
    Issues s x s' i → s'.readSet i 9 [] = .ok s2 ws →
    (badDescriptor ws = true → Traps (.fork y) s s2 i { cause := 0x02#8, detail := x.win, la := x.la }) ∧
    (badDescriptor ws = false → ∀ k, undeclaredOf i ws = some k → Traps (.fork y) s s2 i { cause := 0x0B#8, detail := k, la := x.la }) ∧
    (badDescriptor ws = false → undeclaredOf i ws = none →
      (15 ≤ i.st.order.length + i.st.folds → Traps (.fork y) s s2 i { cause := 0x0D#8, la := x.la }) ∧
      (i.st.order.length + i.st.folds < 15 →
        ((forkArms i).length ≤ i.g.freeEntries.length → Ends (.fork y) s i fun t g' =>
          (∃ g1 : Group, g' = g1.collapse 256 ∧ Forked i ws g1) ∧ OnlyStrands i g' ∧ SameElsewhere s2 t i.r.g) ∧
        (i.g.freeEntries.length < (forkArms i).length → i.g.earliest i.st = true → Ends (.fork y) s i fun t g' =>
          Folded i ws g' ∧ OnlyStrands i g' ∧ SameElsewhere s2 t i.r.g) ∧
        (i.g.freeEntries.length < (forkArms i).length → i.g.earliest i.st = false → Waits (.fork y) s i)))

/-- Whether a write of a strand to a vector register stands in flight (R134). -/
def vInFlight (g : Group) (num k : Nat) : Bool :=
  g.loads.any (fun l => l.sid = num && l.pending.wv.contains k) || g.longs.any (fun l => l.sid = num && l.writes.any (·.1 = k)) ||
    g.failing.any fun f => f.sid = num && f.wv.contains k

/-- Whether a write of a strand to a predicate stands in flight. -/
def pInFlight (g : Group) (num k : Nat) : Bool := g.loads.any fun l => l.sid = num && l.pending.wp.contains k

/-- A strand but for its place, its state and its write set. -/
def Machine.Strand.sansSet (a : Strand) : BitVec 32 × BitVec 32 × List (BitVec 2) × Bool × BitVec 5 × Nat × BitVec 5 :=
  (a.mask, a.taken, a.order, a.arm, a.parent, a.folds, a.evn)

/-- SEAL takes its register out of the strand's current write set, out of the top record while the strand holds fold records, and otherwise out of VSET or PSET as soon as no write of the strand to it is in flight; a strand with neither an arm nor a record is as before. Its strand goes on at once, and nothing else changes (R134, R359). -/
def SealPart : Prop :=
  ∀ c x s s' i, (∃ y, c = .seal y ∧ x = y.enc 0x03) ∨ (∃ y, c = .sealExtended y ∧ x = y.enc 0x03) → Issues s x s' i →
    let k := x.d.toNat
    let isP := decide (x.sub = 1)
    Ends c s i fun t g' =>
      let st := g'.strand i.r.num
      GoesOn g' i.r.num i.nextPc ∧ st.sansSet = i.st.sansSet ∧ OnlyStrands i g' ∧ SameElsewhere s' t i.r.g ∧
      (∀ k ≤ handlerSid, k ≠ i.r.num → SameOther (i.g.strand k) (g'.strand k)) ∧
      (i.st.folds = 0 → g'.folds = i.g.folds) ∧
      (i.st.folds ≠ 0 → st.vset = i.st.vset ∧ st.pset = i.st.pset ∧ ∀ f, i.topFold = some f →
        ∃ f', (g'.folds.filter (·.sid = i.r.num)).getLast? = some f' ∧ { f' with fvset := f.fvset, fpset := f.fpset } = f ∧
          (∀ r < 256, f'.fvset.getLsbD r = (f.fvset.getLsbD r && !(!isP && r = k))) ∧ ∀ r < 8, f'.fpset.getLsbD r = (f.fpset.getLsbD r && !(isP && r = k))) ∧
      (i.st.folds = 0 → i.st.arm = true →
        (∀ r < 256, st.vset.getLsbD r = (i.st.vset.getLsbD r && !((i.st.vseal.getLsbD r || (!isP && r = k)) && !vInFlight i.g i.r.num r))) ∧
        (∀ r < 8, st.pset.getLsbD r = (i.st.pset.getLsbD r && !((i.st.pseal.getLsbD r || (isP && r = k)) && !pInFlight i.g i.r.num r)))) ∧
      (i.st.folds = 0 → i.st.arm = false → st.vset = i.st.vset ∧ st.pset = i.st.pset)

/-- ENDARM of a strand that holds fold records goes on to the not-taken arm of the top record, or, when that has run or has no lane, to its join target with the lanes of both arms and the record popped; of an arm it ends the strand; of any other strand it raises ILLOP (R133). -/
def EndArmPart : Prop :=
  ∀ y s s' i, let x := SForm.enc 0x05 y
    Issues s x s' i →
    (∀ f, i.st.folds ≠ 0 → i.topFold = some f → Ends (.endarm y) s i fun t g' =>
      let st := g'.strand i.r.num
      let other := !f.phase && decide (f.nmask ≠ 0)
      st.state = .ready ∧ st.valid = true ∧ st.order = i.st.order ∧ st.arm = i.st.arm ∧ st.vset = i.st.vset ∧ st.pset = i.st.pset ∧
      (if other then st.mask = f.nmask ∧ st.pc = f.npc ∧ st.folds = i.st.folds ∧ st.taken = i.st.taken ∧
          (g'.folds.filter (·.sid = i.r.num)) = (i.g.folds.filter (·.sid = i.r.num)).dropLast ++ [{ f with phase := true }]
        else st.mask = f.tmask ||| f.nmask ∧ st.pc = f.jpc ∧ st.folds = i.st.folds - 1 ∧ st.taken = f.tmask ∧
          (g'.folds.filter (·.sid = i.r.num)) = (i.g.folds.filter (·.sid = i.r.num)).dropLast) ∧
      (g'.folds.filter (·.sid ≠ i.r.num)) = (i.g.folds.filter (·.sid ≠ i.r.num)) ∧
      (∀ k ≤ handlerSid, k ≠ i.r.num → SameOther (i.g.strand k) (g'.strand k)) ∧ OnlyStrands i g' ∧ SameElsewhere s' t i.r.g) ∧
    (i.st.folds = 0 → i.st.arm = true → noBarrierWait s' = true → Ends (.endarm y) s i fun t g' =>
      (∃ g1 : Group, g' = g1.collapse 256 ∧ (g1.strand i.r.num).state = .ended ∧ SameStrand i.st (g1.strand i.r.num) ∧
        ∀ k ≤ handlerSid, k ≠ i.r.num → SameOther (i.g.strand k) (g1.strand k)) ∧
      g'.folds = i.g.folds ∧ OnlyStrands i g' ∧ SameElsewhere s' t i.r.g) ∧
    (i.st.folds = 0 → i.st.arm = false → Traps (.endarm y) s s' i { cause := 0x01#8, la := x.la })

/-- EXIT of a strand whose group holds no signature of a collecting conversion register, and which is not its group's last, ends it when it holds no fold record: its lanes leave the group, out of the mask of every strand that goes on and out of the held stores of later ones, and a strand of the group without lanes and records ends too; memory, and all of the machine outside its group, is as before where no strand waits at a barrier (R136, R172, R360). -/
def ExitPart : Prop :=
  ∀ y s s' i, let x := SForm.enc 0x09 y
    Issues s x s' i → i.st.folds = 0 → i.g.ended = false →
    (∀ r, s'.signedBy i.t i.g.gidx = some r → Waits (.exitStrand y) s i) ∧
    (s'.signedBy i.t i.g.gidx = none → i.g.gone ||| i.st.mask ≠ 0xFFFFFFFF#32 → noBarrierWait s' = true → Ends (.exitStrand y) s i fun t g' =>
      (∃ g1 : Group, g' = g1.collapse 256 ∧ (g1.strand i.r.num).state = .ended ∧ (g1.strand i.r.num).mask = i.st.mask ∧
        (∀ k < 16, k ≠ i.r.num → (i.g.strand k).valid = true → (i.g.strand k).folds = 0 →
          (g1.strand k).mask = (i.g.strand k).mask &&& ~~~i.st.mask ∧ ((g1.strand k).mask = 0 → (g1.strand k).state = .ended) ∧
          ((g1.strand k).mask ≠ 0 → (g1.strand k).pc = (i.g.strand k).pc ∧ (g1.strand k).state = (i.g.strand k).state)) ∧
        ∀ e ∈ g1.sb, orderBefore i.st.order e.order = true → e.scalar = false → ∀ p ∈ e.parts, p.released = false → i.st.mask.getLsbD p.lane = false) ∧
      g'.gone = i.g.gone ||| i.st.mask ∧ g'.ended = i.g.ended ∧ g'.v = i.g.v ∧ g'.p = i.g.p ∧ g'.s = i.g.s ∧ g'.seed = i.g.seed ∧
      t.mem = s'.mem ∧ t.ctxs = s'.ctxs ∧ t.bents = s'.bents ∧ t.grids = s'.grids ∧ (∀ q, q ≠ i.r.g → t.group? q = s'.group? q)) ∧
    (s'.signedBy i.t i.g.gidx = none → i.g.gone ||| i.st.mask = 0xFFFFFFFF#32 → noBarrierWait s' = true → i.g.longs ≠ [] →
      Ends (.exitStrand y) s i fun t g' => g'.ended = true ∧ g'.gone = 0xFFFFFFFF#32 ∧ t.mem = s'.mem)

/-! ### Threads spawned (R110, R361) -/

/-- No strand of the machine is parked in WAITANY (R165). -/
def noEventWait (s : State) : Bool :=
  let idle (t : Team) : Bool := t.groups.all fun g => g.everyone.all fun (_, st) => match st.park with
    | some (.waitany _ _ _ _) => false
    | _ => true
  s.teams.all idle && s.bents.all fun b => b.saved.all idle

/-- Whether a release that stands before an instruction's effect is over (R217, R218, R220): one that the strand already waits for, else a new one. -/
def releaseOver (i : Iss) (scope : Scope) : Bool :=
  let w := (i.st.rel.filter fun w => !w.fence).getD (i.g.newRelease scope i.active false none)
  (i.g.stepRelease i.r.num w i.t.fused i.time).done

/-- SPAWN of a role that the launch does not spawn raises ILLENC with the role; it waits until the stores before it are released (R217), and while no bin has room for its next thread; where the bin for its key has room for every lane that is left and does not become full, each lane's argument is put into it in lane order, in the lowest free bin when the key has none, and the strand goes on with nothing else changed (R110, R361). -/
def SpawnPart : Prop :=
  ∀ y s s' i, let x := XForm.enc 0x0A y
    Issues s x s' i →
    let legal := decide (x.sub < i.t.nroles) && (i.t.roles.getD x.sub Role.none).spawn
    let ls := lanesOf (i.active &&& ~~~i.st.placed)
    let args := ls.map fun l => i.vpair x.a.toNat l
    (legal = false → Traps (.spawn y) s s' i { cause := 0x02#8, detail := x.sub, la := x.la }) ∧
    (legal = true → releaseOver i .team = false → Waits (.spawn y) s i) ∧
    (legal = true → releaseOver i .team = true → ls ≠ [] → s'.binFor i.t x.sub i.target.toNat = none → Waits (.spawn y) s i) ∧
    (legal = true → releaseOver i .team = true → ls = [] → Completes (.spawn y) s s' i i.nextPc i.active {}) ∧
    (∀ k, legal = true → releaseOver i .team = true → ls ≠ [] → s'.binFor i.t x.sub i.target.toNat = some k →
      let old := (((s'.core i.t.core).bins.getD k none).map (·.args)).getD []
      let times := (((s'.core i.t.core).bins.getD k none).map (·.times)).getD []
      old.length + ls.length ≤ 32 → old.length + ls.length < i.t.binSize → Ends (.spawn y) s i fun t g' =>
        coreField (·.bins.toList) t = (coreField (·.bins.toList) s').modify i.t.core (·.set k (some ⟨i.t.ctx, i.t.vteam, x.sub, i.target.toNat, times ++ args.map fun _ => s'.cycle, old ++ args⟩)) ∧
        RegsAfter i.g g' i.r.num 0 {} ∧ GoesOn g' i.r.num i.nextPc ∧ SameGroup i.g g' i.r.num ∧ t.mem = s'.mem ∧ t.teams.map Team.sansGroups = s'.teams.map Team.sansGroups)

/-! ### Slide accumulators (R384 to R392) -/

/-- A register of one lane replaced; there are 256. -/
def setReg (v : Nat → Word) (k : Nat) (x : Word) : Nat → Word := fun j => if j = k ∧ k < 256 then x else v j

/-- The flip of R388 in one lane: each slot becomes the fold from its value to the newest, and the aggregate the identity. -/
def flipLane (d : Slide) (v : Nat → Word) : Nat → Word :=
  let r := (List.range d.n).reverse.foldl (fun (r : (Nat → Word) × Word) j =>
    let x := if j < d.n - 1 then d.apply (r.1 (d.slot j)) r.2 else r.2
    (setReg r.1 (d.slot j) x, x)) (v, v (d.slot (d.n - 1)))
  setReg r.1 d.agg d.identity

/-- The oldest value leaves (R388): the registers of one lane and the descriptor. -/
def dropLane (d : Slide) (v : Nat → Word) : (Nat → Word) × Slide :=
  let nout := if d.nout = 0 then d.n else d.nout
  (if d.nout = 0 then flipLane d v else v, { d with head := (d.head + 1) % d.cap, nout := nout - 1, n := d.n - 1 })

/-- A push in one lane (R388). -/
def pushLane (d : Slide) (x : Word) (v : Nat → Word) : (Nat → Word) × Slide :=
  let (v, d) := if d.n = d.win then dropLane d v else (v, d)
  let v := setReg v (d.slot d.n) x
  (setReg v d.agg (d.apply (v d.agg) x), { d with n := d.n + 1, pushes := d.pushes + 1 })

/-- A length set in one lane (R390): the values beyond it leave. -/
def resizeLane (d : Slide) (w : Nat) (v : Nat → Word) : (Nat → Word) × Slide :=
  let r := (List.range (d.n - w)).foldl (fun (r : (Nat → Word) × Slide) _ => dropLane r.2 r.1) (v, d)
  (r.1, { r.2 with win := w })

/-- What an instruction makes of a descriptor and, in each lane of the group, of the vector registers. -/
def slideClaim : Instr → Option (Enc × (Iss → Nat → (Nat → Word) → (Nat → Word) × Slide))
  | .slpush y => some (push (y.enc 0x98))
  | .slpushExtended y => some (push (y.enc 0x98))
  | .slsetw y => some (y.enc 0x9A, fun i _ v => resizeLane (i.g.slide (y.enc 0x9A).d.toNat) (i.scalarB.toNat % 128) v)
  | .slreset y => some (y.enc 0x9B, fun i _ v =>
    let d := i.g.slide (y.enc 0x9B).d.toNat
    (setReg v d.agg d.identity, { d with n := 0, nout := 0, head := 0, pushes := 0 }))
  | _ => none
where
  push (x : Enc) : Enc × (Iss → Nat → (Nat → Word) → (Nat → Word) × Slide) := (x, fun i l v =>
    let d := i.g.slide x.d.toNat
    pushLane d (if i.st.mask.getLsbD l then (i.srcA false l).extractLsb' 0 32 else d.identity) v)

/-- The state after an instruction that changed one descriptor and vector registers of every lane of the group, and nothing else. -/
def SlideAfter (c : Instr) (s s' : State) (i : Iss) (k : Nat) (f : Nat → (Nat → Word) → (Nat → Word) × Slide) : Prop :=
  Ends c s i fun t g' =>
    (∀ l < 32, ∀ r < 256, vlane g' r l = if i.t.lanes.getLsbD l then (f l fun j => vlane i.g j l).1 r else vlane i.g r l) ∧
    (∀ j < 8, g'.slide j = if j = k then (f 0 fun j => vlane i.g j 0).2 else i.g.slide j) ∧
    GoesOn g' i.r.num i.nextPc ∧ RegsAfter i.g { g' with v := i.g.v } i.r.num 0 {} ∧ SameGroup i.g { g' with slides := i.g.slides } i.r.num ∧ SameElsewhere s' t i.r.g

/-- SLREAD writes, in each lane of its mask, the aggregate of the window as R389 folds it, and changes nothing else; SLDEF with a legal type, count, length and base binds the descriptor empty and writes the identity to the aggregate register in every lane of the group, and otherwise raises ILLENC with its number (R386, R387). -/
def SlideReadAndDefinePart : Prop :=
  (∀ c x s s' i, (∃ y, c = .slread y ∧ x = y.enc 0x99) ∨ (∃ y, c = .slreadExtended y ∧ x = y.enc 0x99) → IssuesWith (slideUses false x.a.toNat) s x s' i →
    let d := i.g.slide x.a.toNat
    let usable := d.bound && decide (d.base + d.cap < i.g.vregs)
    (usable = false → Traps c s s' i { cause := 0x02#8, detail := x.a.toNat, la := x.la }) ∧
    (usable = true → Completes c s s' i i.nextPc i.st.mask { v := [(x.d.toNat, lanesFn fun l =>
      if d.n = 0 then d.identity
      else if d.nout = 0 then vlane i.g d.agg l
      else if d.nout = d.n then vlane i.g (d.slot 0) l
      else d.apply (vlane i.g (d.slot 0) l) (vlane i.g d.agg l))] })) ∧
  (∀ y s s' i, let x := XForm.enc 0x97 y
    Issues s x s' i →
    let b := i.scalarB.toNat
    let cap := b % 128
    let w := b / 256 % 128
    let legal := (if x.sub < 6 then decide (x.ty = 9 ∨ x.ty = 10) else decide (x.ty = 0)) && decide (1 ≤ cap ∧ cap ≤ 64 ∧ 1 ≤ w ∧ w ≤ cap ∧ x.a.toNat + cap < i.g.vregs)
    (i.hasSet = true → Traps (.sldef y) s s' i { cause := 0x0C#8, la := x.la }) ∧
    (i.hasSet = false → i.g.sharesEarlier i.st = true → Waits (.sldef y) s i) ∧
    (i.hasSet = false → i.g.sharesEarlier i.st = false → legal = false → Traps (.sldef y) s s' i { cause := 0x02#8, detail := x.d.toNat, la := x.la }) ∧
    (i.hasSet = false → i.g.sharesEarlier i.st = false → legal = true → i.busyRegs [x.a.toNat + cap] = true → Waits (.sldef y) s i) ∧
    (i.hasSet = false → i.g.sharesEarlier i.st = false → legal = true → i.busyRegs [x.a.toNat + cap] = false →
      let d : Slide := ⟨true, x.sub, decide (x.ty = 10 ∧ (x.sub = 1 ∨ x.sub = 2)), x.a.toNat, cap, w, 0, 0, 0, 0⟩
      SlideAfter (.sldef y) s s' i x.d.toNat fun _ v => (setReg v (x.a.toNat + cap) d.identity, d)))

/-- Whether a target lies on a peer. -/
def isRemote : Target → Bool
  | .remote _ _ _ => true
  | _ => false

/-- The store of an instruction enters the buffer with these parts, in its place in the order of R141, with its own flag written in a mask; nothing has reached memory yet, and nothing else has changed, but for the records that hear of remote parts. -/
def StoreEnters (c : Instr) (s s' : State) (i : Iss) (full scalar : Bool) (parts : List StorePart) (m : Mask) (flags : List (Nat × Mask)) : Prop :=
  Ends c s i fun t g' =>
    g'.sb = (if parts = [] then i.g.sb else (i.g.enterStore ⟨i.g.nextId, i.r.num, i.st.order, full, scalar, false, i.x.cache, parts⟩).sb) ∧
    RegsAfter i.g g' i.r.num m { p := flags } ∧ GoesOn g' i.r.num i.nextPc ∧
    SameGroup i.g { g' with sb := i.g.sb, loads := if parts.any (isRemote ·.target) then i.g.loads else g'.loads } i.r.num ∧ SameElsewhere s' t i.r.g

/-- The bytes of a slide image in pieces (R392): the head, then a register after another. -/
def imagePieces (g : Group) (k : Nat) : List (List Byte) :=
  let d := g.slide k
  if d.bound then
    (d.bytes ++ List.replicate 112 0) :: (List.range (d.cap + 1)).map fun j => (List.range 32).flatMap fun l => leBytes (vlane g (d.base + j) l).toNat 4
  else [List.replicate 128 0]

/-- SLSAVE stores the image of its descriptor, head and storage, at its address piece by piece and clears p7; SLLOAD reads an image back into the descriptor and the storage registers and clears p7, and raises ILLENC with its number where the head fails its checks; where a page of the image is not resident, neither moves anything and p7 is set (R188, R386, R392). -/
def SlideImagesPart : Prop :=
  (∀ y s s' i, let x := XForm.enc 0x9C y
    IssuesWith (imageUses true x.d.toNat) s x s' i → i.hasSet = false → i.g.sharesEarlier i.st = false →
    ((i.storesWait || i.g.bufferFull i.st 0) = true → Waits (.slsave y) s i) ∧
    ∀ s2 r, i.storesWait = false → i.g.bufferFull i.st 0 = false →
      s'.imageTargets i i.addrOnce (imagePieces i.g x.d.toNat).length .write = .ok s2 r →
      (r = none → Completes (.slsave y) s (s2.dropImageLines i.t.core) i i.nextPc i.st.mask { p := [(7, i.st.mask)] }) ∧
      (∀ ts, r = some ts → StoreEnters (.slsave y) s s2 i false false
        ((List.range (imagePieces i.g x.d.toNat).length).map fun k => ⟨32 + k, ts.getD k .nonres, (imagePieces i.g x.d.toNat).getD k [], false⟩) i.st.mask [(7, 0)])) ∧
  (∀ y s s' i, let x := XForm.enc 0x9D y
    IssuesWith (imageUses false x.d.toNat) s x s' i → i.hasSet = false → i.g.sharesEarlier i.st = false →
    (i.storesWait = true → Waits (.slload y) s i) ∧
    ∀ s2 hs, i.storesWait = false → s'.imageTargets i i.addrOnce 1 .read = .ok s2 hs →
      let far (u : State) : State := u.dropImageLines i.t.core
      (hs = none → Completes (.slload y) s (far s2) i i.nextPc i.st.mask { p := [(7, i.st.mask)] }) ∧
      ∀ p s3 head, hs = some p → s2.readPieces i p = .ok s3 (some head) →
        let n := if (leNat (head.take 8)).testBit 63 then leNat (head.take 8) / 2 ^ 41 % 128 + 1 else 0
        ∀ s4 ts, s3.imageTargets i i.addrOnce (n + 1) .read = .ok s4 ts →
          (ts = none → Completes (.slload y) s (far s4) i i.nextPc i.st.mask { p := [(7, i.st.mask)] }) ∧
          (∀ q, ts = some q → Slide.ofBytes i.g.vregs head = none → Traps (.slload y) s (far s4) i { cause := 0x02#8, detail := x.d.toNat, la := x.la }) ∧
          (∀ q d, ts = some q → Slide.ofBytes i.g.vregs head = some d → d.bound = false → Ends (.slload y) s i fun t g' =>
            g'.slide x.d.toNat = Slide.unbound ∧ (∀ j < 8, j ≠ x.d.toNat → g'.slide j = i.g.slide j) ∧ RegsAfter i.g g' i.r.num i.st.mask { p := [(7, 0)] } ∧
            GoesOn g' i.r.num i.nextPc ∧ SameGroup i.g { g' with slides := i.g.slides } i.r.num ∧ SameElsewhere (far s4) t i.r.g) ∧
          (∀ q d s5 body, ts = some q → Slide.ofBytes i.g.vregs head = some d → d.bound = true → i.busyRegs d.storage = false →
            s4.readPieces i (q.drop 1) = .ok s5 (some body) → Ends (.slload y) s i fun t g' =>
              g'.slide x.d.toNat = d ∧ (∀ j < 8, j ≠ x.d.toNat → g'.slide j = i.g.slide j) ∧
              (∀ r < 256, ∀ l < 32, vlane g' r l = if i.t.lanes.getLsbD l ∧ d.base ≤ r ∧ r ≤ d.base + d.cap
                then BitVec.ofNat 32 (leNat ((body.drop (128 * (r - d.base) + 4 * l)).take 4)) else vlane i.g r l) ∧
              RegsAfter i.g { g' with v := i.g.v } i.r.num i.st.mask { p := [(7, 0)] } ∧
              GoesOn g' i.r.num i.nextPc ∧ SameGroup i.g { g' with slides := i.g.slides } i.r.num ∧ SameElsewhere (far s5) t i.r.g))

/-! ### Loads, stores and atomics (R141 to R144, R393 to R411) -/

/-- Loads in flight, but for how many instructions have issued after them. -/
def loadsOf (g : Group) : List Load := g.loads.map fun l => { l with issuedAfter := 0 }

/-- A load or atomic of the instruction as it enters, with no lane performed. -/
def entered (i : Iss) (dest : LoadDest) (op : Option AtomOp) (parts : List LoadPart) : Load :=
  ⟨i.g.nextId, i.r.num, i.x.la.toNat, 0, dest, i.x.fe, some (if i.x.c = 0 then 7 else i.x.c.toNat), decide (i.x.ord = 1) || (decide (i.x.fe ≠ 0) && dest ≠ .store),
    decide (i.x.ord = 3), i.x.cache, op, i.st.pc, i.st.mask, parts⟩

/-- The state once the residue check of the instruction's addresses and stored values has passed (R289): as before, with what the check has logged. -/
def residueChecked (s' : State) (i : Iss) : State := (s'.arithmetic i.t).1

/-- A load or atomic issues: it stands in flight, the buffer is as given with its store parts in their place, no register has changed and its strand stands at the next instruction; what follows in the same step is that the lanes that may be performed are, and that the strand parks where it waits on a granule. -/
def LoadEnters (c : Instr) (s s' : State) (i : Iss) (l : Load) (sb : List StoreEntry) : Prop :=
  ∃ (u : State) (g : Group), exec c s = .next ((u.performAll i.r.g l.id).parkFe i l.id) ∧ u.group? i.r.g = some g ∧ loadsOf g = loadsOf i.g ++ [l] ∧ g.sb = sb ∧
    RegsAfter i.g g i.r.num 0 {} ∧ GoesOn g i.r.num i.nextPc ∧ SameGroup i.g { g with loads := i.g.loads, sb := i.g.sb } i.r.num ∧ SameElsewhere s' u i.r.g

/-- The bytes of memory that the Z9 itself may write while it performs an access of a team: the affinity counters of the team's launch record (R61, R99), and the sampling ring while sampling is on (R207). -/
def countedAt (s : State) (t : Team) (a : Nat) : Bool :=
  (match s.bent? t.bent with
  | some b => decide (b.record + 160 ≤ a ∧ a < b.record + 184)
  | none => false) ||
  (s.mcb.mode.getLsbD 1 && decide (s.mcb.smp.base ≤ a ∧ a < s.mcb.smp.base + 16 * 2 ^ s.mcb.smp.logn))

/-- Memory is as before but where the Z9 counts. -/
def SameMemory (s : State) (t : Team) (u : State) : Prop := ∀ a, countedAt s t a = false → memGet u.mem a = memGet s.mem a

/-- Whether a target is on this device, within device memory. -/
def isHere : Target → Bool
  | .phys _ pa => decide (pa < memTop)
  | .stack ws => ws.all fun a => decide (a < memTop)
  | .remote _ _ _ => false
  | _ => true

/-- No memory and no scratch is known to be in error, and a list of targets is on this device (R285, R286). -/
def Quiet (s : State) (ts : List Target) : Prop := s.poison = [] ∧ s.l2bad = [] ∧ (∀ u ∈ s.teams, u.poison = []) ∧ ∀ t ∈ ts, isHere t = true

/-- The bytes that a lane's data registers hold (R397). -/
def storedBytes (i : Iss) (d n lane : Nat) : List Byte := (List.range n).map fun b => (vlane i.g (d + b / 4) lane).extractLsb' (8 * (b % 4)) 8

/-- The operator that a sub-operation of ATOM names (R403). -/
def atomicOperator (sub : Nat) : AtomOp :=
  if sub < 16 then [AtomOp.add, .minS, .maxS, .and, .or, .xor, .xchg, .fadd].getD (sub % 8) .fadd
  else [AtomOp.add, .minU, .maxU, .and, .or, .xor, .xchg, .fadd].getD (sub % 8) .fadd

/-- The store entry of an atomic: a part on each lane, performed with the load part (R141). -/
def atomicEntry (i : Iss) (lanes : List (Nat × Target)) : StoreEntry :=
  ⟨i.g.nextId, i.r.num, i.st.order, false, false, true, i.x.cache, lanes.map fun a => ⟨a.1, a.2, [], false⟩⟩

/-- An operand of n bytes, 4 or 8, of a lane. -/
def operandOf (i : Iss) (d n lane : Nat) : Nat := (i.vop (decide (n = 8)) d lane).toNat

/-! ### What becomes of accesses in flight (R141, R143, R188, R198, R210 to R213, R219, R220, R397) -/

/-- The bytes that a load reads of a physical address (R210): those of a live copy in the L1 that serves it, else those of memory; none while an unacknowledged store to the line of a team that this L1 serves holds the miss back (R213). -/
def readAt (s : State) (t : Team) (va pa n : Nat) : Option (List Byte) :=
  let k := s.l1Core t pa
  match ((s.core k).l1? pa).filter fun l => l.live (s.timeOf (dieOfCore k)) with
  | some l => some ((l.data.drop (pa % 128)).take n)
  | none => if s.unackedLine (fun u => s.l1Core u pa = k) va then none else some (memRead s.mem pa n)

/-- A lane's part holds what performing it brought; an access that has been answered in every lane, and refused in some, then leaves for its fault (R270). -/
def Machine.Group.brought (g : Group) (id lane : Nat) (st : PartState) : Group := (g.setPart id lane st).settleLate id

/-- A lane of a load is performed: its part holds its bytes, and nothing has changed but caches, counters and, for `.fec`, the granules' full bits. -/
def LanePerformed (s : State) (t : Team) (r : GroupRef) (id lane : Nat) (bytes : List Byte) (nonres : Bool) (s1 : State) : Prop :=
  ∃ u : State, exec .laneLoadPerform s = .next (u.modGroup r (·.brought id lane (.done bytes nonres))) ∧ SameMemory s t u ∧ u.teams = s1.teams ∧ u.bents = s1.bents ∧ u.grids = s1.grids

/-- LANE_LOAD_PERFORM performs the named gated lane of a load when order permits and no earlier atomic of the lane is outstanding, and otherwise no more than note the arrival of a `.fec` lane: a non-resident lane reads zeros and its flag, a lane in device memory the bytes of R210 under its own strand's earlier stores, a lane in scratch the member's bytes, an `.fe` load only of full granules, which `.fec` empties, the first to arrive first (R141, R143, R188, R198, R210, R398). -/
def LanePerformsPart : Prop :=
  ∀ s r id lane t g l p, s.operand.g = r → s.operand.n = id → s.operand.k = lane → s.team? r.ctx r.vteam = some t → s.group? r = some g →
    g.loads.find? (·.id = id) = some l → l.dest ≠ .store → l.op = none → l.parts.filter (fun q => q.lane = lane && q.st = .gated) = [p] →
    s.restoring r = false →
    let n := l.dest.bytes
    let mine := g.pendingParts l p.lane
    let stays : State := if l.fe = 2 ∧ p.arrived = none then s.modGroup r (·.noteArrival id lane s.cycle) else s
    (g.lanePermitted l lane = false → exec .laneLoadPerform s = .next s) ∧
    (g.lanePermitted l lane = true → g.atomicWaits l p.lane = true → exec .laneLoadPerform s = .next stays) ∧
    (g.lanePermitted l lane = true → g.atomicWaits l p.lane = false →
      (p.target = .nonres → LanePerformed s t r id lane (List.replicate n 0) true s) ∧
      (∀ va pa, p.target = .phys va pa → 65536 ≤ pa → pa < memTop → s.bad pa n = false →
        (∀ bs, readAt s t va pa n = some bs → LanePerformed s t r id lane (overPhys mine pa bs) false s) ∧
        (readAt s t va pa n = none → exec .laneLoadPerform s = .next stays)) ∧
      (∀ m o u, p.target = .scratch m o → s.member? t.bent m = some u →
        (l.fe ≠ 0 → u.isFull o n = false → exec .laneLoadPerform s = .next stays) ∧
        (l.fe = 2 → s.fecBefore t m o p.arrived = true → exec .laneLoadPerform s = .next stays) ∧
        ((l.fe ≠ 0 → u.isFull o n = true) → (l.fe = 2 → s.fecBefore t m o p.arrived = false) → u.badScratch o n = false →
          LanePerformed s t r id lane (overScratch mine m o (memRead u.scratch o n)) false
            (if l.fe = 2 then s.modTeam u.ctx u.vteam (·.setEmpty o n) else s))))

/-- LANE_LOAD_PERFORM of an atomic's lane on device memory that no Sill run holds, once order permits it, leaves the lane the old value and memory the new one, in the bytes of the location and in no other but where the Z9 counts (R224, R403, R404). -/
def AtomicPerformsPart : Prop :=
  ∀ s r id lane t g l p op va pa, s.operand.g = r → s.operand.n = id → s.operand.k = lane → s.team? r.ctx r.vteam = some t → s.group? r = some g →
    g.loads.find? (·.id = id) = some l → l.dest ≠ .store → l.op = some op → l.parts.filter (fun q => q.st = .gated && (q.lane = lane || q.target = p.target)) = [p] →
    p.lane = lane → g.lanePermitted l lane = true → p.target = .phys va pa → 65536 ≤ pa → pa < memTop → s.bad pa l.dest.bytes = false → s.held pa = false →
    s.restoring r = false → s.residueMiss ≤ 2 →
    let n := l.dest.bytes
    let old := leNat (memRead s.mem pa n)
    let new := leBytes (op.apply n old p.operand p.compare) n
    ∃ u : State, exec .laneLoadPerform s = .next (u.modGroup r (·.brought id lane (.done (leBytes old n) false))) ∧
      (∀ a, countedAt s t a = false → memGet u.mem a = if pa ≤ a ∧ a < pa + n then new.getD (a - pa) 0 else memGet s.mem a) ∧
      u.bents = s.bents ∧ u.grids = s.grids ∧ u.teams.map Team.sansGroups = s.teams.map Team.sansGroups

/-- The lanes whose results a load that returns writes: those of its parts, or those of the mask under which it issued where one access stands for them. -/
def returnMask (l : Load) : Mask :=
  match l.dest with
  | .scalar _ _ _ => l.mask
  | .agg _ _ xs => maskOf fun k => xs.any (·.1 = k)
  | _ => if l.parts.all fun p => decide (p.lane < 32) then maskOf fun k => l.parts.any (·.lane = k) else l.mask

/-- The bytes that a lane's part brought, and its flag. -/
def broughtBy (l : Load) (k : Nat) : List Byte × Bool := (((l.parts.find? (·.lane = k)).bind partData)).getD ([], false)

/-- The register word that bytes of an access give (R397): a short one extended, a long one word by word. -/
def wordOf (bs : List Byte) (sign : Bool) (j : Nat) : Word :=
  if 4 ≤ bs.length then BitVec.ofNat 32 (leNat ((bs.drop (4 * j)).take 4))
  else
    let v := leNat bs
    BitVec.ofInt 32 (if sign = true ∧ 2 ^ (8 * bs.length - 1) ≤ v ∧ bs ≠ [] then (v : Int) - 2 ^ (8 * bs.length) else v)

/-- What a load that returns writes (R188, R397, R398, R402, R403, R406). -/
def returned (l : Load) : RegOut :=
  let regs (d n : Nat) (f : Nat → Nat → Word) : List (Nat × Lanes) := (List.range (max 1 (n / 4))).map fun j => (d + j, lanesFn (f j))
  let one := broughtBy l ((lowLane (maskOf fun k => l.parts.any (·.lane = k))).getD 0)
  let any := l.parts.any fun p => ((partData p).map (·.2)).getD false
  let lost := l.parts.any fun p => (broughtBy l p.lane).2
  let flag (m : Mask) : List (Nat × Mask) := (l.flag.map fun f => (f, m)).toList
  match l.dest with
  | .vector d n sign => { v := regs d n fun j k => wordOf (broughtBy l k).1 sign j, p := flag (maskOf fun k => (broughtBy l k).2) }
  | .atomic d n => { v := regs d n fun j k => wordOf (broughtBy l k).1 false j, p := flag (maskOf fun k => (broughtBy l k).2) }
  | .scalar d n sign =>
    let v := leNat one.1
    { s := [(d.toNat, if sign then BitVec.ofInt 64 (sintOf n v) else BitVec.ofNat 64 v)], p := flag (if any then 0xFFFFFFFF#32 else 0) }
  | .agg d n xs =>
    let before (k : Nat) : Nat := if lost then 0 else (leNat one.1 + ((xs.filter (·.1 < k)).map (·.2)).sum) % 2 ^ (8 * n)
    { v := regs d n fun j k => wordOf (leBytes (before k) n) false j, p := flag (if any then 0xFFFFFFFF#32 else 0) }
  | .store => { p := flag (if l.parts.any fun p => decide (32 ≤ p.lane) && ((partData p).map (·.2)).getD false then 0xFFFFFFFF#32 else maskOf fun k => (broughtBy l k).2) }

/-- STORE_PART_RELEASE of a part that may be released puts its bytes into memory, or into the scratch of the member it names, and into no other byte but where the Z9 counts, and its acknowledgement becomes outstanding; a part that may not yet be released, or that belongs to an atomic, stays (R141, R142, R198, R212, R219). -/
def PartReleasesPart : Prop :=
  ∀ s r t g e p, s.operand.g = r → s.team? r.ctx r.vteam = some t → s.group? r = some g → g.sb.find? (·.id = s.operand.n) = some e →
    e.parts.find? (fun q => q.lane = s.operand.k && !q.released) = some p → s.restoring r = false →
    ((e.atomic || !g.partReady e s.operand.k) = true → exec .storePartRelease s = .next s) ∧
    ((e.atomic || !g.partReady e s.operand.k) = false → (e.scalar = true → (e.parts.filter fun q => !q.released).length = 1) →
      (∀ va pa, p.target = .phys va pa → 65536 ≤ pa → pa < memTop → s.badWrite pa p.data.length = false → s.held pa = false →
        ∃ (u : State) (g' : Group) (a : Ack), exec .storePartRelease s = .next u ∧ u.group? r = some g' ∧ (∀ b, countedAt s t b = false → memGet u.mem b = if pa ≤ b ∧ b < pa + p.data.length then p.data.getD (b - pa) 0 else memGet s.mem b) ∧
          g'.sb = (g.markReleased e.id s.operand.k).sb ∧ g'.acks = g.acks ++ [a] ∧ a.entry = e.id ∧ a.sid = e.sid ∧ a.lane = s.operand.k ∧ a.global = true ∧ a.line = va / 128 ∧
          g'.v = g.v ∧ g'.p = g.p ∧ g'.s = g.s) ∧
      (∀ m o u, p.target = .scratch m o → s.member? t.bent m = some u → u.badScratch o p.data.length = false →
        ∃ (v : State) (g' : Group), exec .storePartRelease s = .next v ∧ v.mem = s.mem ∧ v.group? r = some g' ∧ g'.sb = (g.markReleased e.id s.operand.k).sb ∧
          (v.team? u.ctx u.vteam).map (·.scratch) = (s.team? u.ctx u.vteam).map fun w => memWrite w.scratch o p.data))

/-- STORE_ACKNOWLEDGE takes an acknowledgement that is there out of those outstanding and raises the group's greatest completion time to it; one that waits for a peer's answer or for a Sill run stays (R185, R219, R230). RELEASE_WAIT_COMPLETE looks at a strand's release again: the strand is looked at when it is over (R217, R220). -/
def AcknowledgesAndReleasesPart : Prop :=
  (∀ s r t g a, s.operand.g = r → s.team? r.ctx r.vteam = some t → s.group? r = some g → g.acks.find? (·.id = s.operand.n) = some a → g.ended = false →
    ((a.tag.isSome || a.held.any s.held) = true → exec .storeAcknowledge s = .next s) ∧
    ((a.tag.isSome || a.held.any s.held) = false → ∃ (u : State) (g' : Group), exec .storeAcknowledge s = .next u ∧ u.group? r = some g' ∧ g'.acks = g.acks.filter (·.id ≠ a.id) ∧
      g'.wmax = max g.wmax a.time ∧ RegsAfter g g' 0 0 {} ∧ SameElsewhere s u r ∧
      (a.global = true → s.leaseNow t < a.time → (∃ k < 16, (g'.rt.getD k ⟨false, 0, 0⟩).line = a.line ∧ a.time ≤ (g'.rt.getD k ⟨false, 0, 0⟩).time ∧ (g'.rt.getD k ⟨false, 0, 0⟩).valid = true)))) ∧
  (∀ s r t g w, s.operand.g = r → s.team? r.ctx r.vteam = some t → s.group? r = some g → s.operand.k < 16 → (g.strand s.operand.k).rel = some w → w.fence = false →
    ∃ (u : State) (g' : Group), exec .releaseWaitComplete s = .next u ∧ u.group? r = some g' ∧
      (g'.strand s.operand.k).rel = some (g.stepRelease s.operand.k w t.fused (s.leaseNow t)) ∧
      (g'.strand s.operand.k).look = (g.stepRelease s.operand.k w t.fused (s.leaseNow t)).done ∧ RegsAfter g g' s.operand.k 0 {} ∧ SameElsewhere s u r)

/-! ### Fences, page requests and prefetch (R189, R407 to R411) -/

/-- FENCE and FENCER go on at once and change no register; one that releases leaves, until its release is over, the release for which later instructions of the strand wait (R217 to R220, R407 to R409). -/
def FencesPart : Prop :=
  (∀ y s s' i, let x := XForm.enc 0xA8 y
    Issues s x s' i → Completes (.fence y) s s' i i.nextPc i.active {} ∧
      (x.sub ≠ 1 → let w := i.g.stepRelease i.r.num (i.g.newRelease i.scope i.active true none) i.t.fused i.time;
        w.done = false → Ends (.fence y) s i fun _ g' => (g'.strand i.r.num).rel = some w)) ∧
  (∀ y s s' i, let x := XForm.enc 0xA9 y
    Issues s x s' i → Completes (.fencer y) s s' i i.nextPc i.active {} ∧
      (let w := i.g.stepRelease i.r.num (i.g.newRelease i.scope i.active true (some ((i.scalar x.a).toNat, (i.scalar x.b).toNat))) i.t.fused i.time;
        w.done = false → Ends (.fencer y) s i fun _ g' => (g'.strand i.r.num).rel = some w))

/-- How the pages of a TOUCH's lanes stand, of the active ones that it has not dealt with yet, lane by lane. -/
def touchLooks (s : State) (i : Iss) : State × List (Nat × TouchPage) :=
  (lanesOf (i.active &&& ~~~i.st.placed)).foldl (fun a k => ((a.1.touchPage i.t (i.addr k)).1, a.2 ++ [(k, (a.1.touchPage i.t (i.addr k)).2)])) (s, [])

/-- TOUCH whose pages are all resident or requested, with room in the table, goes on, counts its amount at once for a resident page, and records it for a page that is not there; a lane whose page moves or awaits a frame, or for which the table has no room, holds the instruction until it is dealt with, the other lanes not (R189, R410). PREF goes on and changes no register and no flag, whatever its addresses (R411). -/
def TouchAndPrefetchPart : Prop :=
  (∀ y s s' i, let x := XForm.enc 0xAA y
    Issues s x s' i → s.residueMiss ≤ 2 →
    let s2 := (touchLooks (residueChecked s' i) i).1
    let rs := (touchLooks (residueChecked s' i) i).2
    let page (k : Nat) : Nat := (i.addr k).toNat % 2 ^ 57 / 65536
    let amount := (i.scalar x.c).extractLsb' 0 32
    let table := s2.touches.getD (dieOfCore i.t.core) []
    let pending := rs.filter (·.2 = .pending)
    let listed (k : Nat) : Bool := table.any fun p => p.ctx = i.t.ctx && p.page = page k && p.vteam = i.t.vteam && p.tok = x.d.toNat
    (∀ a ∈ rs, a.2 = .resident ∨ a.2 = .pending ∨ a.2 = .hold) → noEventWait s2 = true →
    ((∃ a ∈ rs, a.2 = .hold) → Waits (.touch y) s i) ∧
    (4096 ≤ table.length → (∃ a ∈ pending, listed a.1 = false) → Waits (.touch y) s i) ∧
    ((∀ a ∈ rs, a.2 ≠ .hold) → table.length + pending.length ≤ 4096 ∨ (∀ a ∈ pending, listed a.1 = true) → ∃ (u : State) (g' : Group),
      exec (.touch y) s = .next (rs.foldl (fun u a =>
        if a.2 = .pending then u.recordTouch i.t (page a.1) x.d.toNat amount else u.addToken i.t.ctx i.t.vteam x.d.toNat amount) u) ∧
      u.group? i.r.g = some g' ∧ RegsAfter i.g g' i.r.num 0 {} ∧ GoesOn g' i.r.num i.nextPc ∧ SameGroup i.g g' i.r.num ∧ SameElsewhere s2 u i.r.g)) ∧
  (∀ y s s' i, let x := XForm.enc 0xAB y
    Issues s x s' i → s.residueMiss ≤ 2 → Ends (.pref y) s i fun t g' =>
      RegsAfter i.g g' i.r.num 0 {} ∧ GoesOn g' i.r.num i.nextPc ∧ SameGroup i.g g' i.r.num ∧ t.bents = s'.bents ∧ t.grids = s'.grids ∧
      t.teams.map Team.sansGroups = s'.teams.map Team.sansGroups)

/-! ### Copies (R412 to R419) -/

/-- The state in which a release that is over lets an instruction have its effect. -/
def afterRel (s : State) (i : Iss) (scope : Scope) : State :=
  let w := i.g.stepRelease i.r.num ((i.st.rel.filter fun w => !w.fence).getD (i.g.newRelease scope i.active false none)) i.t.fused i.time
  (s.modGroup i.r.g (·.passRelease w)).modStrand i.r fun st => { st with rel := some w }

/-- What is as before outside a group, but for cores and engines. -/
structure SameMachine (s t : State) (r : GroupRef) : Prop where
  mem : t.mem = s.mem
  ctxs : t.ctxs = s.ctxs
  bents : t.bents = s.bents
  grids : t.grids = s.grids
  works : t.works = s.works
  dcb : t.dcb = s.dcb
  mcb : t.mcb = s.mcb
  runs : t.runs = s.runs
  teams : ∀ c v, (t.team? c v).map Team.sansGroups = (s.team? c v).map Team.sansGroups
  groups : ∀ q, q ≠ r → t.group? q = s.group? q

/-- A barrier's entry found in the table of its owner's core (R155, R281). -/
def barHere (s : State) (t : Team) (num : Nat) (o : Team) (k : Nat) (e : BarEntry) : Prop :=
  s.barOwner t num = some o ∧ s.anyTeam? o.ctx o.vteam = some o ∧ o.homeOf num = o.core ∧ (s.core o.core).barSlot? o num = some k ∧ (s.core o.core).bars.getD k none = some e

/-- A barrier table with one entry changed. -/
def barsOf (s : State) (core : Nat) : List (Option BarEntry) := (s.core core).bars.toList

/-- The copy instructions: fields, whether elements are reduced, and whether the destination is scratch alone. -/
def copyForm : Instr → Option (Enc × Bool × Bool)
  | .cpy y => some (y.enc 0xAC, false, false)
  | .cpyred y => some (y.enc 0xAD, true, false)
  | .cpyx y => some (y.enc 0xAE, false, true)
  | _ => none

/-- Bytes of an element of CPYRED, none for a format that it does not take (R413, R416). -/
def reduceBytes (fmt : Nat) : Option Nat := if fmt = 0 ∨ fmt = 9 ∨ fmt = 10 then some 4 else if fmt = 3 ∨ fmt = 13 ∨ fmt = 14 then some 8 else none

/-- CPY, CPYRED and CPYX by group 0 of a team with a streamer, with a legal control value, a length in range and both ends legal, hand the copy to the streamer and go on, with the barrier's AGENTS raised where one is named; a full queue holds them; another group raises its trap, a reserved control value, a length beyond 2^31 or an end out of place the fault of the field or address (R412 to R414, R417). -/
def CopiesIssuePart : Prop :=
  ∀ c x red fill s s' i, copyForm c = some (x, red, fill) → Issues s x s' i →
    let dst := i.scalar x.d
    let src := i.scalar x.a
    let len := (i.scalar x.b).toNat
    let ctl := (i.scalar x.c).toNat
    let fmt := ctl / 2 ^ 24 % 16
    let size := if red then (reduceBytes fmt).getD 1 else 1
    let reserved := decide (2 ^ 28 ≤ ctl ∨ ctl.testBit 15 = true ∨ (if red then reduceBytes fmt = none else fmt ≠ 0))
    let mine := decide (i.g.gidx = 0) && i.t.streamer
    let dt := if fill then (s'.member? i.t.bent (dst.toNat / 2 ^ 20 % 16)).getD i.t else i.t
    let out := if len % size ≠ 0 then (laneAlign, src) else if s'.copyEndCause i.t src size len false ≠ 0 then (s'.copyEndCause i.t src size len false, src) else (s'.copyEndCause i.t dst size len fill, dst)
    let legal := mine && !reserved && decide (len ≤ 2 ^ 31 ∧ len % size = 0 ∧ s'.copyEndCause i.t src size len false = 0 ∧ s'.copyEndCause i.t dst size len fill = 0)
    let old := (s'.core i.t.core).copies
    let copy (id : Nat) : Copy :=
      ⟨id, i.t.ctx, i.t.vteam, dt.vteam, src, dst, len, if red then (redFmt fmt).map fun f => (x.sub, f) else none, i.scope, ctl.testBit 23,
        if ctl.testBit 22 then some ⟨i.r.g, i.r.num, i.g.newRelease i.scope i.active true none⟩ else none,
        if ctl.testBit 21 then some (ctl / 2 ^ 16 % 32) else none, if ctl.testBit 14 then some (ctl / 2 ^ 8 % 64, ctl % 256) else none, false, false, [], 0, 0, none, []⟩
    (mine = false → Traps c s s' i { cause := 0x10#8, la := x.la }) ∧
    (mine = true → reserved = true → Traps c s s' i { cause := 0x02#8, detail := x.c.toNat, la := x.la }) ∧
    (mine = true → reserved = false → 2 ^ 31 < len → Traps c s s' i { cause := 0x02#8, detail := x.b.toNat, la := x.la }) ∧
    (∀ f, mine = true → reserved = false → len ≤ 2 ^ 31 → out.1 ≠ 0 → laneTrap i.st.mask (fun _ => out.1) (fun _ => out.2) = some f →
      Traps c s s' i { f with la := if f.la = 0 then x.la else f.la }) ∧
    (legal = true → ctl.testBit 21 = false → 16 ≤ old.length → Waits c s i) ∧
    (legal = true → ctl.testBit 21 = false → old.length < 16 → Ends c s i fun t g' =>
      coreField (·.copies) t = (coreField (·.copies) s').modify i.t.core (· ++ [copy s'.nextId]) ∧ RegsAfter i.g g' i.r.num 0 {} ∧ GoesOn g' i.r.num i.nextPc ∧ SameGroup i.g g' i.r.num ∧ SameMachine s' t i.r.g) ∧
    (∀ o k e, legal = true → ctl.testBit 21 = true → barHere s' dt (ctl / 2 ^ 16 % 32) o k e →
      (16 ≤ old.length ∨ 255 ≤ e.agents → Waits c s i) ∧
      (old.length < 16 → e.agents < 255 → Ends c s i fun t g' =>
        coreField (·.copies) t = (coreField (·.copies) s').modify i.t.core (· ++ [copy s'.nextId]) ∧ barsOf t o.core = (barsOf s' o.core).set k (some { e with agents := e.agents + 1 }) ∧
        RegsAfter i.g g' i.r.num 0 {} ∧ GoesOn g' i.r.num i.nextPc ∧ SameGroup i.g g' i.r.num ∧ SameMachine s' t i.r.g))

/-- A team's tokens, wherever it stands. -/
def tokenOf (s : State) (ctx : BitVec 8) (v : BitVec 16) (k : Nat) : Word := ((s.anyTeam? ctx v).map fun t => t.tokens.getD k 0).getD 0

/-- COPY_COMPLETE of a copy between scratch and scratch moves its bytes, one piece of them, and no byte of device memory, once its acquire is met; of a copy of which every piece has moved, whose peers have answered and whose release is over, it takes the copy away and adds its amount to the token it names; before that it changes nothing (R169, R227, R415 to R419). -/
def CopiesCompletePart : Prop :=
  ∀ s core c, (s.core core).copies.find? (·.id = s.operand.k) = some c → s.operand.n = core →
    let m := bitsOf c.src.toNat 20 4
    let m' := bitsOf c.dst.toNat 20 4
    let o := bitsOf c.src.toNat 0 20
    let o' := bitsOf c.dst.toNat 0 20
    (c.moved = false → s.acquireWaits c.acqw = true → exec .copyComplete s = .next s) ∧
    (∀ n u w, c.moved = false → s.acquireWaits c.acqw = false → c.pieces = [(0, n)] → apertureOf c.src = .scratch → apertureOf c.dst = .scratch → c.op = none →
      s.copyMember c m = some u → s.copyMember c m' = some w → u.badScratch o n = false → ∃ t : State, exec .copyComplete s = .next t ∧ t.mem = s.mem ∧
        (t.team? w.ctx w.vteam).map (·.scratch) = (s.team? w.ctx w.vteam).map fun x => memWrite x.scratch o' (memRead u.scratch o n)) ∧
    (c.moved = true → c.rest = [] → (c.out ≠ 0 ∨ c.held.any s.held = true ∨ s.copyReleased core c = false) → exec .copyComplete s = .next s) ∧
    (c.moved = true → c.rest = [] → c.out = 0 → c.held.any s.held = false → s.copyReleased core c = true → c.bar = none → noEventWait s = true →
      ∃ t : State, exec .copyComplete s = .next t ∧ (t.core core).copies = (s.core core).copies.filter (·.id ≠ c.id) ∧ t.mem = s.mem ∧
        (∀ k a, c.tok = some (k, a) → k < 64 → c.orphan = false → (s.anyTeam? c.ctx c.dteam).isSome = true → tokenOf t c.ctx c.dteam k = tokenOf s c.ctx c.dteam k + BitVec.ofNat 32 a))

/-! ### Barriers (R154 to R158, R173, R421 to R423) -/

/-- The strand parks: it stands at the next instruction, with what it waits for. -/
def Parks (c : Instr) (s : State) (i : Iss) (p : Park) (q : State → Prop) : Prop :=
  Ends c s i fun t g' =>
    (g'.strand i.r.num).state = .parked ∧ (g'.strand i.r.num).park = some p ∧ (g'.strand i.r.num).pc = i.nextPc ∧ RegsAfter i.g g' i.r.num 0 {} ∧ SameGroup i.g g' i.r.num ∧ q t

/-- BARINIT with a count from 1 to 4095 writes an entry at which nothing has arrived and nobody waits, and BARARV counts an arrival, with the last of a phase flipping it; both change no register and go on. A count out of range, an entry in use, a bent barrier from another team than the anchor, and for BARARV no entry, raise BARMISUSE with the number (R154 to R158, R421, R422). -/
def BarrierCountsPart : Prop :=
  (∀ y s s' i, let x := XForm.enc 0xC0 y
    Issues s x s' i →
    let num := x.d.toNat
    let count := x.w2.toNat
    (24 ≤ num → i.t.bpos ≠ 0 → Traps (.barinit y) s s' i { cause := 0x0E#8, detail := num, la := x.la }) ∧
    ∀ o k e, (num < 24 ∨ i.t.bpos = 0) → barHere s' i.t num o k e →
      (count = 0 ∨ 4095 < count ∨ s'.barParked o num = true ∨ e.agents ≠ 0 ∨ e.arrive ≠ 0 → Traps (.barinit y) s s' i { cause := 0x0E#8, detail := num, la := x.la }) ∧
      (1 ≤ count → count ≤ 4095 → s'.barParked o num = false → e.agents = 0 → e.arrive = 0 → e.phase = false → Ends (.barinit y) s i fun t g' =>
        barsOf t o.core = (barsOf s' o.core).set k (some ⟨decide (24 ≤ num), false, num, o.ctx, o.vteam, count, 0, 0, 0⟩) ∧
        RegsAfter i.g g' i.r.num 0 {} ∧ GoesOn g' i.r.num i.nextPc ∧ SameGroup i.g g' i.r.num ∧ t.mem = s'.mem ∧ t.bents.map (·.id) = s'.bents.map (·.id))) ∧
  (∀ y s s' i, let x := SForm.enc 0xC1 y
    Issues s x s' i →
    let num := x.d.toNat
    (releaseOver i (if num < 24 then .team else .bent) = false → Waits (.bararv y) s i) ∧
    ∀ o k e, releaseOver i (if num < 24 then .team else .bent) = true → barHere s' i.t num o k e →
      (e.arrive + 1 < e.expect → Ends (.bararv y) s i fun t g' =>
        barsOf t o.core = (barsOf s' o.core).set k (some { e with arrive := e.arrive + 1 }) ∧
        RegsAfter i.g g' i.r.num 0 {} ∧ GoesOn g' i.r.num i.nextPc ∧ SameGroup i.g g' i.r.num ∧ SameMachine s' t i.r.g) ∧
      (e.expect ≤ e.arrive + 1 → noEventWait s' = true → noBarrierWait s' = true → Ends (.bararv y) s i fun t g' =>
        barsOf t o.core = (barsOf s' o.core).set k (some { e with arrive := 0, phase := !e.phase }) ∧
        RegsAfter i.g g' i.r.num 0 {} ∧ GoesOn g' i.r.num i.nextPc ∧ t.mem = s'.mem))

/-- BARWAIT goes on where the phase it names has come and otherwise parks; BARARW arrives, unless it has done so before a dead wait took it out, and then does the same; a wait that can never end raises its trap in place of parking, and BARSTAT reads the status word of the entry (R157, R173, R422, R423). -/
def BarrierWaitsPart : Prop :=
  (∀ y s s' i o k e, let x := SForm.enc 0xC2 y
    let num := x.d.toNat
    let ph := x.b6.getLsbD 0
    Issues s x s' i → barHere s' i.t num o k e →
    (s'.deadBar i o e ph 0 = true → Traps (.barwait y) s s' i { cause := 0x21#8, why := barWhy num ph, la := x.la }) ∧
    (s'.deadBar i o e ph 0 = false → e.phase = ph → Completes (.barwait y) s s' i i.nextPc i.active {}) ∧
    (s'.deadBar i o e ph 0 = false → e.phase ≠ ph → noBarrierWait s' = true → Parks (.barwait y) s i (.barrier num ph) fun t => SameElsewhere s' t i.r.g)) ∧
  (∀ y s s' i o k e, let x := SForm.enc 0xC3 y
    let num := x.d.toNat
    let ph := x.b6.getLsbD 0
    Issues s x s' i → barHere s' i.t num o k e →
    let scope : Scope := if num < 24 then .team else .bent
    (releaseOver i scope = false → Waits (.bararw y) s i) ∧
    (releaseOver i scope = true → s'.deadBar i o e ph (if i.st.arrived then 0 else 1) = true →
      exec (.bararw y) s = .next ((afterRel s' i scope).takeTrap i.r { cause := 0x21#8, why := barWhy num ph, la := x.la })) ∧
    (releaseOver i scope = true → i.st.arrived = true → s'.deadBar i o e ph 0 = false →
      (e.phase = ph → Completes (.bararw y) s s' i i.nextPc i.active {}) ∧
      (e.phase ≠ ph → noBarrierWait s' = true → Parks (.bararw y) s i (.barrier num ph) fun t => SameElsewhere s' t i.r.g)) ∧
    (releaseOver i scope = true → i.st.arrived = false → s'.deadBar i o e ph 1 = false →
      (e.arrive + 1 < e.expect → e.phase ≠ ph → noBarrierWait s' = true → Parks (.bararw y) s i (.barrier num ph) fun t =>
        barsOf t o.core = (barsOf s' o.core).set k (some { e with arrive := e.arrive + 1 }) ∧ SameMachine s' t i.r.g) ∧
      (e.expect ≤ e.arrive + 1 → e.phase ≠ ph → noBarrierWait s' = true → noEventWait s' = true → Ends (.bararw y) s i fun t g' =>
        barsOf t o.core = (barsOf s' o.core).set k (some { e with arrive := 0, phase := ph }) ∧
        RegsAfter i.g g' i.r.num 0 {} ∧ GoesOn g' i.r.num i.nextPc ∧ t.mem = s'.mem))) ∧
  (∀ y s s' i o k e, let x := SForm.enc 0xC4 y
    Issues s x s' i → barHere s' i.t x.a.toNat o k e → Completes (.barstat y) s s' i i.nextPc i.active { s := [(x.d.toNat, e.status)] })

/-! ### Events and mailboxes (R162 to R169, R424 to R428) -/

/-- Nothing of a group has changed but its event slots, their pending bits and their mask. -/
def OnlyEvents (i : Iss) (g' : Group) : Prop :=
  RegsAfter i.g g' i.r.num 0 {} ∧ SameGroup i.g { g' with events := i.g.events, pe := i.g.pe, em := i.g.em } i.r.num

/-- EVBIND binds its slot, pending and spent at once where its condition holds; EVMASK writes the mask and EVCLR takes pending bits away, with the bindings as they are; each goes on and changes nothing else (R162 to R164, R424, R425). -/
def EventSlotsPart : Prop :=
  (∀ y s s' i, let x := XForm.enc 0xC5 y
    Issues s x s' i → noEventWait s' = true →
    let n := x.d.toNat
    let bound (holds : Bool) : Prop := Ends (.evbind y) s i fun t g' =>
      (∀ k < 16, g'.events.getD k Binding.unbound = if k = n then ⟨BitVec.ofNat 2 x.sub, holds, x.a.extractLsb' 0 6, x.w2⟩ else i.g.events.getD k Binding.unbound) ∧
      (∀ k < 16, g'.pe.getLsbD k = if k = n then holds else i.g.pe.getLsbD k) ∧ g'.em = i.g.em ∧ OnlyEvents i g' ∧ GoesOn g' i.r.num i.nextPc ∧ SameElsewhere s' t i.r.g
    (n < 16 → x.sub = 0 → bound false) ∧
    (n < 16 → x.sub = 2 → bound (!(i.t.tokens.getD (x.a.toNat % 64) 0 - x.w2).msb)) ∧
    (n < 16 → x.sub = 3 → bound (!(i.t.mbs.getD (x.a.toNat % 64) []).isEmpty)) ∧
    (∀ o k e, n < 16 → x.sub = 1 → barHere s' i.t x.a.toNat o k e → bound (decide (e.phase = x.w2.getLsbD 0)))) ∧
  (∀ c x s s' i, (∃ y, c = .evmask y ∧ x = y.enc 0xC6) ∨ (∃ y, c = .evmaskExtended y ∧ x = y.enc 0xC6) → Issues s x s' i → Ends c s i fun t g' =>
    (∀ k < 16, g'.em.getLsbD k = (i.scalar x.a).getLsbD k) ∧ g'.pe = i.g.pe ∧ g'.events = i.g.events ∧ OnlyEvents i g' ∧ GoesOn g' i.r.num i.nextPc ∧ SameElsewhere s' t i.r.g) ∧
  (∀ c x s s' i, (∃ y, c = .evclr y ∧ x = y.enc 0xC7) ∨ (∃ y, c = .evclrExtended y ∧ x = y.enc 0xC7) → Issues s x s' i → Ends c s i fun t g' =>
    (∀ k < 16, g'.pe.getLsbD k = (i.g.pe.getLsbD k && !(i.scalar x.a).getLsbD k)) ∧ g'.em = i.g.em ∧ g'.events = i.g.events ∧ OnlyEvents i g' ∧ GoesOn g' i.r.num i.nextPc ∧
      SameElsewhere s' t i.r.g)

/-- WAITANY with a pending slot of its set that is not masked goes to the handler of the lowest one, names it in `$evn` and clears its pending bit; with none it parks, and where every slot of the set is dead it raises the dead-wait trap (R165, R173, R426). -/
def WaitsForEventsPart : Prop :=
  ∀ y s s' i, let x := XForm.enc 0xC8 y
    Issues s x s' i →
    let set : BitVec 16 := x.c ++ x.b
    let pending (k : Nat) : Bool := set.getLsbD k && !i.g.em.getLsbD k && i.g.pe.getLsbD k
    let dead (k : Nat) : Bool := !(set.getLsbD k && !i.g.em.getLsbD k) || decide ((i.g.events.getD k Binding.unbound).kind = 0) || ((i.g.events.getD k Binding.unbound).spent && !i.g.pe.getLsbD k)
    (∀ n s2 h, (List.range 16).find? pending = some n → s'.dispatch i.t i.g set x.win x.ofs n = .ok s2 h → Ends (.waitany y) s i fun t g' =>
      GoesOn g' i.r.num (i.st.pc + h) ∧ (g'.strand i.r.num).evn = BitVec.ofNat 5 n ∧ (∀ k < 16, g'.pe.getLsbD k = (i.g.pe.getLsbD k && k ≠ n)) ∧
      g'.em = i.g.em ∧ g'.events = i.g.events ∧ RegsAfter i.g g' i.r.num 0 {} ∧ SameElsewhere s2 t i.r.g) ∧
    ((List.range 16).find? pending = none → (List.range 16).all dead = true → Traps (.waitany y) s s' i { cause := 0x21#8, why := waitDesc 2 set.toNat, la := x.la }) ∧
    ((List.range 16).find? pending = none → (List.range 16).all dead = false → Parks (.waitany y) s i (.waitany set x.win x.ofs i.st.pc) fun t => SameElsewhere s' t i.r.g)

/-- A team's mailbox, wherever the team stands. -/
def mailOf (s : State) (ctx : BitVec 8) (v : BitVec 16) (k : Nat) : List DWord := ((s.anyTeam? ctx v).map fun t => t.mbs.getD k []).getD []

/-! ### Matrix passes as they are asked for (R170 to R172, R255 to R263, R429 to R431) -/

/-- The convergence registers of a core. -/
def convsOf (s : State) (k : Nat) : List (Option ConvReg) := (s.core k).convs.toList

/-! ### System instructions (R274, R275, R435 to R441) -/

/-- A field of an image: n bytes at an offset, the first lowest. -/
def fld (b : List Byte) (o n : Nat) : Nat := leNat ((b.drop o).take n)

/-- An image of a strand-table entry (R126). -/
structure EntryImage (st : Strand) (b : List Byte) : Prop where
  length : b.length = 128
  free : st.valid = false → b = List.replicate 128 0
  place : st.valid = true → fld b 0 8 = st.pc.toNat ∧ fld b 8 4 = st.mask.toNat ∧ fld b 12 4 = st.taken.toNat
  order : st.valid = true → st.order.length ≤ 15 → fld b 20 1 % 16 = st.order.length ∧
    ∀ n < 15, fld b 16 4 / 2 ^ (28 - 2 * n) % 4 = (st.order.getD n 0).toNat
  state : st.valid = true → fld b 20 1 / 16 = st.state.code + (if st.arm then 4 else 0) + 8
  small : st.valid = true → fld b 21 1 = st.parent.toNat ∧ fld b 22 1 = st.evn.toNat ∧ fld b 23 1 = st.folds % 16
  set : st.valid = true → (∀ k < 256, (fld b 24 32).testBit k = (st.vset.getLsbD k && !st.vseal.getLsbD k)) ∧
    ∀ k < 8, (fld b 56 1).testBit k = (decide (k ≠ 0) && st.pset.getLsbD k && !st.pseal.getLsbD k)
  priv : st.valid = true → ∀ j < 4, fld b (64 + 8 * j) 8 = (st.priv.getD j 0).toNat
  zeros : fld b 57 7 = 0 ∧ fld b 96 32 = 0

/-- An image of the strand table (R126). -/
def TableImage (g : Group) (b : List Byte) : Prop := b.length = 2048 ∧ ∀ k < 16, EntryImage (g.strand k) ((b.drop (128 * k)).take 128)

/-- An image of the fold stack (R132): records from the bottom up, zero beyond the last. -/
def FoldImage (g : Group) (b : List Byte) : Prop :=
  b.length = 1024 ∧ ∀ n < 16,
    match g.folds[n]? with
    | none => fld b (64 * n) 64 = 0
    | some f => fld b (64 * n) 8 = f.jpc.toNat ∧ fld b (64 * n + 8) 4 = f.tmask.toNat ∧ fld b (64 * n + 12) 4 = f.nmask.toNat ∧ fld b (64 * n + 16) 1 = f.phase.toNat ∧
        fld b (64 * n + 17) 7 = f.npc.toNat / 4 % 2 ^ 55 ∧ fld b (64 * n + 24) 32 = f.fvset.toNat ∧ fld b (64 * n + 56) 1 = (f.fpset &&& 0xFE#8).toNat ∧ fld b (64 * n + 57) 7 = 0

/-- An image of the fault record (R271). -/
structure RecordImage (r : FaultRecord) (b : List Byte) : Prop where
  length : b.length = 1280
  head : fld b 0 2 = r.fset.toNat ∧ fld b 2 1 = r.gcause.toNat ∧ fld b 3 1 = r.primary.toNat ∧ fld b 4 4 = 0 ∧ fld b 8 8 = r.time.toNat ∧ fld b 16 48 = 0
  faults : ∀ k < 16, let e := r.faults.getD k FaultEntry.zero; let o := 64 + 48 * k
    fld b o 8 = e.pc.toNat ∧ fld b (o + 8) 1 = e.cause.toNat ∧ fld b (o + 9) 1 = e.la.toNat ∧ fld b (o + 10) 2 = e.shadow.toNat ∧ fld b (o + 12) 4 = e.lanes.toNat ∧
      fld b (o + 16) 8 = e.faddr.toNat ∧ fld b (o + 24) 16 = e.lcause.toNat ∧ fld b (o + 40) 8 = e.detail.toNat
  tree : ∀ k < 16, ∀ e, r.tree[k]? = some e → fld b (832 + 16 * k) 8 = e.word.toNat ∧ fld b (840 + 16 * k) 4 = e.mask.toNat ∧ fld b (844 + 16 * k) 4 = e.order.toNat
  waits : (∀ k < 16, fld b (1088 + 8 * k) 8 = (r.waits.getD k 0).toNat) ∧ fld b 1216 64 = 0

/-- An image of a part of a group's strand state (R437). -/
def PartImage (g : Group) (part : Nat) (b : List Byte) : Prop :=
  if part = 0 then TableImage g b else if part = 1 then FoldImage g b else RecordImage g.record b

/-- An image of a group's part of a team image (R279), in the sections whose layout the spec gives. -/
structure ContextImage (g : Group) (b : List Byte) : Prop where
  length : b.length = 19712 + 128 * g.vregs
  v : ∀ j < g.vregs, ∀ l < 32, fld b (128 + 128 * j + 4 * l) 4 = (vlane g j l).toNat
  seed : ∀ l < 32, fld b (128 + 128 * g.vregs + 4 * l) 4 = (seedLane g l).toNat
  s : ∀ k < 156, fld b (256 + 128 * g.vregs + 8 * k) 8 = (g.s.getD k 0).toNat
  p : ∀ k < 8, fld b (1536 + 128 * g.vregs + 4 * k) 4 = (g.p.getD k 0).toNat
  table : TableImage g ((b.drop (1664 + 128 * g.vregs)).take 2048)
  folds : FoldImage g ((b.drop (3712 + 128 * g.vregs)).take 1024)
  slides : ∀ k < 8, (b.drop (4736 + 128 * g.vregs + 16 * k)).take 16 = if (g.slide k).bound then (g.slide k).bytes else List.replicate 16 0
  events : (∀ k < 16, fld b (4864 + 128 * g.vregs + 8 * k) 8 = (g.events.getD k Binding.unbound).word) ∧
    fld b (4992 + 128 * g.vregs) 2 = g.pe.toNat ∧ fld b (4994 + 128 * g.vregs) 2 = g.em.toNat
  record : RecordImage g.record ((b.drop (18304 + 128 * g.vregs)).take 1280)

/-- An image leaves as stores of the handler strand, in pieces of 128 bytes after the part's address (R437). -/
def ImageLeaves (c : Instr) (s s2 : State) (i : Iss) (b : List Byte) (ts : List Target) : Prop :=
  StoreEnters c s s2 i false false ((List.range (b.length / 128)).map fun k => ⟨32 + k, ts.getD k .nonres, (b.drop (128 * k)).take 128, false⟩) i.st.mask [(7, 0)]

/-- Whether something in flight still writes registers of a group: a load, an atomic or a long-latency result (R438). -/
def writesInFlight (g : Group) : Bool := g.loads.any (fun l => decide (l.dest ≠ .store)) || !g.longs.isEmpty

/-- STRSAVE puts the image of its part, and CTXSAVE that of the group's part of the team image, in the layouts of R126, R132, R271 and R279, into the store buffer piece by piece and clears p7; CTXSAVE first waits for what writes the group's registers; where a page is not resident nothing moves and p7 is set in the handler's lanes (R188, R392, R437, R438). -/
def StrandSavesPart : Prop :=
  (∀ y s s' i, let x := XForm.enc 0xE1 y
    let part := (x.mod.extractLsb' 0 2).toNat
    IssuesWith flag7 s x s' i →
    (i.g.bufferFull i.st 0 = true → Waits (.strsave y) s i) ∧
    ∀ s2 r, i.g.bufferFull i.st 0 = false → s'.imageTargets i i.addrOnce (if part = 0 then 16 else if part = 1 then 8 else 10) .write = .ok s2 r →
      (r = none → Completes (.strsave y) s (s2.dropImageLines i.t.core) i i.nextPc i.st.mask { p := [(7, i.st.mask)] }) ∧
      (∀ ts, r = some ts → ∃ b, PartImage i.g part b ∧ ImageLeaves (.strsave y) s s2 i b ts)) ∧
  (∀ y s s' i, let x := XForm.enc 0xE3 y
    IssuesWith (fun _ i => allRegs i false) s x s' i → i.g.vregs ≤ 256 →
    ((writesInFlight i.g || i.g.bufferFull i.st 0) = true → Waits (.ctxsave y) s i) ∧
    ∀ s2 r, writesInFlight i.g = false → i.g.bufferFull i.st 0 = false →
      State.imageTargets { s' with free := s'.free + 32768 } i i.addrOnce (154 + i.g.vregs) .write = .ok s2 r →
      (r = none → Completes (.ctxsave y) s (s2.dropImageLines i.t.core) i i.nextPc i.st.mask { p := [(7, i.st.mask)] }) ∧
      (∀ ts, r = some ts → ∃ b, ContextImage i.g b ∧ ImageLeaves (.ctxsave y) s s2 i b ts))

/-- A strand but for its place, its state and its own scalars. -/
def Machine.Strand.sansLoad (a : Strand) : Strand := { a with pc := 0, state := .ready, priv := Vector.replicate 4 0, park := none, why := 0, rel := none, look := false }

/-- Whether an arm of the table ends by an image of it (R437). -/
def armEnds (g : Group) (k : Nat) (b : List Byte) : Bool :=
  let st := g.strand k
  st.valid && decide (fld b (128 * k + 20) 1 / 16 % 4 = 3) && decide (st.state ≠ .ended) && st.arm && decide (st.folds = 0)

/-- A table image that STRLOAD takes (R437): each entry's fields are the group's own, but for the PC, which has bits [1:0] zero and which a faulting strand keeps, PRIV, and STATE, where ready and waiting count as one and an arm without records may end. -/
def TakenTable (g : Group) (b : List Byte) : Prop :=
  ∀ k < 16, let st := g.strand k
    let e := (b.drop (128 * k)).take 128
    (st.valid = false → EntryImage st e) ∧
    (st.valid = true → fld e 0 8 % 4 = 0 ∧ (g.record.fset.getLsbD k = true → fld e 0 8 = st.pc.toNat) ∧
      (∃ e', EntryImage st e' ∧ (e'.drop 8).take 12 = (e.drop 8).take 12 ∧ (e'.drop 21).take 43 = (e.drop 21).take 43 ∧ e'.drop 96 = e.drop 96 ∧
        fld e 20 1 % 16 = fld e' 20 1 % 16 ∧ fld e 20 1 / 64 = fld e' 20 1 / 64) ∧
      (armEnds g k b = true ∨ fld e 20 1 / 16 % 4 = st.state.code ∨ (fld e 20 1 / 16 % 4 ≤ 1 ∧ st.state.code ≤ 1)))

/-- STRLOAD of the fault record takes the PC of each entry whose FSET bit is set, remembers which it has changed, and refuses a PC that is no multiple of 4; STRLOAD of the strand table takes PC, but not of a faulting strand, and PRIV of each valid entry, ends the arms whose STATE becomes 3, clears their FSET bits, and refuses any other image that differs from the table; both clear p7, or set it where a page is not resident, and wait for the handler's stores (R275, R437). -/
def StrandLoadsPart : Prop :=
  ∀ y s s' i, let x := XForm.enc 0xE2 y
    let part := (x.mod.extractLsb' 0 2).toNat
    IssuesWith flag7 s x s' i →
    (i.storesWait = true → Waits (.strload y) s i) ∧
    ∀ s2 r, i.storesWait = false → s'.imageTargets i i.addrOnce (if part = 0 then 16 else 10) .read = .ok s2 r →
      (r = none → Completes (.strload y) s (s2.dropImageLines i.t.core) i i.nextPc i.st.mask { p := [(7, i.st.mask)] }) ∧
      ∀ ts s3 b, r = some ts → s2.readPieces i ts = .ok s3 (some b) →
        let u := s3.dropImageLines i.t.core
        let newPc (k : Nat) : DWord := BitVec.ofNat 64 (fld b (64 + 48 * k) 8)
        let after (p : Group → Prop) : Prop := Ends (.strload y) s i fun t g' =>
          RegsAfter i.g { g' with strands := i.g.strands } i.r.num i.st.mask { p := [(7, 0)] } ∧ GoesOn g' i.r.num i.nextPc ∧
          entriesOf g' = entriesOf i.g ∧ SameGroup i.g { g' with strands := i.g.strands, sb := i.g.sb, record := i.g.record, repc := i.g.repc } i.r.num ∧ SameElsewhere u t i.r.g ∧ p g'
        (part ≠ 0 → (∃ k < 16, i.g.record.fset.getLsbD k = true ∧ fld b (64 + 48 * k) 8 % 4 ≠ 0) → Traps (.strload y) s u i { cause := 0x02#8, detail := x.a.toNat, la := x.la }) ∧
        (part ≠ 0 → (∀ k < 16, i.g.record.fset.getLsbD k = true → fld b (64 + 48 * k) 8 % 4 = 0) → noBarrierWait u = true → after fun g' =>
          g'.strands.toList.map (·.sansLoad) = i.g.strands.toList.map (·.sansLoad) ∧ { g'.record with faults := i.g.record.faults } = i.g.record ∧
          ∀ k < 16, let e := i.g.record.faults.getD k FaultEntry.zero
            if i.g.record.fset.getLsbD k then g'.record.faults.getD k FaultEntry.zero = { e with pc := newPc k } ∧ g'.repc.getLsbD k = (i.g.repc.getLsbD k || decide (e.pc ≠ newPc k))
            else g'.record.faults.getD k FaultEntry.zero = e ∧ g'.repc.getLsbD k = i.g.repc.getLsbD k) ∧
        (part = 0 → ¬ TakenTable i.g b → Traps (.strload y) s u i { cause := 0x02#8, detail := x.a.toNat, la := x.la }) ∧
        (part = 0 → TakenTable i.g b → noBarrierWait u = true → after fun g' =>
          ∃ g1 : Group, g' = g1.collapse 256 ∧ ∀ k < 16, let st := i.g.strand k
            let st' := g1.strand k
            st'.sansLoad = st.sansLoad ∧
            (st.valid = true → st'.pc = (if i.g.record.fset.getLsbD k then st.pc else BitVec.ofNat 64 (fld b (128 * k) 8)) ∧ ∀ j < 4, st'.priv.getD j 0 = BitVec.ofNat 64 (fld b (128 * k + 64 + 8 * j) 8)) ∧
            (armEnds i.g k b = true → st'.state = .ended ∧ g'.record.fset.getLsbD k = false) ∧
            (armEnds i.g k b = false → st'.state = st.state ∧ g'.record.fset.getLsbD k = i.g.record.fset.getLsbD k ∧ g'.record.faults.getD k FaultEntry.zero = i.g.record.faults.getD k FaultEntry.zero))

/-- Whether the word of a binding is one that CTXLOAD takes: zero reserved fields and an object in range (R162, R438). -/
def legalBinding (v : Nat) : Bool :=
  let kind := v / 2 ^ 62 % 4
  let obj := v / 2 ^ 32 % 64
  let val := v % 2 ^ 32
  decide (v / 2 ^ 38 % 2 ^ 23 = 0) && (kind = 0 || kind = 2 || (kind = 1 && decide (obj < 32 ∧ val < 2)) || (kind = 3 && decide (obj < 8 ∧ val = 0)))

/-- A pass of a team. -/
def Machine.Pass.of (p : Pass) (t : Team) : Bool := p.ctx = t.ctx && p.vteam = t.vteam

/-- An engine that MFREEZE holds against a team: a running pass of it stands in the freeze store with the plane it computed on. -/
def frozenEngine (t : Team) (e : Engine) : Engine :=
  if e.running.any (·.of t) then { e with freeze := e.running.map (·.scanned e.active), running := none } else e

/-- The translations and words that CINV leaves (R440): what it drops, by its sub-operation, it drops on every core and every die; everything else stays. -/
structure Dropped (s t : State) (sub : Nat) (va : Nat) (ctx : BitVec 8) : Prop where
  tlbs : ∀ k < 256, (t.core k).tlb = (s.core k).tlb.filter fun e => !(decide (sub ≤ 1) && e.ctx = ctx && (sub = 1 || decide (e.va = va - va % e.leaf.size)))
  l2tlbs : ∀ d < 4, t.l2tlb.getD d [] = (s.l2tlb.getD d []).filter fun e => !(decide (sub ≤ 1) && e.ctx = ctx && (sub = 1 || decide (e.va = va - va % e.leaf.size)))
  walks : ∀ d < 4, t.walkCache.getD d [] = (s.walkCache.getD d []).filter fun e => !(sub = 2 || (decide (sub ≤ 1) && e.ctx = ctx && (sub = 1 || decide (e.va = va / 2 ^ levelShift e.level))))
  words : ∀ k < 256, (t.core k).kcache = (if sub = 3 then [] else (s.core k).kcache) ∧ (t.core k).icache = if sub = 4 then [] else (s.core k).icache

/-- A span of physical addresses has a byte of a line. -/
def meetsLine (pa n line : Nat) : Bool := decide (pa / 128 ≤ line ∧ line * 128 < pa + n)

/-- How the strand of a fault entry resumes (R151, R275): at a PC that STRLOAD has changed, with no skips; else by the kind of its cause, a kind-F one at the instruction again with the skips of its SHADOW and those that an earlier return has left beyond them, a kind-A one after its instruction. -/
def resumedAt (g : Group) (k : Nat) (st' : Strand) : Prop :=
  let e := g.record.faults.getD k FaultEntry.zero
  let st := g.strand k
  let again := if e.cause = 0x08#8 then st.pc else e.pc
  if g.repc.getLsbD k then st'.pc = e.pc ∧ st'.skips = []
  else if e.cause = 0x22#8 ∨ e.cause = 0x23#8 then st'.pc = st.pc + 4
  else if e.cause = 0x20#8 ∨ e.cause = 0x21#8 then st'.pc = e.pc
  else if e.cause = 0x24#8 ∨ e.cause = 0x30#8 ∨ e.cause = 0x31#8 ∨ e.cause = 0x32#8 then True
  else st'.pc = again ∧ st'.skips = if e.shadow = 0 ∧ st.skips = [] then [] else false :: ((List.range e.la.toNat).map fun n => e.shadow.getLsbD n) ++ st.skips.drop (e.la.toNat + 1)

/-- The log entry and the state that killing a bent for a cause leaves (R61, R282, R291). -/
structure BentKilled (s t : State) (b : Bent) (relaunch : Bool) : Prop where
  teams : ∀ u ∈ t.teams, u.bent ≠ b.id
  again : relaunch = true → ∃ b', t.bent? b.id = some b' ∧ b'.st = .wait ∧ b'.relaunch = (b.asWritten s).relaunch + 1 ∧ b'.saved = [] ∧ b'.image = none ∧ ∃ gr', t.grid? b.record = some gr' ∧ gr'.ended = false
  fails : relaunch = false → (∀ b' ∈ t.bents, b'.record ≠ b.record) ∧ ∃ gr', t.grid? b.record = some gr' ∧ gr'.ended = true ∧ gr'.failed = true

/-- A bent that runs, of a grid that has not failed and of which no bent is being committed, so that a kill applies at once (R97, R103, R292); its grid. -/
structure RunsIn (s : State) (id : Nat) (b : Bent) (gr : Grid) : Prop where
  bent : s.bent? id = some b
  grid : s.grid? b.record = some gr
  live : gr.ended = false ∧ gr.failed = false
  runs : b.st = .run ∧ b.doomed = none
  settled : ∀ o ∈ s.bents, o.record = b.record → o.st ≠ .cmt

/-! ### Sill words (R442 to R453) -/

/-- A unit of stack k is at work on a run. -/
def SillAt (s : State) (k : Nat) (u : SillUnit) (r : SillRun) : Prop := s.curSill = some k ∧ (s.stack k).unit = some u ∧ s.run? u.run = some r

/-- The byte that a step's buffered stores, performed in order, leave at an address (R449). -/
def afterStores (m : Memory) (buf : List (Nat × BitVec 256)) (b : Nat) : Byte :=
  match buf.reverse.find? fun w => decide (w.1 ≤ b ∧ b < w.1 + 32) with
  | some w => w.2.extractLsb' (8 * (b - w.1)) 8
  | none => memGet m b

/-- The unit that comes next in a wave, as it starts (R442, R445, R447). -/
def nextUnit (k : Nat) (r : SillRun) (u : SillUnit) : Option SillUnit :=
  match u.rest with
  | [] => none
  | n :: ns =>
    let atoms := r.unitAtoms k n
    some ⟨r.id, u.wave, n, if r.words.length ≤ r.bodyStart then atoms.take 1 else atoms, r.words.any isZrow, 0, Vector.replicate 8 0, Vector.replicate 8 0, [], ns, u.miss, false⟩

/-- A unit goes on (R445, R447, R449): to its next word; else its buffered stores are performed, and it starts the body for its next home atom, or the wave's next unit starts, or the wave is over. Nothing else of the machine changes but memory and what of it was in error. -/
structure SillGoesOn (s t : State) (k : Nat) (r : SillRun) (u : SillUnit) : Prop where
  word : u.pc + 1 < r.words.length → (t.stack k).unit = some { u with pc := u.pc + 1 } ∧ t.mem = s.mem
  mem : r.words.length ≤ u.pc + 1 → ∀ b, memGet t.mem b = afterStores s.mem u.buf b
  atom : r.words.length ≤ u.pc + 1 → ∀ a as, u.atoms.tail = a :: as →
    (t.stack k).unit = some { u with atoms := a :: as, pc := r.bodyStart, zStart := u.z, buf := [], replayed := false }
  unit : r.words.length ≤ u.pc + 1 → u.atoms.tail = [] → u.rest ≠ [] → (t.stack k).unit = nextUnit k r u
  wave : r.words.length ≤ u.pc + 1 → u.atoms.tail = [] → u.rest = [] → (t.stack k).unit = none ∧ (t.stack k).wavesDone = u.wave + 1
  queue : (t.stack k).queue = (s.stack k).queue
  elsewhere : ∀ j < 12, j ≠ k → t.stack j = s.stack j
  runs : t.runs = s.runs
  teams : t.teams = s.teams
  ctxs : t.ctxs = s.ctxs
  bents : t.bents = s.bents
  grids : t.grids = s.grids
  held : t.heldWrites = s.heldWrites

/-- What a lane operation says of a result: the format, the result, and the lane values of a, b and c. -/
abbrev LaneRule := FloatFmt → Nat → Nat → Nat → Nat → Prop

/-- The exact result rounded once to the lane format with RN (R451). -/
def roundsTo (f : Machine.Num → Machine.Num → Machine.Num → Machine.Num) : LaneRule := fun ff r a b c => r = ff.round .rn (f (ff.decode a) (ff.decode b) (ff.decode c)) 0

/-- An estimate: the special operands of R453, and for a finite non-zero operand a result within 2^-12, or, where the format is too coarse for that, the exact one rounded. -/
def estimates (special : FloatFmt → Machine.Num → Option Nat) (exact : Machine.Num → Machine.Num) (ff : FloatFmt) (r a : Nat) : Prop :=
  match special ff (ff.decode a) with
  | some v => r = v
  | none => withinEstimate ff r (exact (ff.decode a)) = true ∨ r = ff.round .rn (exact (ff.decode a)) 0

/-- The special operands of ZRSQE (R453). -/
def rsqSpecial (ff : FloatFmt) : Machine.Num → Option Nat
  | .nan => some ff.canonNaN
  | .inf s => some (if s then ff.canonNaN else 0)
  | .fin s m _ => if m = 0 then some (ff.withSign s ff.top) else if s then some ff.canonNaN else none

/-- The special operands of ZRCPE (R453). -/
def rcpSpecial (ff : FloatFmt) : Machine.Num → Option Nat
  | .nan => some ff.canonNaN
  | .inf s => some (ff.withSign s 0)
  | .fin s m _ => if m = 0 then some (ff.withSign s ff.top) else none

/-- The exact value of 1/√a and of 1/a for a finite non-zero operand. -/
def exactRsq : Machine.Num → Machine.Num
  | .fin _ m e => rsqrtNum m e
  | x => x
def exactRcp : Machine.Num → Machine.Num
  | .fin s m e => recip s m e
  | x => x

/-- One step of a refinement, rounded with RN (R453). -/
def step1 (ff : FloatFmt) (f : Machine.Num → Machine.Num → Machine.Num) (a b : Nat) : Nat := ff.round .rn (f (ff.decode a) (ff.decode b)) 0

/-- The difference of two numbers, with the IEEE sign of an exact zero (R451). -/
def minus (a b : Machine.Num) : Machine.Num := Machine.Num.add .rn a b.negate

/-- The Sill words that compute each lane from source lanes, with their effects (R452, R453). -/
def laneRule : Instr → Option (SillForm × LaneRule)
  | .zmov x => some (x, fun _ r _ b _ => r = b)
  | .zadd x => some (x, roundsTo fun a b _ => Machine.Num.add .rn a b)
  | .zsub x => some (x, roundsTo fun a b _ => minus a b)
  | .zmul x => some (x, roundsTo fun a b _ => a.mul b)
  | .zfma x => some (x, roundsTo fun a b c => Machine.Num.fma .rn a b c)
  | .zfms x => some (x, roundsTo fun a b c => Machine.Num.fma .rn a.negate b c)
  | .zmin x => some (x, fun ff r a b _ => r = ff.minmax false a b)
  | .zmax x => some (x, fun ff r a b _ => r = ff.minmax true a b)
  | .zabs x => some (x, fun ff r a _ _ => r = if (ff.decode a).isNaN then ff.canonNaN else a % 2 ^ (ff.width - 1))
  | .zneg x => some (x, fun ff r a _ _ => r = if (ff.decode a).isNaN then ff.canonNaN else a ^^^ 2 ^ (ff.width - 1))
  | .zrsqe x => some (x, fun ff r a _ _ => estimates rsqSpecial exactRsq ff r a)
  | .zrcpe x => some (x, fun ff r a _ _ => estimates rcpSpecial exactRcp ff r a)
  | .zrsqs x => some (x, fun ff r a b _ =>
    let t2 := step1 ff Machine.Num.mul b (step1 ff Machine.Num.mul a a)
    let t3 := step1 ff Machine.Num.mul (ff.round .rn (.fin false 1 (-1)) 0) t2
    r = step1 ff Machine.Num.mul a (step1 ff minus (ff.round .rn (.fin false 3 (-1)) 0) t3))
  | .zrcps x => some (x, fun ff r a b _ => r = step1 ff Machine.Num.mul a (step1 ff minus (ff.round .rn (.fin false 2 0) 0) (step1 ff Machine.Num.mul b a)))
  | .zcmp x => some (x, fun ff r a b _ =>
    let a := ff.decode a
    let b := ff.decode b
    let cc := x.imm.toNat % 8
    let ordered := !a.isNaN && !b.isNaN
    let holds : Bool := match cc with
      | 0 => ordered && decide (a.cmp b = .eq)
      | 1 => !(ordered && decide (a.cmp b = .eq))
      | 2 => ordered && decide (a.cmp b = .lt)
      | 3 => ordered && decide (a.cmp b ≠ .gt)
      | 4 => ordered && decide (a.cmp b = .gt)
      | _ => ordered && decide (a.cmp b ≠ .lt)
    cc < 6 → r = if holds then 2 ^ ff.width - 1 else 0)
  | .zsel x => some (x, fun _ r a b c => r = if c ≠ 0 then a else b)
  | _ => none

/-- Lane i of a z register in a shape (R443). -/
def zlaneOf (u : SillUnit) (bf : Bool) (k i : Nat) : Nat := (u.z.getD k 0).toNat / 2 ^ ((if bf then 16 else 32) * i) % 2 ^ (if bf then 16 else 32)

/-- Source B of a lane: a parameter, or a register (R450). -/
def zsourceB (r : SillRun) (u : SillUnit) (x : SillForm) (i : Nat) : Nat :=
  if x.qb then (r.q.getD x.b.toNat 0).toNat % 2 ^ (if x.t then 16 else 32) else zlaneOf u x.t x.b.toNat i

/-- A Sill word writes a register, every other field of its unit stays, and the unit goes on. -/
def SillWrites (c : Instr) (s : State) (k : Nat) (r : SillRun) (u : SillUnit) (d : Nat) (p : SillUnit → Prop) : Prop :=
  ∃ t u', exec c s = .next t ∧ SillGoesOn s t k r u' ∧ p u' ∧ (∀ j < 8, j ≠ d → u'.z.getD j 0 = u.z.getD j 0) ∧ { u' with z := u.z } = u

/-- Each Sill word that computes writes in every lane of zD what its rule gives of the lanes of its sources, in the shape that T names, changes no other register, and its unit goes on: ZMOV to ZSEL, ZCVTN and ZCVTW, where no result meets a mismatch (R443, R449 to R453). -/
def SillLanesPart : Prop :=
  (∀ c s k u r x rule, SillAt s k u r → u.miss = 0 → laneRule c = some (x, rule) →
    SillWrites c s k r u x.d.toNat fun u' => ∀ i < if x.t then 16 else 8,
      rule (if x.t then ffBF16 else ffF32) (zlaneOf u' x.t x.d.toNat i) (zlaneOf u x.t x.a.toNat i) (zsourceB r u x i) (zlaneOf u x.t x.c.toNat i)) ∧
  (∀ x s k u r, SillAt s k u r → u.miss = 0 → SillWrites (.zcvtn x) s k r u x.d.toNat fun u' => ∀ i < 8,
    zlaneOf u' true x.d.toNat i = ffBF16.round .rn (ffF32.decode (zlaneOf u false x.a.toNat i)) 0 ∧
    zlaneOf u' true x.d.toNat (8 + i) = ffBF16.round .rn (ffF32.decode (zlaneOf u false x.b.toNat i)) 0) ∧
  (∀ x s k u r, SillAt s k u r → u.miss = 0 → SillWrites (.zcvtw x) s k r u x.d.toNat fun u' => ∀ i < 8,
    zlaneOf u' false x.d.toNat i = ffF32.round .rn (ffBF16.decode (zlaneOf u true x.a.toNat (8 * (x.imm.toNat % 2) + i))) 0)

/-- Words whose results are checked (R449). -/
def sillChecked : Instr → Bool
  | .zst _ | .zcvtn _ | .zcvtw _ => true
  | c => (laneRule c).isSome

/-- ZLD gives the atom of its plane at the cursor, or the value that the step has stored there; ZST buffers its register for the end of the step, the later of two to one atom; ZROW ends the prologue and starts a step; ZNOP and ZPLANES do nothing. A first mismatch of a checked result discards the step's stores and runs the step again from its registers at the start, a second one stops the run on every stack and quarantines the unit, and so does the run stop at uncorrectable data that ZLD reads (R444 to R446, R449, R452, R456). -/
def SillStepsPart : Prop :=
  (∀ x s k u r, SillAt s k u r →
    let p := x.imm.toNat % 8
    let cursor : Option Nat := (u.atoms.head?).bind fun a => r.pa (a + p * r.planes.2)
    (∀ x' : SillForm, ∀ c ∈ [Instr.znop x', Instr.zplanes x'], ∃ t, exec c s = .next t ∧ SillGoesOn s t k r u) ∧
    (∀ x' : SillForm, ∃ t, exec (.zrow x') s = .next t ∧ SillGoesOn s t k r { u with inPrologue := false, zStart := u.z, replayed := false }) ∧
    (∀ pa w, cursor = some pa → u.buf.find? (·.1 = pa) = some w → SillWrites (.zld x) s k r u x.d.toNat fun u' => u'.z.getD x.d.toNat 0 = w.2) ∧
    (∀ pa, cursor = some pa → u.buf.find? (·.1 = pa) = none → s.bad pa 32 = false → SillWrites (.zld x) s k r u x.d.toNat fun u' =>
      ∀ b < 32, (u'.z.getD x.d.toNat 0).extractLsb' (8 * b) 8 = memGet s.mem (pa + b)) ∧
    (∀ pa, cursor = some pa → u.miss = 0 → ∃ t u', exec (.zst x) s = .next t ∧ SillGoesOn s t k r u' ∧ { u' with buf := u.buf } = u ∧
      u'.buf = (u.buf.filter (·.1 ≠ pa)) ++ [(pa, u.z.getD x.a.toNat 0)])) ∧
  (∀ c s k u r, SillAt s k u r → sillChecked c = true → u.miss ≠ 0 →
    (u.replayed = false → ∃ t : State, exec c s = .next t ∧ t.mem = s.mem ∧
      (t.stack k).unit = some { u with pc := if u.inPrologue then r.start else r.bodyStart, z := u.zStart, buf := [], miss := u.miss - 1, replayed := true }) ∧
    (u.replayed = true → ∃ t : State, exec c s = .next t ∧ t.mem = s.mem ∧ (∀ j < 12, ∀ v, (t.stack j).unit = some v → v.run ≠ r.id) ∧
      (t.run? r.id).map (·.stage) = some .aborted ∧ 6144 * k + u.bank ∈ t.root.quarSill)) ∧
  (∀ x s k u r pa, SillAt s k u r → (u.atoms.head?).bind (fun a => r.pa (a + x.imm.toNat % 8 * r.planes.2)) = some pa → u.buf.find? (·.1 = pa) = none → s.bad pa 32 = true →
    ∃ t : State, exec (.zld x) s = .next t ∧ t.mem = s.mem ∧ (∀ j < 12, ∀ v, (t.stack j).unit = some v → v.run ≠ r.id) ∧ (t.run? r.id).map (·.stage) = some .aborted)

/-! ### What else happens in a group (R127, R145, R146, R149, R160, R174, R271 to R275, R283) -/

/-- The group of an event, and the group as the event's step leaves it. -/
def GroupStep (c : Instr) (s : State) (r : GroupRef) (p : State → Group → Prop) : Prop := ∃ (t : State) (g' : Group), exec c s = .next t ∧ t.group? r = some g' ∧ p t g'

/-- A word of TREE (R271): the strand's place, depth and state as the drain leaves them. -/
def treeWord (st : Strand) : Nat := if st.valid then st.pc.toNat % 2 ^ 57 + st.order.length * 2 ^ 57 + st.state.code * 2 ^ 61 + 2 ^ 63 else 0

/-- The handler has been entered (R271, R273): the handler strand stands at the base of the handler image with every lane that has not left, its twelve supervisor registers are zero, TREE is taken, and the group's strands, registers and fault entries stay as they are. -/
structure HandlerEntered (g g' : Group) (base : Nat) (lanes : Mask) : Prop where
  mode : g'.trap = .handling ∧ g'.repc = 0
  handler : ∃ h, g'.handler = some h ∧ h.valid = true ∧ h.state = .ready ∧ h.pc = BitVec.ofNat 64 base ∧ h.mask = lanes &&& ~~~g.gone ∧ h.folds = 0 ∧ h.arm = false
  sup : ∀ k < 12, g'.sup.getD k 1 = 0
  tree : ∀ k < 16, ∀ e, g'.record.tree[k]? = some e → e.word = BitVec.ofNat 64 (treeWord (g.strand k)) ∧ ((g.strand k).valid = true → e.mask = (g.strand k).mask)
  record : g'.record.fset = g.record.fset ∧ g'.record.gcause = g.record.gcause ∧ g'.record.primary = g.record.primary ∧ g'.record.time = g.record.time ∧ g'.record.faults = g.record.faults
  strands : g'.strands = g.strands
  registers : g'.v = g.v ∧ g'.p = g.p ∧ g'.s = g.s ∧ g'.seed = g.seed
  flight : g'.sb = g.sb ∧ g'.acks = g.acks ∧ g'.loads = g.loads ∧ g'.longs = g.longs ∧ g'.slides = g.slides ∧ g'.events = g.events

/-- A trap of the whole group has opened (R272): its drain has begun, no entry is written, and GCAUSE names it unless another trap was open. -/
structure GroupTrapped (g g' : Group) (cause : BitVec 8) : Prop where
  opened : g.trap = .none → g'.trap = .draining ∧ g'.record = { g.record with gcause := cause, primary := 0, time := g'.record.time }
  kept : g.trap ≠ .none → g'.trap = g.trap ∧ g'.record = g.record
  strands : g'.strands = g.strands ∧ g'.v = g.v ∧ g'.p = g.p ∧ g'.s = g.s ∧ g'.sb = g.sb ∧ g'.loads = g.loads

/-- LONG_LATENCY_COMPLETION writes the results of its operation in its lanes and takes it out of flight, or raises the fault of an access that has issued; STRAND_FREE frees an ended strand of which nothing is in flight, and its children lose their parent; HANDLER_ENTRY enters the handler of a group whose trap has drained; GROUP_WATCHDOG opens the dead-wait trap of a group whose strands have waited for the interval while nothing issued, and DBGSTOP a debug stop that was asked for once nothing in flight writes the group's registers; each does nothing before that (R127, R149, R174, R271 to R273, R283). -/
def GroupEventsPart : Prop :=
  (∀ s r g o, s.operand.g = r → s.group? r = some g → g.longs.find? (·.id = s.operand.n) = some o → g.ended = false → GroupStep .longLatencyCompletion s r fun t g' =>
    RegsAfter g g' o.sid o.mask { v := o.writes } ∧ g'.longs = g.longs.filter (·.id ≠ o.id) ∧ g'.loads = g.loads ∧ g'.sb = g.sb ∧ g'.acks = g.acks ∧ g'.record = g.record ∧ SameElsewhere s t r) ∧
  (∀ s r g f, s.operand.g = r → s.group? r = some g → g.longs.find? (·.id = s.operand.n) = none → g.failing.find? (·.id = s.operand.n) = some f →
    f.raised = false → (g.trap ≠ .handling ∨ f.sid = handlerSid) → exec .longLatencyCompletion s = .next (s.takeTrap (strandAt r f.sid) { cause := f.entry.cause, pc := some f.entry.pc, la := f.entry.la })) ∧
  (∀ s r g k, s.operand.g = r → s.operand.k = k → k < 16 → s.group? r = some g → g.ended = false →
    let st := g.strand k
    let idle := g.loads.all (·.sid ≠ k) && g.longs.all (·.sid ≠ k) && g.failing.all (·.sid ≠ k) && g.sb.all (·.sid ≠ k)
    ((st.valid = false ∨ st.state ≠ .ended ∨ idle = false) → exec .strandFree s = .next s) ∧
    (st.valid = true → st.state = .ended → idle = true → GroupStep .strandFree s r fun t g' =>
      (g'.strand k).valid = false ∧
      (∀ j < 16, j ≠ k → let a := g.strand j
        let b := g'.strand j
        b.valid = a.valid ∧ b.mask = a.mask ∧ b.taken = a.taken ∧ b.pc = a.pc ∧ b.state = a.state ∧ b.vset = a.vset ∧ b.pset = a.pset ∧ b.folds = a.folds ∧ b.arm = a.arm ∧ b.priv = a.priv ∧
          (a.valid = true → b.parent = if a.parent = BitVec.ofNat 5 k then 0x1F#5 else a.parent)) ∧
      g'.v = g.v ∧ g'.p = g.p ∧ g'.s = g.s ∧ g'.seed = g.seed ∧ entriesOf g' = entriesOf g ∧ g'.loads = g.loads ∧ SameElsewhere s t r)) ∧
  (∀ s r g t, s.operand.g = r → s.team? r.ctx r.vteam = some t → s.group? r = some g →
    let due := decide (g.trap = .draining) && g.drained s.cycle && s.bentRuns t
    let base := (s.handlerCode r.ctx).base
    (due = false → exec .handlerEntry s = .next s) ∧
    (due = true → base ≠ 0 → GroupStep .handlerEntry s r fun u g' => HandlerEntered g g' base t.lanes ∧ SameElsewhere s u r) ∧
    (∀ b gr, due = true → base = 0 → RunsIn s t.bent b gr → ∃ u : State, exec .handlerEntry s = .next u ∧ BentKilled s u b false)) ∧
  (∀ s r g t, s.operand.g = r → s.team? r.ctx r.vteam = some t → s.group? r = some g → (s.handlerCode r.ctx).base ≠ 0 →
    let due := g.everyone.any (fun x => decide (x.2.why ≠ 0)) && decide (2 ^ (s.core t.core).wdlog ≤ g.watch) && s.bentRuns t
    (due = false → exec .groupWatchdog s = .next s) ∧
    (due = true → g.trap ≠ .handling → GroupStep .groupWatchdog s r fun u g' => GroupTrapped g g' 0x21#8 ∧ SameElsewhere s u r) ∧
    (∀ b gr, due = true → g.trap = .handling → RunsIn s t.bent b gr → ∃ u : State, exec .groupWatchdog s = .next u ∧ BentKilled s u b false)) ∧
  (∀ s r g t, s.operand.g = r → s.team? r.ctx r.vteam = some t → s.group? r = some g → (s.handlerCode r.ctx).base ≠ 0 →
    let busy := g.loads.any (fun l => decide (l.dest ≠ .store)) || !g.longs.isEmpty || !g.failing.isEmpty || g.marks.any (·.pending)
    let due := g.dbg && !busy && decide (g.trap = .none) && s.bentRuns t
    (due = false → exec .dbgstop s = .next s) ∧
    (due = true → GroupStep .dbgstop s r fun u g' => GroupTrapped g g' 0x24#8 ∧ g'.dbg = false ∧ SameElsewhere s u r))

/-- What BSPILL records (R276): the entry acted on and the outcome. -/
def spillRecord (ctx v num outcome : Nat) : DWord := BitVec.ofNat 64 (outcome * 2 ^ 30 + num * 2 ^ 24 + v * 2 ^ 8 + ctx)

/-- Nothing has changed but one field of cores. -/
def OnlyBspill (s t : State) (core : Nat) (w : DWord) : Prop :=
  coreField (·.bspill) t = (coreField (·.bspill) s).modify core (fun _ => w) ∧ t.mem = s.mem ∧ t.teams = s.teams ∧ t.bents = s.bents ∧
    coreField (·.bars.toList) t = coreField (·.bars.toList) s

/-- STARVATION_QUEUE_ENTRY puts a strand that has been ready for 256 cycles without issuing behind those that starve in its quadrant; FAIRNESS_TIMER gives the first ready strand after the one that issued last before another, or the earliest where none stands after it, priority for 64 issue cycles and starts the timer again; both do nothing before that. BSPILL records outcome 2 for a reserved bit or an entry that is not there, and 1 for an entry that is not quiet or is the issuing team's, which stays; otherwise it writes the entry's image at its place and frees the entry (R145, R146, R154, R160, R276). -/
def GroupSchedulingPart : Prop :=
  (∀ s r g t k, s.operand.g = r → s.operand.k = k → s.team? r.ctx r.vteam = some t → s.group? r = some g →
    let q := r.gidx % 4
    let stands := ((s.core t.core).starve.getD q []).filter s.starving
    let due := (g.strand k).valid && (g.strand k).isReady && !stands.contains (r, k) && decide ((g.strand k).readyAt + 256 ≤ s.cycle)
    (due = false → exec .starvationQueueEntry s = .next s) ∧
    (due = true → t.core < 256 → ∃ u : State, exec .starvationQueueEntry s = .next u ∧ (u.core t.core).starve.getD q [] = stands ++ [(r, k)] ∧
      { u with cores := s.cores } = s ∧ ∀ j, { u.core j with starve := (s.core j).starve } = s.core j)) ∧
  (∀ s r g t, s.operand.g = r → s.team? r.ctx r.vteam = some t → s.group? r = some g →
    (g.fair < (s.core t.core).fairint → exec .fairnessTimer s = .next s) ∧
    (∀ x, (s.core t.core).fairint ≤ g.fair → (g.readyOrder.find? fun y => orderBefore (g.strand g.fairLast).order y.2.order).or g.readyOrder.head? = some x → GroupStep .fairnessTimer s r fun u g' =>
      g' = { g with fair := 0, fairFor := 64, fairSid := x.1 } ∧ SameElsewhere s u r)) ∧
  (∀ s core w, s.operand.n = core → s.operand.v = w →
    let n := w.toNat
    let ctx := n % 256
    let v := n / 256 % 65536
    let num := n / 2 ^ 24 % 32
    (2 ^ 30 ≤ n → ∃ u : State, exec .bspill s = .next u ∧ OnlyBspill s u core (if n / 2 ^ 29 % 2 = 1 then spillRecord 0 0 0 2 else spillRecord ctx v num 2)) ∧
    (n < 2 ^ 29 → s.anyTeam? (BitVec.ofNat 8 ctx) (BitVec.ofNat 16 v) = none → ∃ u : State, exec .bspill s = .next u ∧ OnlyBspill s u core (spillRecord ctx v num 2)) ∧
    (∀ o e, n < 2 ^ 29 → s.anyTeam? (BitVec.ofNat 8 ctx) (BitVec.ofNat 16 v) = some o → s.bar? o num = some e → s.entryOwner e = some o → e.num = num →
      (s.spillable s.operand.g.ctx s.operand.g.vteam e = false → ∃ u : State, exec .bspill s = .next u ∧ OnlyBspill s u core (spillRecord e.ctx.toNat e.vteam.toNat num 1)) ∧
      (∀ s2 pa, s.spillable s.operand.g.ctx s.operand.g.vteam e = true → s.spillPlace o num .write = (s2, some pa) → s2.held pa = false → 65536 ≤ pa → pa + 16 ≤ memTop → core < 256 →
        ∃ u : State, exec .bspill s = .next u ∧ (u.core core).bspill = spillRecord e.ctx.toNat e.vteam.toNat num 0 ∧
          (∀ b, countedAt s o b = false → memGet u.mem b = if pa ≤ b ∧ b < pa + 16 then e.bytes.getD (b - pa) 0 else memGet s2.mem b) ∧
          ∀ k, (s.core (o.homeOf num)).barSlot? o num = some k → barsOf u (o.homeOf num) = (barsOf s (o.homeOf num)).set k none)))

/-! ### Matrix passes at work (R249 to R251, R258 to R266) -/

/-- A pass ends (R264): it has left the engine, no mark of it is left in its groups, its barrier's entry holds its status word, one agent fewer and one arrival more, and memory is as before. -/
def PassEnds (c : Instr) (s : State) (k : Nat) (p : Pass) (o : Team) (b : Nat) (e : BarEntry) (code rows : Nat) (q : State → DWord → Prop) : Prop :=
  ∃ (t : State) (w : DWord), exec c s = .next t ∧ (t.engines.getD k Engine.reset).running = none ∧ (∀ z ∈ (t.engines.getD k Engine.reset).table, z.id ≠ p.id) ∧
    barsOf t o.core = (barsOf s o.core).set b (some { e with status := w, agents := e.agents - 1, arrive := e.arrive + 1 }) ∧
    (∀ x ∈ p.sigs, ∀ g', t.group? ⟨p.ctx, p.vteam, x.gidx⟩ = some g' → ∀ m ∈ g'.marks, m.pass ≠ p.id) ∧ t.mem = s.mem ∧
    w.toNat % 16 = code ∧ w.toNat / 2 ^ 16 % 2 ^ 9 = rows ∧ w.toNat / 2 ^ 8 % 64 = k ∧ w.toNat / 2 ^ 48 = min 0xFFFF ((s.cycle - p.entered) / 16) ∧ w.toNat / 2 ^ 14 % 4 = 0 ∧ w.toNat / 2 ^ 25 % 2 ^ 7 = 0 ∧ q t w

/-- The chunks of 32 of a list. -/
def inChunks {α : Type} (k : Nat) (l : List α) : List (List α) := (List.range (k / 32)).map fun j => (l.drop (32 * j)).take 32

/-- An INT32 result of a row and a column (R251): exact sums of chunks of 32 products, added in turn from zero, then the old value, every addition saturating; and whether one did. -/
def dotInt (k : Nat) (a b : List Int) (old : Option Int) : Int × Bool :=
  let clamp (x : Int) : Int := max (-(2 ^ 31)) (min (2 ^ 31 - 1) x)
  let add (acc : Int × Bool) (x : Int) : Int × Bool := (clamp (acc.1 + x), acc.2 || decide (clamp (acc.1 + x) ≠ acc.1 + x))
  (((inChunks k (List.zipWith (· * ·) a b)).map List.sum) ++ old.toList).foldl add (0, false)

/-- A binary32 result of a row and a column (R250): exact sums of chunks of 32 products, each rounded once, added in order from the first, then the old value, each addition rounded. -/
def dotFloat (k : Nat) (a b : List Machine.Num) (old : Option Nat) : Nat :=
  let round (x : Machine.Num) : Nat := ffF32.round .rn x 0
  let chunk (ps : List Machine.Num) : Machine.Num := match ps with
    | [] => .fin false 0 0
    | x :: r => r.foldl (Machine.Num.add .rn) x
  match ((inChunks k (List.zipWith Machine.Num.mul a b)).map fun c => round (chunk c)) ++ old.toList with
  | [] => 0
  | x :: r => r.foldl (fun acc y => round (Machine.Num.add .rn (ffF32.decode acc) (ffF32.decode y))) x

/-- An element of D (R250, R251), from a row of A, a column of B and the register's old value. -/
def passResult (d : Desc) (row col : List Nat × List (BitVec 8)) (old : Nat) : Word :=
  if d.isInt then BitVec.ofInt 32 (dotInt d.k (row.1.map (matInt d.afmt)) (col.1.map (matInt d.bfmt)) (if d.acc then some (BitVec.ofNat 32 old).toInt else none)).1
  else BitVec.ofNat 32 (dotFloat d.k (matValues d.afmt d.asc row) (matValues d.bfmt d.bsc col) (if d.acc then some old else none))

/-! ### Sill runs, scrubbing and energy (R229, R284 to R286, R299, R434, R444 to R447, R454 to R456) -/

/-- A run that its controllers may check: queued, first on every stack of its range, with its acquire met, and no frame of it in the range of a run that waits for its completion signal (R229). -/
def startable (s : State) (r : SillRun) : Bool :=
  r.stage = .queued && ((List.range 12).filter fun k => r.pages.any fun p => stackOfPa p.2 = k).all (fun k => (s.stack k).queue.head? = some r.id) && !s.acquireWaits r.acqw &&
    !(s.runs.any fun o => o.stage = .ending && o.pages.any fun p => r.pages.any (·.2 = p.2))

/-! ### The device, its links and its clock (R21 to R24, R31 to R35, R38, R297) -/

/-- The memory and the machine as before but for the root controller. -/
def OnlyRoot (s t : State) : Prop := { t with root := s.root } = s

/-- A flash slot from which the root controller may boot (R34, R35): digest, key, signature and version pass their checks. -/
def bootable (r : Root) (f : FlashSlot) : Prop :=
  f.digest.length = 64 ∧ f.signature.length = 114 ∧ shake256 f.image 64 = f.digest ∧ Config.keyHash f.key = r.fuseKeyHash ∧ ed448Verify f.key f.digest f.signature = true ∧ r.fuseVersion ≤ f.version

/-- Whether a flit passes the checks of R23 but for its sequence number, and its bytes after correction. -/
def flitPasses (b c : List Byte) : Prop :=
  fecCorrect b = some c ∧ c.length = 256 ∧ Config.crc64 (c.take 232) = BitVec.ofNat 64 (fld c 232 8) ∧ fld c 0 8 / 2 ^ 38 % 4 ≠ 3 ∧ fld c 0 8 % 2 ^ 27 = 0

/-- A port with one field changed is all that an event has changed, but for what is sent and what comes next. -/
def OnlyPort (s t : State) (k : Nat) : Prop :=
  (∀ j < 24, j ≠ k → t.ports.getD j Port.reset = s.ports.getD j Port.reset) ∧ { t with ports := s.ports, sent := s.sent, agenda := s.agenda } = s

/-- The transactions among what is sent. -/
def ridgeOf : Sent → Option Txn
  | .ridge t => some t
  | _ => none

/-! ### Ridge requests and completions (R25 to R27, R39, R51 to R55, R71) -/

/-- An interrupt among what is sent. -/
def isInterrupt : Sent → Bool
  | .interrupt _ => true
  | _ => false

/-- A completion to a request is the next that is sent but for interrupts, where a port can carry it: its fields and data (R25, R39, R51, R53). -/
def Answered (s t : State) (r : Txn) (status : Nat) (data : List Byte) : Prop :=
  t.waiting = s.waiting.erase r ∧
  (s.outPort.isSome = true → ∃ (irqs : List Sent) (c : Txn) (flits : List Sent), t.sent = s.sent ++ irqs ++ .ridge c :: flits ∧ irqs.all isInterrupt = true ∧ c.dst = r.src ∧ c.src = r.dst ∧ c.vc = 1 ∧ c.op = (if data = [] then 0x04 else 0x03) ∧
    c.ndata.toNat = (data.length + 31) / 32 ∧ c.dw2 = BitVec.ofNat 64 (status + 256 * r.tag.toNat) ∧ c.data.take data.length = data)

/-- An event that does nothing but answer. -/
def OnlyAnswers (s t : State) (r : Txn) (status : Nat) (data : List Byte) : Prop :=
  Answered s t r status data ∧ { t with ports := s.ports, sent := s.sent, waiting := s.waiting } = s

/-- A completion that is kept until its write is acknowledged (R216, R230). -/
def AnsweredLater (s t : State) (r : Txn) : Prop :=
  ∃ (id time : Nat) (lines : List Nat) (c : Txn), t.replies = s.replies ++ [⟨id, time, lines, 0, c⟩] ∧ c.dst = r.src ∧ c.src = r.dst ∧ c.dw2 = BitVec.ofNat 64 (256 * r.tag.toNat) ∧ c.vc = 1

/-- The request that operand t holds has reached this running device, and is for it (R26, R39). -/
def Reaches (s : State) (r : Txn) : Prop := s.operand.t = r ∧ s.root.phase = .running ∧ s.root.idset = true ∧ r.dst = s.root.devNum

/-- A request that passes its checks, for a context that its source commands (R26, R52). -/
def Accepted (s : State) (r : Txn) (c : Ctx) : Prop :=
  Reaches s r ∧ isCompletion r = false ∧ wellFormed r = true ∧ s.ctx? r.ctx = some c ∧ (if r.ctx = 0 then r.src = s.root.hostNum else r.src = c.owner)

/-- A completion that reaches this running device and is well formed (R26). -/
def CompletionArrives (s : State) (c : Txn) : Prop :=
  s.operand.t = c ∧ s.root.phase = .running ∧ s.root.idset = true ∧ isCompletion c = true ∧ wellFormed c = true

/-- The queue that an accepted queue operation names, with the counters that the Z9 holds (R41, R42, R48, R54). -/
def QueueOf (s : State) (r : Txn) (qop : Nat) (c : Ctx) (x : Queue) : Prop :=
  Accepted s r c ∧ r.op = 0x08 ∧ dw2 r 0 8 = qop ∧ x = s.queueNow c (dw2 r 8 4)

/-- What a core has counted for a context since its last fold (R71, R284). -/
def uncounted (s : State) (c : BitVec 8) (k : Nat) : Nat := ((((s.countStatic k).core k).energy.filter (·.1.1 = c)).map fun z => z.2 * energyScale z.1.2).sum

/-! ### The root controller's commands (R36 to R39, R294, R298, R300 to R303) -/

/-- The commands of R39 and R303, by their codes. -/
def commands : List (Nat × Instr) :=
  [(0x10, .scrubRead), (0x11, .scrubWrite), (0x12, .logRead), (0x13, .logClear), (0x14, .lifetimeRead), (0x15, .returnToService), (0x16, .quarantineList), (0x20, .setIdentity), (0x21, .mgmtStatus)]

/-- The state with one more message that goes the way the request came: on the sideband behind a transport header, or to the system host adapter (R39, R52). -/
def answeredBy (s : State) (m : MgmtReq) (message : List Byte) : State :=
  if m.ridge then { s with outbox := s.outbox ++ [message] } else { s with sent := s.sent ++ [.reply (leBytes (Config.mctpHeader false 0).toNat 4 ++ message)] }

/-- The state with the reply to a command sent: type 0x7F, VPEN with its most significant byte first, and the reply's bytes (R38, R39). -/
def replied (s : State) (m : MgmtReq) (b : List Byte) : State := answeredBy s m (0x7F#8 :: (leBytes s.root.vpen.toNat 4).reverse ++ b)

/-- The state with the response to an SPDM request sent, of type 0x05 (R36, R38). -/
def attested (s : State) (m : MgmtReq) (b : List Byte) : State := answeredBy s m (0x05#8 :: b)

/-- A command with a code and these bytes after it stands in operand m of a running device. -/
def Commanded (s : State) (m : MgmtReq) (code : Byte) (body : List Byte) : Prop := s.operand.m = m ∧ s.root.phase = .running ∧ m.bytes = code :: body

/-- The period of a scrub profile, in seconds: the two profiles of each level, and for a custom one the bounds (R298). -/
def scrubRow (level : Nat) : Nat × Nat × Nat × Nat :=
  match level with
  | 3 => (8 * 3600, 30 * 60, 15 * 60, 48 * 3600)
  | 2 => (600, 120, 60, 3600)
  | _ => (60, 10, 5, 600)

/-- A command's row answers only its own code, and only once the device has booted, but for STATUS. SET_IDENTITY sets both numbers on the sideband, with what has come under the old ones still to be answered, and answers BADCMD, BADARG or BUSY where it may not; STATUS, the scrub settings, the logs, the lifetime counts and the quarantine lists are answered in the layouts of R39 and R303, and answering changes nothing else; SCRUB_WRITE leaves its setting for the next pass; LOG_CLEAR empties one log; RETURN_TO_SERVICE answers BUSY for a unit at work, and else tests it and returns it or logs the failure (R39, R294, R298, R303). -/
def ManagementCommandsPart : Prop :=
  (∀ s (c : Nat × Instr), c ∈ commands → (s.operand.m.bytes.head? ≠ some (BitVec.ofNat 8 c.1) ∨ s.root.phase = .inReset ∨ (s.root.phase = .recoveryOnly ∧ c.1 ≠ 0x21)) → exec c.2 s = .next s) ∧
  (∀ s m (a b : BitVec 16), Commanded s m 0x20 (leBytes a.toNat 2 ++ leBytes b.toNat 2) →
    (m.ridge = true → exec .setIdentity s = .next (replied s m [1])) ∧
    (m.ridge = false → (1024 ≤ a.toNat ∨ 1024 ≤ b.toNat) → exec .setIdentity s = .next (replied s m [2])) ∧
    (m.ridge = false → a.toNat < 1024 → b.toNat < 1024 → (∃ c ∈ s.ctxs, c.num ≠ 0) → exec .setIdentity s = .next (replied s m [3])) ∧
    (m.ridge = false → a.toNat < 1024 → b.toNat < 1024 → (∀ c ∈ s.ctxs, c.num = 0) → ∃ t : State, exec .setIdentity s = .next t ∧ t.root.idset = true ∧ t.root.devNum.toNat = a.toNat ∧ t.root.hostNum.toNat = b.toNat ∧
      { t with root := s.root, waiting := s.waiting } = replied s m [0] ∧ ∃ l, t.waiting = s.waiting ++ l ∧ ∀ x ∈ l, s.root.idset = true ∧ x.dst = s.root.devNum)) ∧
  (∀ s m, s.operand.m = m → m.bytes.head? = some 0x21 → s.root.phase ≠ .inReset → ∃ r, exec .mgmtStatus s = .next (replied s m r) ∧ r.length = 17 ∧ r.getD 0 1 = 0 ∧
    (r.getD 1 0).getLsbD 0 = (s.ident.getD 1 0).getLsbD 0 ∧ (r.getD 1 0).getLsbD 1 = s.root.idset ∧ (r.getD 1 0).toNat < 4 ∧ fld r 3 2 = s.root.devNum.toNat ∧ fld r 5 2 = s.root.hostNum.toNat ∧ fld r 9 4 = s.root.vpen.toNat ∧
    (∀ k ∈ [2, 7, 8, 13, 14, 15, 16], r.getD k 1 = 0)) ∧
  (∀ s m (l : Byte) rest, Commanded s m 0x10 (l :: rest) →
    ((l = 0 ∨ 3 < l.toNat) → exec .scrubRead s = .next (replied s m [2])) ∧
    (∀ c : Scrub, 1 ≤ l.toNat → l.toNat ≤ 3 → c = s.root.scrub.getD (3 - l.toNat) ⟨0, true, 0, 0⟩ → c.profile < 3 → c.cethr < 256 → c.period < 2 ^ 32 → ∃ r, exec .scrubRead s = .next (replied s m (0 :: r)) ∧ r.length = 8 ∧
      fld r 0 1 % 4 = c.profile ∧ (r.getD 0 0).getLsbD 2 = c.logce ∧ fld r 1 1 = c.cethr ∧ fld r 2 4 = c.period)) ∧
  (∀ s m (l : Byte) (v : DWord), Commanded s m 0x11 (l :: leBytes v.toNat 8) →
    let p := v.toNat % 4
    ((l = 0 ∨ 3 < l.toNat ∨ p = 3) → exec .scrubWrite s = .next (replied s m [2])) ∧
    (1 ≤ l.toNat → l.toNat ≤ 3 → p ≠ 3 → v.toNat / 8 % 32 = 0 → v.toNat < 2 ^ 48 → ∃ t : State, exec .scrubWrite s = .next t ∧ { t with root := s.root } = replied s m [0] ∧ t.root.scrub = s.root.scrub ∧ (∀ k < 3, k ≠ 3 - l.toNat → t.root.scrubNext.getD k none = s.root.scrubNext.getD k none) ∧
      ∃ c, t.root.scrubNext.getD (3 - l.toNat) none = some c ∧ c.profile = p ∧ c.logce = v.getLsbD 2 ∧ c.cethr = v.toNat / 256 % 256 ∧
        c.period = (let x := scrubRow l.toNat; if p = 0 then x.1 else if p = 1 then x.2.1 else max x.2.2.1 (min x.2.2.2 (v.toNat / 65536 % 2 ^ 32))))) ∧
  (∀ s m (die log first count : Byte), Commanded s m 0x12 [die, log, first, count] →
    ((3 < die.toNat ∨ 7 < log.toNat ∨ count = 0 ∨ 32 < count.toNat) → exec .logRead s = .next (replied s m [2])) ∧
    (die.toNat ≤ 3 → log.toNat ≤ 7 → 1 ≤ count.toNat → count.toNat ≤ 32 → ∃ es : List (List Byte), exec .logRead s = .next (replied s m (0 :: es.flatten ++ leBytes (countOf s.root.dropped (die.toNat, log.toNat)) 4)) ∧
      es.length = (((s.root.log die.toNat log.toNat).drop first.toNat).take count.toNat).length ∧
      ∀ k e, (s.root.log die.toNat log.toNat)[first.toNat + k]? = some e → k < count.toNat → ∃ b, es[k]? = some b ∧ b.length = 32 ∧ fld b 0 8 = e.time % 2 ^ 64 ∧ fld b 8 1 = log.toNat ∧ fld b 9 1 = e.struct % 256 ∧ fld b 10 1 = e.sev % 256 ∧
        fld b 11 1 = die.toNat + 4 * (e.bin % 8) ∧ fld b 12 2 = e.count % 65536 ∧ b.getD 14 0 = e.ctx ∧ b.getD 15 0 = e.cause ∧ fld b 16 8 = e.loc % 2 ^ 64 ∧ fld b 24 8 = e.detail.toNat)) ∧
  (∀ s m (die log : Byte), Commanded s m 0x13 [die, log] →
    ((3 < die.toNat ∨ 7 < log.toNat) → exec .logClear s = .next (replied s m [2])) ∧
    (die.toNat ≤ 3 → log.toNat ≤ 7 → ∃ t : State, exec .logClear s = .next t ∧ { t with root := s.root } = replied s m [0] ∧ t.root.log die.toNat log.toNat = [] ∧ countOf t.root.dropped (die.toNat, log.toNat) = 0 ∧ t.root.lifetime = s.root.lifetime ∧
      ∀ d l, (d, l) ≠ (die.toNat, log.toNat) → t.root.log d l = s.root.log d l ∧ countOf t.root.dropped (d, l) = countOf s.root.dropped (d, l))) ∧
  (∀ s m (c : Byte), Commanded s m 0x14 [c] → (c = 0 ∨ (0x11 < c.toNat ∧ c.toNat < 0x20) ∨ 0x22 < c.toNat) → exec .lifetimeRead s = .next (replied s m [2])) ∧
  (∀ s m (c : Byte), Commanded s m 0x14 [c] → ((1 ≤ c.toNat ∧ c.toNat ≤ 0x11) ∨ (0x20 ≤ c.toNat ∧ c.toNat ≤ 0x22)) → ∃ r, exec .lifetimeRead s = .next (replied s m (0 :: r)) ∧ r.length = 64 ∧
    ∀ b < 8, fld r (8 * b) 4 = countOf s.root.lifetime (c.toNat, true, b) % 2 ^ 32 ∧ fld r (8 * b + 4) 4 = countOf s.root.lifetime (c.toNat, false, b) % 2 ^ 32) ∧
  (∀ s m (kind : Byte) (n : BitVec 16), Commanded s m 0x15 (kind :: leBytes n.toNat 2) →
    let busy : Prop := if kind = 0 then ∃ t ∈ s.teams, t.core = n.toNat else (s.engines.getD n.toNat Engine.reset).table ≠ [] ∨ (s.engines.getD n.toNat Engine.reset).running.isSome = true ∨ (s.engines.getD n.toNat Engine.reset).freeze.isSome = true
    ((2 < kind.toNat ∨ (kind = 0 ∧ 256 ≤ n.toNat) ∨ (kind = 1 ∧ 64 ≤ n.toNat)) → exec .returnToService s = .next (replied s m [2])) ∧
    (((kind = 0 ∧ n.toNat < 256) ∨ (kind = 1 ∧ n.toNat < 64)) → busy → exec .returnToService s = .next (replied s m [3])) ∧
    (((kind = 0 ∧ n.toNat < 256) ∨ (kind = 1 ∧ n.toNat < 64)) → ¬ busy → Config.selfTest kind.toNat n.toNat s.time = true → ∃ t : State, exec .returnToService s = .next t ∧
      (if kind = 0 then n.toNat ∉ t.root.quarCores else (t.engines.getD n.toNat Engine.reset).quarantined = false) ∧ (∀ k, k ≠ n.toNat → (k ∈ t.root.quarCores ↔ k ∈ s.root.quarCores)) ∧
      { t with root := s.root, engines := s.engines } = replied s m [0]) ∧
    (((kind = 0 ∧ n.toNat < 256) ∨ (kind = 1 ∧ n.toNat < 64)) → ¬ busy → Config.selfTest kind.toNat n.toNat s.time = false → ∃ t : State, exec .returnToService s = .next t ∧ t.root.quarCores = s.root.quarCores ∧ t.engines = s.engines ∧
      t.sent = (replied s m [2, 1]).sent ∧ t.outbox = (replied s m [2, 1]).outbox) ∧
    (kind = 2 →
      let k := n.toNat / 6144
      let works : Prop := ∃ id ∈ (s.stackCtls.getD k ⟨[], 0, none⟩).queue, ∃ r, s.run? id = some r ∧ ∃ a ∈ r.homeAtoms k, sillUnitOf a.1 = n.toNat % 6144
      (works → exec .returnToService s = .next (replied s m [3])) ∧
      (¬ works → Config.selfTest 2 n.toNat s.time = true → ∃ t : State, exec .returnToService s = .next t ∧ n.toNat ∉ t.root.quarSill ∧ (∀ j, j ≠ n.toNat → (j ∈ t.root.quarSill ↔ j ∈ s.root.quarSill)) ∧ { t with root := s.root } = replied s m [0]))) ∧
  (∀ s m, Commanded s m 0x16 [0] → ∃ r, exec .quarantineList s = .next (replied s m (0 :: r)) ∧ r.length = 32 ∧ ∀ k < 256, (r.getD (k / 8) 0).getLsbD (k % 8) = s.root.quarCores.contains k) ∧
  (∀ s m, Commanded s m 0x16 [1] → ∃ r, exec .quarantineList s = .next (replied s m (0 :: r)) ∧ r.length = 32 ∧ ∀ k < 64, (r.getD (k / 8) 0).getLsbD (k % 8) = (s.engines.getD k Engine.reset).quarantined) ∧
  (∀ s m, Commanded s m 0x16 [2] → ∃ r, exec .quarantineList s = .next (replied s m (0 :: r)) ∧ r.length = 9216 ∧ ∀ k < 73728, (r.getD (k / 8) 0).getLsbD (k % 8) = s.root.quarSill.contains k)

/-- The SPDM requests of R36 by their codes, as the log numbers them (log 34). -/
def spdmRows : List (Byte × Instr) :=
  [(0x84, .getVersion), (0xE1, .getCapabilities), (0xE3, .negotiateAlgorithms), (0x81, .getDigests), (0x82, .getCertificate), (0x83, .challenge), (0xE0, .getMeasurements)]

/-- The body of an SPDM response (R36, R37): made from the request with Ed448 and SHA3-512 as the only algorithms, and for GET_MEASUREMENTS from the hashes of the five items, the boot ROM, the firmware that runs, the base dies, the fuses with the security version, and the link firmware. -/
def spdmAnswerOf (s : State) (code : Byte) (m : MgmtReq) : List Byte :=
  Config.spdmBody code m.bytes 0x800#32 0x20#32 (if code = 0xE0#8 then
    [(1, sha3_512 Config.bootRom), (2, sha3_512 s.root.image), (3, sha3_512 ((List.range 12).flatMap (Config.baseFirmware s.root.image))),
      (4, sha3_512 (s.root.fuseKeyHash ++ leBytes s.root.fuseVersion 8)), (5, sha3_512 (Config.linkFirmware s.root.image))] else [])

/-- An SPDM request is answered with a body made from the request and, for measurements, from what R37 measures, now or once its making is over; another one meanwhile is answered ERROR with Busy, and any other code ERROR with UnsupportedRequest. A command code that is not listed is answered BADCMD; the sensors answer on the sideband, or the identity block is returned there (whose request is the model's choice, log 80); a flash slot is rewritten unless the root controller booted from it; and the lifetime counts are saved once an hour of device time has passed, to stay as they are (R36 to R38, R302, R303). The codes are the model's choice (log 34). -/
def AttestationPart : Prop :=
  (∀ s m v (c : Byte × Instr) rest, c ∈ spdmRows → s.operand.m = m → s.root.phase = .running → m.bytes = v :: c.1 :: rest →
    (s.root.spdmBusy = none → s.operand.flag = false → exec c.2 s = .next (attested s m (spdmAnswerOf s c.1 m))) ∧
    (s.root.spdmBusy = none → s.operand.flag = true → exec c.2 s = .next { s with root := { s.root with spdmBusy := some m } }) ∧
    (s.root.spdmBusy = some m → s.operand.k = 1 → exec c.2 s = .next (attested { s with root := { s.root with spdmBusy := none } } m (spdmAnswerOf s c.1 m))) ∧
    (∀ b, s.root.spdmBusy = some b → (s.operand.k ≠ 1 ∨ b ≠ m) → exec c.2 s = .next (attested s m [0x13, 0x7F, 3, 0])) ∧
    (s.root.spdmBusy.isSome = true → exec .spdmUnsupportedRequest s = .next (attested s m [0x13, 0x7F, 3, 0])) ∧
    (s.root.spdmBusy = none → exec .spdmUnsupportedRequest s = .next s)) ∧
  (∀ s m v (c : Byte) rest, s.operand.m = m → s.root.phase = .running → m.bytes = v :: c :: rest → (∀ x ∈ spdmRows, x.1 ≠ c) → s.root.spdmBusy = none → exec .spdmUnsupportedRequest s = .next (attested s m [0x13, 0x7F, 7, c])) ∧
  (∀ s m (c : Byte) rest, Commanded s m c rest → exec .unlistedVendorCommand s = .next (if commands.any (fun x => BitVec.ofNat 8 x.1 = c) then s else replied s m [1])) ∧
  (∀ s m, s.operand.m = m → s.root.phase ≠ .inReset → s.root.phase ≠ .recoveryOnly → exec .sensorRead s = .next (if m.ridge then s else replied s m (if s.operand.flag then 0 :: s.ident else
    Config.sensorReply s.root.temps.toList s.root.power (s.ctxs.map fun c => (c.num, c.energy))))) ∧
  (∀ s m, s.operand.m = m → s.root.phase ≠ .inReset →
    (s.root.booted = some s.operand.flag → exec .flashSlotRewrite s = .next (replied s m [Config.busySlot])) ∧
    (s.root.booted ≠ some s.operand.flag → ∃ t : State, exec .flashSlotRewrite s = .next t ∧ { t with root := s.root } = replied s m [0] ∧ t.root.slotA = (if s.operand.flag then s.root.slotA else s.operand.slot) ∧
      t.root.slotB = (if s.operand.flag then s.operand.slot else s.root.slotB) ∧ t.root.lifetime = s.root.lifetime ∧ t.root.booted = s.root.booted)) ∧
  (∀ s, s.root.lifeAt + 3600 * 10 ^ 9 ≤ s.time → ∃ t : State, exec .lifetimeCountSave s = .next t ∧ OnlyRoot s t ∧ t.root.lifetimeSaved = s.root.lifetime ∧ t.root.lifetime = s.root.lifetime ∧ t.root.lifeAt = s.time) ∧
  (∀ s, s.time < s.root.lifeAt + 3600 * 10 ^ 9 → exec .lifetimeCountSave s = .next s)

/-! ### Packets (R45, R46, R55 to R66, R85, R87) -/

/-- The slot of a queue that is due holds p, and u is the machine once it has been read for the packet processor (R43, R45, R55). -/
def SlotRead (s u : State) (c : Ctx) (q : Nat) (x : Queue) (p : List Byte) : Prop :=
  s.ctx? s.operand.ctx = some c ∧ q = s.operand.q.toNat ∧ x = s.queueNow c q ∧ x.slot.isSome = true ∧ x.error = false ∧ x.tail ≠ x.progress ∧ s.root.phase = .running ∧
    ∃ v, s.readSpan ⟨c.num, none, none, none⟩ (x.ring + 128 * (x.progress.toNat % 2 ^ x.logsize)) 128 .read = .ok v (.bytes p) ∧ u = v.dropStage 0

/-- A packet of a type that its queue admits, whose header passes the checks, and which no ORDER holds back (R46, R56). -/
def PacketDue (s u : State) (c : Ctx) (q : Nat) (x : Queue) (p : List Byte) (ty : Nat) : Prop :=
  SlotRead s u c q x p ∧ x.wait = none ∧ fld p 0 1 = ty ∧ (ty = 1 ∨ (x.kind ≠ 1 ∧ (ty ≤ 6 ∨ (ty = 7 ∧ c.num = 0)))) ∧
    fld p 0 8 < 2 ^ 15 ∧ fld p 0 8 / 512 % 4 ≠ 3 ∧ fld p 0 8 / 2048 % 4 ≠ 3 ∧ (x.kind = 1 ∨ fld p 0 8 / 8192 % 4 ≤ (if c.num = 0 then 3 else c.cprio)) ∧ fld p 8 8 % 8 = 0 ∧
    ((fld p 0 8).testBit 8 = true → ∀ w ∈ u.works, ¬ (w.ctx = c.num ∧ w.q.toNat = q))

/-- A packet that fails: its queue is in the error state with the code, the packet is not consumed, and no work is begun (R55, R56). -/
def PacketFails (s u : State) (c : Ctx) (q : Nat) (x : Queue) (i : Instr) (code : BitVec 8) : Prop :=
  ∃ (t : State) (d : Ctx), exec i s = .next t ∧ t.ctx? c.num = some d ∧ (let y := d.queues.getD q Queue.absent; y.error = true ∧ y.errcode = code ∧ y.consumed = false ∧ y.errcount = x.progress ∧ y.progress = x.progress ∧ y.tail = x.tail) ∧
    t.mem = u.mem ∧ t.works = u.works ∧ t.grids = u.grids ∧ t.graphs = u.graphs ∧ t.runs = u.runs ∧ t.sysCopies = u.sysCopies ∧ t.teams = u.teams

/-- A packet consumed: its queue moves on, and its work is the last of the list (R45, R46, R57). -/
def PacketTaken (u t : State) (c : Ctx) (q : Nat) (x : Queue) (p : List Byte) (kind : WorkKind) (ended : Bool) : Prop :=
  ∃ (d : Ctx) (w : Work), t.ctx? c.num = some d ∧ (let y := d.queues.getD q Queue.absent; y.error = false ∧ y.progress = x.progress + 1 ∧ y.tail = x.tail ∧ y.wait = none ∧ y.slot = x.slot) ∧
    t.works.length = u.works.length + 1 ∧ t.works.getLast? = some w ∧ w.id = u.nextId ∧ w.ctx = c.num ∧ w.q.toNat = q ∧ w.counter = x.progress ∧ w.kind = kind ∧ w.sigaddr = fld p 8 8 ∧ w.sigval.toNat = fld p 16 8 ∧
    w.rel = fld p 0 8 / 2048 % 4 ∧ w.ended = ended ∧ w.code = 0

/-- The fields of a launch packet in the ranges of R59. -/
def LaunchFields (p : List Byte) : Prop :=
  let n := fld p 42 1
  fld p 24 8 % 4 = 0 ∧ fld p 32 2 ≠ 0 ∧ fld p 34 2 ≠ 0 ∧ fld p 36 2 ≠ 0 ∧ 1 ≤ fld p 38 1 ∧ fld p 38 1 ≤ 8 ∧ 1 ≤ fld p 39 1 ∧ fld p 39 1 ≤ 8 ∧ fld p 38 1 * fld p 39 1 ≤ 12 ∧ fld p 40 1 ≤ 14 ∧ fld p 41 1 < 64 ∧
    1 ≤ n ∧ n ≤ 4 ∧ fld p 43 1 = 0 ∧ fld p 60 4 = 0 ∧
    (∀ k < 4, if k < n then fld p (44 + 4 * k) 1 ≤ 192 ∧ 1 ≤ fld p (45 + 4 * k) 1 ∧ fld p (45 + 4 * k) 1 ≤ 32 ∧ fld p (46 + 4 * k) 1 ≤ 1 ∧ fld p (47 + 4 * k) 1 = 0 ∧ (fld p (46 + 4 * k) 1 = 0 → 1 ≤ fld p (44 + 4 * k) 1) else fld p (44 + 4 * k) 4 = 0) ∧
    ∀ k < 8, (fld p (64 + 8 * k) 8).testBit 1 = false

/-- The roles of a launch packet. -/
def launchRoles (p : List Byte) : List Role := (List.range (fld p 42 1)).map fun k => ⟨fld p (44 + 4 * k) 1, 8 * fld p (45 + 4 * k) 1, (fld p (46 + 4 * k) 1).testBit 0⟩

/-- A code-table entry whose current image holds the entry point (R85). -/
def holdsEntry (e : CodeEntry) (a : Nat) : Prop := e.base ≠ 0 ∧ e.base ≤ a ∧ a < e.base + e.size

/-- No entry of the code table waits for a swap, and each can be read (R87). -/
def NoSwap (s : State) (c : Ctx) : Prop := ∀ k < 48, s.bad (c.desc + 1024 + 64 * k) 64 = false ∧ fld (memRead s.mem (c.desc + 1024 + 64 * k) 64) 15 1 % 2 = 0

/-! ### Task graphs and system copies (R64, R115 to R118) -/

/-- A node that has not started and may: its predecessors have completed and its graph has not failed (R117, R118). -/
def NodeDue (s : State) (g : Graph) (k : Nat) (n : Node) (c : Ctx) : Prop :=
  s.operand.k = k ∧ s.graphs.find? (·.id = s.operand.n) = some g ∧ g.nodes[k]? = some n ∧ s.ctx? g.ctx = some c ∧ n.started = false ∧ n.left = 0 ∧ g.failed = none

/-- A node of a graph after a step. -/
def nodeIn (t : State) (id k : Nat) : Option Node := (t.graphs.find? (·.id = id)).bind fun g => g.nodes[k]?

/-! ### Contexts and code images (R40 to R44, R48, R67, R84, R87) -/

/-- The fields of a context descriptor page that must hold for it to be taken (R40, R41, R84). -/
def PageGood (g : List Byte) : Prop :=
  fld g 8 8 % 65536 = 0 ∧ fld g 16 8 % 65536 = 0 ∧ fld g 24 2 < 1024 ∧ fld g 26 1 < 4 ∧ fld g 27 37 = 0 ∧ fld g 576 448 = 0 ∧
  (∀ q < 16, let d := g.drop (64 + 32 * q); fld d 8 1 < 32 ∧ fld d 10 6 = 0 ∧ (fld d 0 8 = 0 ∨ (fld d 0 8 % 4096 = 0 ∧ 4 ≤ fld d 8 1 ∧ fld d 8 1 ≤ 16 ∧ fld d 9 1 ≤ 1))) ∧
  ∀ i < 48, let d := g.drop (1024 + 64 * i); fld d 15 1 < 2 ∧ fld d 31 1 = 0 ∧ fld d 47 1 = 0 ∧ fld d 56 8 = 0

/-- A context-control packet in hand of a queue of context 0, with its fields (R67). -/
def ControlDue (s u : State) (c : Ctx) (q : Nat) (x : Queue) (p : List Byte) (op : Nat) : Prop :=
  PacketDue s u c q x p 7 ∧ c.num = 0 ∧ u.ctx? 0 = some c ∧ p.length = 128 ∧ fld p 24 1 = op ∧ fld p 28 4 = 0 ∧ fld p 40 88 = 0

/-! ### The distributor (R95 to R103, R108, R111) -/

/-- Width and height of a bent in cores, from its launch record (R59). -/
def bentDims (s : State) (b : Bent) : Nat × Nat := let r := memRead s.mem b.record 512; (fld r 38 1, fld r 39 1)

/-- The first rectangle of a die in scan order, with its anchor, that satisfies a condition (R100). -/
def FirstRect (s : State) (b : Bent) (d a : Nat) (p : Nat → Prop) : Prop :=
  let (w, h) := bentDims s b
  ∃ x y, x + w ≤ 8 ∧ y + h ≤ 8 ∧ a = 64 * d + 8 * y + x ∧ p a ∧ ∀ x' y', x' + w ≤ 8 → y' + h ≤ 8 → (y' < y ∨ (y' = y ∧ x' < x)) → ¬ p (64 * d + 8 * y' + x')

/-- No rectangle of a die satisfies a condition. -/
def NoRect (s : State) (b : Bent) (d : Nat) (p : Nat → Prop) : Prop :=
  let (w, h) := bentDims s b
  ∀ x y, x + w ≤ 8 → y + h ≤ 8 → ¬ p (64 * d + 8 * y + x)

/-- The bytes of every bent entry stand as the distributor wrote them (R61). -/
def EntriesStand (s : State) : Prop := s.readEntries = s

/-- The bent entries of the machine lie apart from a launch record (R62). -/
def EntriesApart (s : State) (rec : Nat) : Prop := ∀ o ∈ s.bents, ∀ e, o.entry = some e → e + 16 ≤ rec ∨ rec + 512 ≤ e

/-- A rectangle whose cores take a bent now, and one without a quarantined core (R92, R100, R101). -/
def takesNow (s : State) (b : Bent) (a : Nat) : Prop := s.rectTakes b (s.prioOf b) a = true
def noneQuarantined (s : State) (b : Bent) (a : Nat) : Prop := ∀ c ∈ rectCores a (bentDims s b).1 (bentDims s b).2, c ∉ s.root.quarCores

/-- A member team as a commit makes it resident (R93, R96, R103). -/
def CommittedTeam (s : State) (b : Bent) (g : Grid) (p id : Nat) (m : Team) : Prop :=
  let r := memRead s.mem b.record 512
  let gx := fld r 32 2
  let gy := fld r 34 2
  m.core = b.anchor + 8 * (p / fld r 38 1) + p % fld r 38 1 ∧ m.bpos = p ∧ m.ctx = g.ctx ∧ m.bent = b.id ∧ m.vteam.toNat = id ∧ m.scratch = [] ∧ m.full = [] ∧ m.tokens = Vector.replicate 64 0 ∧ m.mbs = Vector.replicate 8 [] ∧
  m.units = fld r 40 1 % 16 ∧ m.fused = (fld r 41 1).testBit 0 ∧ m.legacy = (fld r 41 1).testBit 2 ∧ m.prio = g.prio ∧ m.gx = gx ∧ m.gy = gy ∧ m.gz = fld r 36 2 ∧
  (1 ≤ gx → 1 ≤ gy → m.bx = b.index % gx ∧ m.bY = b.index / gx % gy ∧ m.bz = b.index / (gx * gy)) ∧
  (∀ (j k : Nat) (role : Role), (roleOfGidx (launchRoles r))[j]? = some k → (launchRoles r)[k]? = some role → role.spawn = false → ∃ x ∈ m.groups, x.gidx = j ∧ x.role = k ∧ x.vregs = role.vregs ∧
    (x.strand 0).valid = true ∧ (x.strand 0).pc.toNat = fld r 24 8 ∧ (x.strand 0).mask = (if (fld r 41 1).testBit 2 then 0xFFFF else 0xFFFFFFFF) ∧ (∀ i < 256, x.v.getD i Lanes.zero = Lanes.zero) ∧ (∀ i < 156, x.s.getD i 1 = 0) ∧
    (∀ l < 32, (x.seed.getD l 0).toNat = (((p * 192 + j) * 32 + l) + 1) % 2 ^ 32) ∧ ∀ i < 16, i ≠ 0 → (x.strand i).valid = false) ∧
  ∀ x ∈ m.groups, ∃ role, (launchRoles r)[x.role]? = some role ∧ role.spawn = false

/-- SPAWN_BIN_TIMEOUT completes for every bin of a resident team: a bin that is full, or whose first thread arrived SBTIME ago, starts a group with its oldest threads on the lowest free index of its role, and keeps the rest with their own arrival times; any other bin stays as it is (R110, R111). -/
def SpawnBinsPart : Prop :=
  ∀ s (c k : Nat) b m, s.operand.n = c → s.operand.k = k → c < 256 → k < 16 → (s.core c).bins.getD k none = some b → s.team? b.ctx b.vteam = some m →
    let size := if m.legacy then 16 else 32
    let n := min size b.args.length
    let due : Prop := size ≤ b.args.length ∨ ∃ first, b.times.head? = some first ∧ first + s.dcb.sbtime ≤ s.cycle
    let free (i : Nat) : Prop := (roleOfGidx m.roles)[i]? = some b.role ∧ ∀ x ∈ m.groups, x.gidx ≠ i
    ((¬ due ∨ b.args = [] ∨ ∀ i, ¬ free i) → exec .spawnBinTimeout s = .next s) ∧
    (∀ i, due → b.args ≠ [] → free i → (∀ j < i, ¬ free j) → ∃ (t : State) (m' : Team) (x : Group), exec .spawnBinTimeout s = .next t ∧ t.team? b.ctx b.vteam = some m' ∧ m'.groups = m.groups ++ [x] ∧ x.gidx = i ∧ x.role = b.role ∧ (x.strand 0).valid = true ∧
      (x.strand 0).pc = BitVec.ofNat 64 b.entry ∧ (∀ l < 32, (x.strand 0).mask.getLsbD l = decide (l < n)) ∧ (∀ l < n, (x.v.getD 0 Lanes.zero).getD l 1 = (b.args.getD l 0).extractLsb' 0 32 ∧ (x.v.getD 1 Lanes.zero).getD l 1 = (b.args.getD l 0).extractLsb' 32 32) ∧
      (t.core c).bins.getD k none = (if b.args.drop n = [] then none else some { b with args := b.args.drop n, times := b.times.drop n }))

/-! ### Pre-emption, yield and the control blocks (R104 to R108, R114, R190, R191, R268, R278 to R280) -/

/-- A bent of a context, by its launch record. -/
def ofCtx (s : State) (b : Bent) (ctx : BitVec 8) : Prop := ∃ g, s.grid? b.record = some g ∧ g.ctx = ctx

/-- A bent is stopped for its save, with a run of the save area as its place (R106, R107). -/
def SaveBegun (s t : State) (b : Bent) (yielded : Bool) : Prop :=
  ∃ b' k n, t.bent? b.id = some b' ∧ b' = { b with st := .saving, image := some k, yielded := yielded } ∧ t.saveRuns = s.saveRuns ++ [(k, n)] ∧ k + n ≤ s.dcb.savelen ∧ (∀ r ∈ s.saveRuns, k + n ≤ r.1 ∨ r.1 + r.2 ≤ k) ∧
    n * 65536 ≥ 128 + ((s.teamsOf b.id).map s.imageBytes).sum

/-! ### Paging, hot lists and migration (R182 to R184, R189 to R194, R204 to R209) -/

/-- The walk of an address from a table down through entries of TYPE 1 to the entry of its 64 KiB page (R182, R183). -/
def TableChain (s : State) (va : Nat) : Nat → Nat → Nat → Prop
  | 0, table, ea => ea = table + 8 * (va / 65536 % 32) ∧ 65536 ≤ ea ∧ ea + 8 ≤ memTop
  | n + 1, table, ea =>
    let a := table + 8 * (va / 2 ^ (21 + 9 * n) % 512)
    let e := fld (memRead s.mem a 8) 0 8
    65536 ≤ a ∧ a + 8 ≤ memTop ∧ e % 8 = 1 ∧ e / 2 ^ 48 % 32 = 0 ∧ e / 256 % 2 ^ 40 * 256 % (if n = 0 then 256 else 4096) = 0 ∧ TableChain s va n (e / 256 % 2 ^ 40 * 256) ea

/-- The oldest frame of a ring, and whether it may back a page of a die (R191, R194). -/
def oldestFrame (s : State) (r : Ring) : Nat := fld (memRead s.mem (r.base + 8 * (r.head.toNat % 2 ^ r.logn)) 8) 0 8
def goodFrame (s : State) (d : Nat) (f : Nat) : Prop :=
  let r := s.mcb.ft.getD d Ring.absent
  r.base ≠ 0 ∧ r.tail ≠ r.head ∧ f = oldestFrame s r ∧ f % 65536 = 0 ∧ 65536 ≤ f ∧ f < memTop ∧ dieOfPa f = d

/-- The last message that went out is an interrupt of a kind without cause or grid: a vendor message with the vendor's number and the 16 bytes of R277. -/
def InterruptSent (s t : State) (kind die : Nat) (ctx : BitVec 8) : Prop :=
  ∃ h : List Byte, h.length = 4 ∧ t.sent = s.sent ++ [.interrupt (h ++ (0x7F#8 :: (leBytes s.root.vpen.toNat 4).reverse) ++ leBytes kind 1 ++ leBytes die 1 ++ [ctx] ++ List.replicate 13 0)]

/-- FIRST_TOUCH backs an anonymous page with the oldest frame of its die's ring, zeroed: the entry becomes a leaf with the same permissions, and HEAD moves on; it waits while the ring is empty. PAGE_REQUEST_APPEND writes the oldest request as a record and raises the interrupt, and waits while the ring is full; a write of RESOLVE ends the touches of its page and counts their amounts on their tokens (R189 to R194). -/
def PageRequestsPart : Prop :=
  (∀ s c (d va ea : Nat) (f : Nat), s.operand.n = d → d < 4 → va = s.operand.v.toNat % 2 ^ 57 → s.ctx? s.operand.ctx = some c → TableChain s va 4 c.ptroot ea → s.walkCache.getD d [] = [] → s.poison = [] → s.l2bad = [] →
    let e := fld (memRead s.mem ea 8) 0 8
    let r := s.mcb.ft.getD d Ring.absent
    (e % 8 ≠ 4 → exec .firstTouch s = .next s) ∧
    (e % 8 = 4 → e / 2 ^ 48 % 32 = 0 → e / 256 % 2 ^ 40 * 256 % 65536 = 0 → s.runs = [] → goodFrame s d f → ∃ t : State, exec .firstTouch s = .next t ∧ fld (memRead t.mem ea 8) 0 8 = e / 8 % 32 * 8 + f + 2 ∧
      (∀ b, ¬ (ea ≤ b ∧ b < ea + 8) → memGet t.mem b = if f ≤ b ∧ b < f + 65536 then 0 else memGet s.mem b) ∧ t.mcb.ft.getD d Ring.absent = { r with head := r.head + 1 } ∧ (∀ k < 4, k ≠ d → t.mcb.ft.getD k Ring.absent = s.mcb.ft.getD k Ring.absent)) ∧
    (e % 8 = 4 → e / 2 ^ 48 % 32 = 0 → e / 256 % 2 ^ 40 * 256 % 65536 = 0 → (r.base = 0 ∨ r.tail = r.head) → ∃ t : State, exec .firstTouch s = .next t ∧ t.mem = s.mem ∧ t.mcb = s.mcb)) ∧
  (∀ s d, s.operand.n = d → d < 4 →
    let r := s.mcb.pr
    let wants (p : Touch) : Bool := p.first && !p.appended
    ((s.touches.getD d []).find? wants = none → exec .pageRequestAppend s = .next s) ∧
    (∀ p, (s.touches.getD d []).find? wants = some p →
      (r.base = 0 → s.prTold = true → exec .pageRequestAppend s = .next s) ∧
      (r.base = 0 → s.prTold = false → ∃ t : State, exec .pageRequestAppend s = .next t ∧ t.prTold = true ∧ t.mem = s.mem ∧ t.mcb = s.mcb ∧ t.touches = s.touches ∧ (s.root.lastIrq = [] → InterruptSent s t 1 d p.ctx)) ∧
      (r.base ≠ 0 → 2 ^ r.logn ≤ (r.tail - r.head).toNat → exec .pageRequestAppend s = .next s) ∧
      (r.base ≠ 0 → (r.tail - r.head).toNat < 2 ^ r.logn → s.runs = [] → ∃ t : State, exec .pageRequestAppend s = .next t ∧ t.mcb = { s.mcb with pr := { r with tail := r.tail + 1 } } ∧
        (let a := r.base + 32 * (r.tail.toNat % 2 ^ r.logn)
         let w := memRead t.mem a 32
         fld w 0 8 = p.page * 65536 % 2 ^ 64 ∧ fld w 8 2 = p.ctx.toNat ∧ fld w 10 2 = p.vteam.toNat ∧ fld w 12 4 = 0 ∧ fld w 16 8 = p.at_ % 2 ^ 64 ∧ fld w 24 8 = 0 ∧ ∀ b, ¬ (a ≤ b ∧ b < a + 32) → memGet t.mem b = memGet s.mem b) ∧
        t.touches.getD d [] = (s.touches.getD d []).map (fun q => if q = p then { q with appended := true } else q) ∧ (∀ k < 4, k ≠ d → t.touches.getD k [] = s.touches.getD k []) ∧ (s.root.lastIrq = [] → InterruptSent s t 1 d p.ctx)))) ∧
  (∀ s (v : Nat), s.operand.v.toNat = v →
    let hit (p : Touch) : Bool := p.ctx = BitVec.ofNat 8 (v / 2 ^ 56) && p.page = v % 2 ^ 41
    let hits := (s.touches.toList.flatten).filter hit
    (v / 2 ^ 41 % 2 ^ 15 ≠ 0 → exec .resolveWrite s = .next s) ∧
    (v / 2 ^ 41 % 2 ^ 15 = 0 → ∃ t : State, exec .resolveWrite s = .next t ∧ (∀ k < 4, t.touches.getD k [] = (s.touches.getD k []).filter (!hit ·)) ∧ t.mem = s.mem ∧
      (noEventWait s = true → ∀ c u k, k < 64 → (s.anyTeam? c u).isSome = true → tokenOf t c u k = tokenOf s c u k + ((hits.filter fun p => p.ctx = c && p.vteam = u && p.tok = k).map (·.amount)).sum)))

/-- HOTNESS_INTERVAL_END writes each list's header once its records have been released, and at the end of an interval sorts every controller's list by estimate and key, writes its records into the half of the interval, clears the list, and halves the affinity counters. MIGRATION takes a frame of the die, marks the entry of a page that may move, and counts the move; found under way, it copies the page and points the entry at the new frame with the permissions as they were. MIGRATION_FRAME_RELEASE zeroes an old frame after its last lease and appends it to the released-frame ring (R99, R204 to R206, R208, R209). -/
def HotPagesPart : Prop :=
  (∀ s, (∀ k < 12, (s.hot.getD k ⟨[], [], 0, [], none⟩).header = none) →
    (s.time < s.hotAt + 1000 * s.mcb.interval → exec .hotnessIntervalEnd s = .next s) ∧
    (s.hotAt + 1000 * s.mcb.interval ≤ s.time → ∃ t : State, exec .hotnessIntervalEnd s = .next t ∧ t.hotSeq = s.hotSeq + 1 ∧ t.hotAt = s.hotAt + 1000 * s.mcb.interval ∧
      (∀ k < 12, let h := s.hot.getD k ⟨[], [], 0, [], none⟩; let x := t.hot.getD k ⟨[], [], 0, [], none⟩
        x.list = [] ∧ x.rows = [] ∧ x.moved = 0 ∧ x.last.Perm h.list ∧ x.last.Pairwise (fun p q => q.est < p.est ∨ (q.est = p.est ∧ p.key ≤ q.key)) ∧
        (s.mcb.hotbase = 0 → x.header = none) ∧ (s.mcb.hotbase ≠ 0 → ∃ w, x.header = some (s.hotSeq, h.list.length, w)) ∧
        (s.mcb.hotbase ≠ 0 → s.runs = [] → s.grids = [] → (∀ j < 12, (s.hot.getD j ⟨[], [], 0, [], none⟩).list.length ≤ 256) →
          ∀ i < 256, let w := memRead t.mem (s.mcb.hotbase + 32768 * k + 16384 * (s.hotSeq % 2) + 32 + 32 * i) 32
            match x.last[i]? with
            | some p => fld w 0 8 = p.key % 2 ^ 64 ∧ fld w 8 8 = p.est % 2 ^ 64 ∧ ∀ d < 4, fld w (16 + 4 * d) 4 = p.die.getD d 0 % 2 ^ 32
            | none => fld w 0 32 = 0)) ∧
      (∀ g, s.mcb.hotbase = 0 → s.runs = [] → s.grids = [g] → ∀ k < 12, fld (memRead t.mem (g.record + 160 + 2 * k) 2) 0 2 = fld (memRead s.mem (g.record + 160 + 2 * k) 2) 0 2 / 2))) ∧
  (∀ s k n len after_, k < 12 → (s.hot.getD k ⟨[], [], 0, [], none⟩).header = some (n, len, after_) → (∀ j < 12, j ≠ k → (s.hot.getD j ⟨[], [], 0, [], none⟩).header = none) → s.time < s.hotAt + 1000 * s.mcb.interval →
    ((∃ d < 4, s.timeOf d < after_) → exec .hotnessIntervalEnd s = .next s) ∧
    ((∀ d < 4, after_ ≤ s.timeOf d) → s.runs = [] → ∃ t : State, exec .hotnessIntervalEnd s = .next t ∧ (t.hot.getD k ⟨[], [], 0, [], none⟩).header = none ∧
      (let a := s.mcb.hotbase + 32768 * k + 16384 * (n % 2); let w := memRead t.mem a 32
       fld w 0 8 = n % 2 ^ 64 ∧ fld w 8 8 = len % 2 ^ 64 ∧ fld w 16 16 = 0 ∧ ∀ b, ¬ (a ≤ b ∧ b < a + 32) → memGet t.mem b = memGet s.mem b))) ∧
  (∀ s d ctx va, s.operand.n = d → d < 4 → s.operand.ctx = ctx → va = s.operand.v.toNat % 2 ^ 57 →
    ((∀ m ∈ s.migrations, ¬ (m.die = d ∧ m.ctx = ctx ∧ m.va = va / 65536 * 65536)) →
      (s.mayMigrate d ctx va = none → exec .migration s = .next s) ∧
      (∀ ea frame, s.mayMigrate d ctx va = some (ea, frame) →
        (s.mcb.migen = true ∧ s.mcb.hotbase ≠ 0 ∧ s.mcb.rel.base ≠ 0 ∧ dieOfPa frame ≠ d ∧ (s.hot.getD (stackOfPa frame) ⟨[], [], 0, [], none⟩).moved < s.mcb.miglim ∧
          (let e := fld (memRead s.mem ea 8) 0 8; e % 8 = 2 ∧ e.testBit 7 = true ∧ e.testBit 63 = false ∧ e / 256 % 2 ^ 40 * 256 = frame)) ∧
        (∀ f, goodFrame s d f → s.runs = [] → s.poison = [] → s.l2bad = [] → ∃ t : State, exec .migration s = .next t ∧ fld (memRead t.mem ea 8) 0 8 = fld (memRead s.mem ea 8) 0 8 / 8 * 8 + 5 ∧ (∀ b, ¬ (ea ≤ b ∧ b < ea + 8) → memGet t.mem b = memGet s.mem b) ∧
          t.migrations = s.migrations ++ [⟨d, ctx, va / 65536 * 65536, ea, frame, f⟩] ∧ (t.mcb.ft.getD d Ring.absent).head = (s.mcb.ft.getD d Ring.absent).head + 1 ∧
          (t.hot.getD (stackOfPa frame) ⟨[], [], 0, [], none⟩).moved = (s.hot.getD (stackOfPa frame) ⟨[], [], 0, [], none⟩).moved + 1 ∧
          ∀ k < 256, ∀ x ∈ (t.core k).tlb, ¬ (x.ctx = ctx ∧ x.leaf.base = frame ∧ x.leaf.size = 65536 ∧ x.va = va / 65536 * 65536)))) ∧
    (∀ m, s.migrations.find? (fun m => m.die = d && m.ctx = ctx && m.va = va / 65536 * 65536) = some m → s.runs = [] → (m.pte + 8 ≤ m.newFrame ∨ m.newFrame + 65536 ≤ m.pte) → ∃ t : State, exec .migration s = .next t ∧
      (let e := fld (memRead s.mem m.pte 8) 0 8; fld (memRead t.mem m.pte 8) 0 8 = (e / 2 ^ 48 * 2 ^ 48 + m.newFrame + e / 8 % 32 * 8 + 2) % 2 ^ 64) ∧
      (∀ b, ¬ (m.pte ≤ b ∧ b < m.pte + 8) → memGet t.mem b = if m.newFrame ≤ b ∧ b < m.newFrame + 65536 then memGet s.mem (b - m.newFrame + m.oldFrame) else memGet s.mem b) ∧
      m ∉ t.migrations ∧ ∃ u, t.oldFrames = s.oldFrames ++ [⟨m.oldFrame, u⟩] ∧ ∀ k < 512, ∀ x, s.l2Line? (m.oldFrame + 128 * k) = some x → x.e1 ≤ u ∧ x.e2 ≤ u)) ∧
  (∀ s f, s.oldFrames.find? (·.frame = s.operand.n) = some f →
    let r := s.mcb.rel
    ((s.timeOf (dieOfPa f.frame) ≤ f.until_ ∨ r.base = 0 ∨ 2 ^ r.logn ≤ (r.tail - r.head).toNat) → exec .migrationFrameRelease s = .next s) ∧
    (f.until_ < s.timeOf (dieOfPa f.frame) → r.base ≠ 0 → (r.tail - r.head).toNat < 2 ^ r.logn → s.runs = [] → ∃ t : State, exec .migrationFrameRelease s = .next t ∧ t.mcb = { s.mcb with rel := { r with tail := r.tail + 1 } } ∧ f ∉ t.oldFrames ∧
      (let a := r.base + 8 * (r.tail.toNat % 2 ^ r.logn)
       fld (memRead t.mem a 8) 0 8 = f.frame % 2 ^ 64 ∧ ∀ b, ¬ (a ≤ b ∧ b < a + 8) → memGet t.mem b = if f.frame ≤ b ∧ b < f.frame + 65536 then 0 else memGet s.mem b)))

/-! ### Encodings (R304 to R306, R319 to R327, R450, R452) -/

/-- The instruction that the first words of a list are read as. -/
def decodeWords (ws : List Word) : Except DecodeError (Instr × Nat) := decode (ws.getD 0 0) (ws.getD 1 0) (ws.getD 2 0) (ws.getD 3 0) (ws.getD 4 0)

/-- Words written out from the encoding tables, for each family one or more, and what they stand for: fields in the order B6, A, D, then word 1, word 2 and the literal. -/
def knownWords : List (List Word × Instr) :=
  [([0x100C1440#32], .iadd ⟨4#6, 3#8, 5#8⟩),
   ([0x000C1442#32, 0x00012345#32, 0x00000000#32], .iaddExtended ⟨0#6, 3#8, 5#8, .l 0x12345#64⟩),
   ([0x002C298D#32, 0x000A000C#32, 0xC0060120#32], .ffma ⟨0#6, 11#8, 10#8, .e 0x000A000C#32 0xC0060120#32⟩),
   ([0x000C09E9#32, 0x01000404#32, 0x00000000#32], .cvt ⟨0#6, 3#8, 2#8, .e 0x01000404#32 0#32⟩),
   ([0x10141810#32], .join ⟨4#6, 5#8, 6#8⟩),
   ([0x0004000B#32, 0x00000000#32, 0x40000003#32, 0x00000024#32, 0x00000034#32], .fork ⟨0#6, 1#8, 0#8, .x 0#32 0x40000003#32 0x0000003400000024#64⟩),
   ([0x0840065D#32, 0x12000000#32, 0x40000004#32], .sldef ⟨2#6, 16#8, 1#8, .e 0x12000000#32 0x40000004#32⟩),
   ([0x08102281#32, 0x0A200002#32, 0x00000010#32], .ld ⟨2#6, 4#8, 8#8, .e 0x0A200002#32 0x10#32⟩),
   ([0x002C2AB1#32, 0x00000D0C#32, 0x40000000#32], .cpy ⟨0#6, 11#8, 10#8, .e 0xD0C#32 0x40000000#32⟩),
   ([0x0400030C#32], .bararw ⟨1#6, 0#8, 0#8⟩),
   ([0x00000B31#32, 0x00000000#32, 0x38804000#32], .msign ⟨0#6, 0#8, 2#8, .e 0#32 0x38804000#32⟩),
   ([0x04000380#32], .tretKill),
   ([0x00000394#32], .mfreeze ⟨0#6, 0#8, 0#8⟩)]

/-- Sill words written out from R450 and R452, and what they stand for: fields in the order T, QB, B, C, A, D, IMM. -/
def knownSill : List (Word × Instr) :=
  [(0xA000000A#32, .zplanes ⟨false, false, 0#4, 0#3, 0#3, 0#3, 10#12⟩),
   (0x1A006000#32, .zmov ⟨false, true, 0#4, 0#3, 0#3, 6#3, 0#12⟩),
   (0x98000000#32, .zrow ⟨false, false, 0#4, 0#3, 0#3, 0#3, 0#12⟩),
   (0x08000001#32, .zld ⟨false, false, 0#4, 0#3, 0#3, 0#3, 1#12⟩),
   (0x38C09000#32, .zfma ⟨false, false, 6#4, 0#3, 1#3, 1#3, 0#12⟩),
   (0x40E8A000#32, .zfms ⟨false, false, 7#4, 2#3, 1#3, 2#3, 0#12⟩),
   (0x10008002#32, .zst ⟨false, false, 0#4, 0#3, 1#3, 0#3, 2#12⟩)]

/-! ### A step (R145, R304, R317, log 3) -/

/-- The words at the PC of a strand, as many as its first word says, fetched one after another (R304, R317). -/
def Fetches (t : Team) (bounds : Nat × Nat) (pc : DWord) : State → List Word → State → Prop
  | s, [], s' => s' = s
  | s, w :: ws, s' => ∃ s1, s.fetchWord t bounds pc = .ok s1 w ∧ Fetches t bounds (pc + 4) s1 ws s'

/-- The state as a turn begins: the agenda without it, a cycle later. -/
def beforeTurn (s : State) (rest : List Turn) : State := State.advance { s with agenda := rest }

/-! ### Privilege and taking a trap (R269 to R275) -/

/-- The registers beyond its fields that a privileged instruction names: what the image moves, and the flag. -/
def systemUses : Instr → State → Iss → Uses
  | .strsave _ | .strload _ => flag7
  | .ctxsave _ => fun _ i => allRegs i false
  | .ctxload _ => fun _ i => allRegs i true
  | _ => noMore

/-- A strand after its trap: stopped at its own address, ready to be taken up again, and waiting for nothing. -/
def StoppedAt (a b : Strand) : Prop :=
  SameStrand a b ∧ b.priv = a.priv ∧ b.pc = a.pc ∧ b.park = none ∧ b.rel = none ∧ (b.state = if a.state = .ended then .ended else .ready)

end Sys2Proof

/-! ## The statements -/

section
open Sys2Proof Sys2Proof.Machine

/-! ### Vector integer instructions (R335 to R344) -/

/-- Each vector integer and logic instruction that issues writes, in the active lanes, what R335 to R344 give; nothing else changes but its strand's address, which moves past it. -/
def Obligations.IntegerResults : Prop :=
  ∀ c x f s s' i, integerClaim c = some (x, f) → Issues s x s' i → s.residueMiss ≤ 2 → Completes c s s' i i.nextPc i.active (f i)

/-! ### Scalar, predicate and status instructions (R345 to R351) -/

/-- Scalar, broadcast, vote and predicate results, and READLANE (R345 to R350). -/
def Obligations.ScalarsAndReadLane : Prop := ScalarResultsPart ∧ ReadLanePart

/-! ### Floating-point, conversion and block instructions (R362 to R377) -/

/-- Each floating-point instruction of one step that issues writes, in the active lanes, the exact result rounded once as R364 to R370, R376 and R377 give it; under SR it steps the seed of those lanes; nothing else changes but its strand's address, which moves past it. -/
def Obligations.FloatResults : Prop :=
  ∀ c x f s s' i, floatsClaim c = some (x, f) → Issues s x s' i → s.residueMiss ≤ 2 → Completes c s s' i i.nextPc i.active (f i)

/-! ### Lane exchange, reductions, scans and JOIN (R135, R378 to R383) -/

/-- Lane exchanges, reductions, scans, joins and BFLY (R135, R378 to R383). -/
def Obligations.LaneExchanges : Prop := ExchangeResultsPart ∧ ButterflyPart

/-- CVT and BPACK (R270, R373 to R375). -/
def Obligations.ConversionsAndBlocks : Prop := ConvertPart ∧ BlockPackPart

/-! ### Long-latency arithmetic (R149, R338, R371, R372) -/

/-- Each long-latency arithmetic instruction that issues has its quotient, remainder or special function in flight for the active lanes (R149, R338, R371, R372): no register has changed yet, and its strand goes on. -/
def Obligations.LongResults : Prop :=
  ∀ c x f s s' i, longClaim c = some (x, f) → Issues s x s' i → s.residueMiss ≤ 2 → GoesInFlight c s s' i (f i)

/-! ### Control registers (R276, R351) -/

/-- GETSR and SETSR of every register that R276 and R351 list. -/
def Obligations.ControlRegisters : Prop := GetControlPart ∧ SetControlPart

/-! ### Control transfer (R304, R353 to R357) -/

/-- NOP and YIELD go past themselves; BRA goes to its target where the lowest lane of the mask passes the guard; CALL saves the next address in s159 and RET goes back to it, its low two bits dropped; LOOP counts its register down by one and goes to its target until it is 0 (R304, R353 to R356). Nothing else changes. -/
def Obligations.Transfers : Prop :=
  ∀ c x f s s' i, transferClaim c = some (x, f) → Issues s x s' i → Completes c s s' i (f i).1 i.active (f i).2

/-- BKPT raises BREAK and TRAP raises SWTRAP, both of kind A, with the code in B6 of the instruction word, and do nothing else; an encoding that the opcode map does not list raises ILLOP, with the lookahead of its words, once the strand's windows let it issue (R127, R317, R327, R357). -/
def Obligations.SoftwareTraps : Prop :=
  (∀ y s s' i, Issues s (SForm.enc 0x0C y) s' i → Traps (.bkpt y) s s' i { cause := 0x23#8 }) ∧
  (∀ y, ((encode (.bkpt y)).getD 0 0).extractLsb' 26 6 = y.b6 ∧ ((encode (.trapCode y)).getD 0 0).extractLsb' 26 6 = y.b6) ∧
  trapKind 0x22#8 = .a ∧ trapKind 0x23#8 = .a ∧
  (∀ y s s' i, Issues s (SForm.enc 0x0D y) s' i → Traps (.trapCode y) s s' i { cause := 0x22#8 }) ∧
  (∀ w w1 s r j, s.cur = some r → s.iss? r (Enc.ofWords w w1 0 0 0) = some j → j.g.inWindows r.num (Enc.endsWindow j.x) = true →
    Traps (.illegalOpcode w w1) s s j { cause := 0x01#8, la := j.x.la }) ∧
  (∀ w w1 s r j, s.cur = some r → s.iss? r (Enc.ofWords w w1 0 0 0) = some j → j.g.inWindows r.num (Enc.endsWindow j.x) = false →
    Waits (.illegalOpcode w w1) s j)

/-! ### Strands (R129 to R136, R358 to R361) -/

/-- FORK and SEAL (R129 to R132, R134, R358, R359). -/
def Obligations.ForkAndSeal : Prop := ForkPart ∧ SealPart

/-- ENDARM and EXIT (R133, R136, R360). -/
def Obligations.ArmsAndStrandsEnd : Prop := EndArmPart ∧ ExitPart

/-! ### Slide accumulators (R384 to R392) -/

/-- SLPUSH, SLSETW and SLRESET of a bound descriptor, from a strand without a write set that no earlier strand holds back, change the descriptor and its storage in every lane of the group as R388, R390 and R391 say, and nothing else; an unbound descriptor, or a length out of range, raises ILLENC with its number, and a strand with a write set SCALW (R386). -/
def Obligations.SlideChanges : Prop :=
  ∀ c x f s s' i, slideClaim c = some (x, f) → IssuesWith (slideUses true x.d.toNat) s x s' i →
    let d := i.g.slide x.d.toNat
    let usable := d.bound && decide (d.base + d.cap < i.g.vregs)
    let w := i.scalarB.toNat % 128
    (usable = false → Traps c s s' i { cause := 0x02#8, detail := x.d.toNat, la := x.la }) ∧
    (usable = true → i.hasSet = true → Traps c s s' i { cause := 0x0C#8, la := x.la }) ∧
    (usable = true → i.hasSet = false → i.g.sharesEarlier i.st = true → Waits c s i) ∧
    (usable = true → i.hasSet = false → i.g.sharesEarlier i.st = false → x.o = 0x9A → (w = 0 ∨ d.cap < w) →
      Traps c s s' i { cause := 0x02#8, detail := x.d.toNat, la := x.la }) ∧
    (usable = true → i.hasSet = false → i.g.sharesEarlier i.st = false → (x.o = 0x9A → 1 ≤ w ∧ w ≤ d.cap) → SlideAfter c s s' i x.d.toNat (f i))

/-- SLREAD, SLDEF, SLSAVE and SLLOAD (R386, R387, R389, R392). -/
def Obligations.SlideReadsAndImages : Prop := SlideReadAndDefinePart ∧ SlideImagesPart

/-! ### Loads, stores and atomics (R141 to R144, R393 to R411) -/

/-- LD and SLD whose addresses pass their checks enter with a part for each active lane, SLD with one for its strand, and change no memory of this device but where the Z9 counts; LD with no active lane has no effect (R143, R396 to R398, R402). LDK has the window words of its active lanes in flight, and an index beyond the window's length raises ILLENC with the window (R401). -/
def Obligations.Loads : Prop :=
  (∀ y s s' i s2 ts, let x := XForm.enc 0xA0 y
    let n := 2 ^ (x.sub % 8)
    Issues s x s' i → s.residueMiss ≤ 2 → (residueChecked s' i).targets i.t i.g i.active i.addr n .read (decide (x.fe ≠ 0)) = .ok s2 ts →
    (ts = [] → Completes (.ld y) s s2 i i.nextPc i.active {}) ∧
    (ts ≠ [] → LoadEnters (.ld y) s s2 i (entered i (.vector x.d.toNat n (decide (8 ≤ x.sub))) none (ts.map fun a => ⟨a.1, a.2, .gated, 0, 0, none⟩)) i.g.sb ∧
      (Quiet s2 (ts.map (·.2)) → ∃ t, exec (.ld y) s = .next t ∧ SameMemory s2 i.t t))) ∧
  (∀ y s s' i s2 t, let x := XForm.enc 0xA3 y
    let n := 2 ^ (x.sub % 8)
    Issues s x s' i → s.residueMiss ≤ 2 → (residueChecked s' i).targetOnce i i.addrOnce n .read (decide (x.fe ≠ 0)) = .ok s2 t →
    LoadEnters (.sld y) s s2 i (entered i (.scalar x.d n (decide (8 ≤ x.sub))) none [⟨(lowLane i.st.mask).getD 0, t, .gated, 0, 0, none⟩]) i.g.sb ∧
    (Quiet s2 [t] → ∃ u, exec (.sld y) s = .next u ∧ SameMemory s2 i.t u)) ∧
  (∀ y s s' i, let x := XForm.enc 0xA2 y
    Issues s x s' i → s.residueMiss ≤ 2 →
    let v := residueChecked s' i
    let wide := decide (x.sub = 3)
    let idx (l : Nat) : Nat := x.ofs + (i.scalarLane x.a l).toNat % 2 ^ 32 + (if x.idx then (vlane i.g x.b.toNat l).toNat else 0)
    let len := (i.t.windows.getD x.win ⟨0, 0, false⟩).len
    let ls := lanesOf i.active
    let out (l : Nat) : Prop := len < idx l + (if wide then 1 else 0) ∨ (wide = true ∧ idx l % 2 = 1)
    ((∃ l ∈ ls, out l) → x.la = 0 →
      exec (.ldk y) s = .next ((v.takeTrap i.r { cause := 0x02#8, detail := x.win }).modStrand i.r fun st => { st with state := .waiting })) ∧
    ∀ s2 lo s3 hi, (∀ l ∈ ls, ¬ out l) → v.windowWords i (ls.map fun l => (l, idx l)) = .ok s2 lo →
      s2.windowWords i (if wide then ls.map fun l => (l, idx l + 1) else []) = .ok s3 hi →
      let at_ (ws : List (Nat × Word)) (l : Nat) : Word := ((ws.find? (·.1 = l)).map (·.2)).getD 0
      GoesInFlight (.ldk y) s s3 i ((x.d.toNat, lanesFn (at_ lo)) :: if wide then [(x.d.toNat + 1, lanesFn (at_ hi))] else []))

/-- ST and SST whose addresses pass their checks put their parts into the store buffer, each with its lane's address and bytes, and write their flag; nothing is in memory yet (R141, R188, R396, R397, R399, R402). A full buffer holds them (R142), and `.rel` waits for its release (R400). -/
def Obligations.Stores : Prop :=
  (∀ y s s' i, let x := XForm.enc 0xA1 y
    let n := 2 ^ (x.sub % 8)
    Issues s x s' i → s.residueMiss ≤ 2 →
    let full := decide (i.active ≠ 0) && i.g.bufferFull i.st i.active
    (full = true → Waits (.st y) s i) ∧
    ∀ s2 ts, full = false → (residueChecked s' i).targets i.t i.g i.active i.addr n .write (decide (x.fe ≠ 0)) = .ok s2 ts →
      (x.ord = 2 → releaseOver i i.scope = false → Waits (.st y) s i) ∧
      ((x.ord = 2 → releaseOver i i.scope = true) →
        StoreEnters (.st y) s s2 i (decide (x.fe ≠ 0)) false ((ts.filter (·.2 ≠ .nonres)).map fun a => ⟨a.1, a.2, storedBytes i x.d.toNat n a.1, false⟩) i.active
          [(i.flagReg, maskOf fun k => ts.any fun a => a.1 = k && a.2 = .nonres)])) ∧
  (∀ y s s' i, let x := XForm.enc 0xA4 y
    let n := 2 ^ (x.sub % 8)
    Issues s x s' i → s.residueMiss ≤ 2 →
    (i.g.bufferFull i.st i.st.mask = true → Waits (.sst y) s i) ∧
    ∀ s2 t, i.g.bufferFull i.st i.st.mask = false → (residueChecked s' i).targetOnce i i.addrOnce n .write (decide (x.fe ≠ 0)) = .ok s2 t →
      (x.ord = 2 → releaseOver i i.scope = false → Waits (.sst y) s i) ∧
      ((x.ord = 2 → releaseOver i i.scope = true) →
        StoreEnters (.sst y) s s2 i (decide (x.fe ≠ 0)) true (if t = .nonres then [] else (lanesOf i.st.mask).map fun k => ⟨k, t, leBytes (i.scalar x.d).toNat n, false⟩) i.st.mask
          [(i.flagReg, if t = .nonres then 0xFFFFFFFF#32 else 0)]))

/-- ATOM and CAS whose addresses pass their checks enter with a load part and a store part for each active lane, with its operand and, for CAS, the value it compares with; ATOMAGG enters as one addition of the sum of the operands of its active lanes, and a stack address raises APERT; none of them has an effect without an active lane, a full buffer holds them, and `.rel` waits for its release (R141 to R144, R225, R396, R400, R403 to R406). -/
def Obligations.Atomics : Prop :=
  (∀ c x n op s s' i, (∃ y, c = .atom y ∧ x = y.enc 0xA5 ∧ n = (if x.sub / 8 % 2 = 1 then 8 else 4) ∧ op = atomicOperator x.sub) ∨
      (∃ y, c = .cas y ∧ x = y.enc 0xA7 ∧ n = (if x.sub = 3 then 8 else 4) ∧ op = .cas) → Issues s x s' i → s.residueMiss ≤ 2 →
    let full := decide (i.active ≠ 0) && i.g.bufferFull i.st i.active
    let operand (k : Nat) : Nat := operandOf i (if op = .cas then x.d.toNat + n / 4 else x.d.toNat) n k
    let compare (k : Nat) : Nat := if op = .cas then operandOf i x.d.toNat n k else 0
    (full = true → Waits c s i) ∧
    ∀ s2 ts, full = false → (residueChecked s' i).targets i.t i.g i.active i.addr n .both false = .ok s2 ts →
      (x.ord = 2 → releaseOver i i.scope = false → Waits c s i) ∧
      ((x.ord = 2 → releaseOver i i.scope = true) →
        (ts = [] → Completes c s s2 i i.nextPc i.active {}) ∧
        (ts ≠ [] → LoadEnters c s s2 i (entered i (.atomic x.d.toNat n) (some op) (ts.map fun a => ⟨a.1, a.2, .gated, operand a.1, compare a.1, none⟩)) (i.g.enterStore (atomicEntry i ts)).sb))) ∧
  (∀ y s s' i, let x := XForm.enc 0xA6 y
    let n := if x.sub = 8 then 8 else 4
    Issues s x s' i → s.residueMiss ≤ 2 →
    let v := residueChecked s' i
    let a := i.addrOnce
    let full := i.g.bufferFull i.st i.active
    let stack := decide (a.toNat / 2 ^ 57 = 0x7E)
    (stack = true → ∀ tr, laneTrap i.st.mask (fun _ => 4) (fun _ => a) = some tr → x.la = 0 →
      exec (.atomagg y) s = .next ((v.takeTrap i.r tr).modStrand i.r fun st => { st with state := .waiting })) ∧
    (stack = false → i.active = 0 → Completes (.atomagg y) s s' i i.nextPc i.active {}) ∧
    (stack = false → i.active ≠ 0 → full = true → Waits (.atomagg y) s i) ∧
    ∀ s2 t, stack = false → i.active ≠ 0 → full = false → v.targetOnce i a n .both false = .ok s2 t →
      (x.ord = 2 → releaseOver i i.scope = false → Waits (.atomagg y) s i) ∧
      ((x.ord = 2 → releaseOver i i.scope = true) →
        let xs := (lanesOf i.active).map fun k => (k, operandOf i x.d.toNat n k)
        LoadEnters (.atomagg y) s s2 i
          (entered i (.agg x.d.toNat n xs) (some .add) [⟨(lowLane i.active).getD 0, t, .gated, (xs.map (·.2)).sum % 2 ^ (8 * n), 0, none⟩])
          (i.g.enterStore (atomicEntry i ((lanesOf i.active).map fun k => (k, t)))).sb))

/-! ### What becomes of accesses in flight (R141, R143, R188, R198, R210 to R213, R219, R220, R397) -/

/-- LANE_LOAD_PERFORM of loads and of atomics (R141, R143, R188, R198, R210, R224, R398, R403). -/
def Obligations.GatedLanes : Prop := LanePerformsPart ∧ AtomicPerformsPart

/-- LOAD_DATA_RETURN of a load or atomic all of whose lanes have been performed writes its registers and its flag in its lanes, takes it out of flight, and lets a strand go on that was parked on its granule; before that it does nothing (R149, R188, R397, R398, R402, R403, R406). -/
def Obligations.DataReturns : Prop :=
  ∀ s r g l, s.operand.g = r → s.group? r = some g → g.loads.find? (·.id = s.operand.n) = some l → g.ended = false → (g.strand l.sid).valid = true →
    (l.parts.all (fun p => (partData p).isSome) = false → exec .loadDataReturn s = .next s) ∧
    (l.parts.all (fun p => (partData p).isSome) = true →
      (l.dest = .store ∨ (∀ p ∈ l.parts, p.lane < 32) ∧ l.dest.bytes ∈ [1, 2, 4, 8, 16] ∧ ∀ k, (broughtBy l k).1.length = l.dest.bytes ∨ (broughtBy l k).1 = []) → ∃ (t : State) (g' : Group), exec .loadDataReturn s = .next t ∧ t.group? r = some g' ∧
        RegsAfter g g' l.sid (returnMask l) (returned l) ∧ g'.loads = g.loads.filter (·.id ≠ l.id) ∧ g'.sb = g.sb ∧ g'.acks = g.acks ∧
        ((g.strand l.sid).park = some (.granule l.id) → (g'.strand l.sid).state = .ready) ∧ SameElsewhere s t r)

/-- STORE_PART_RELEASE, STORE_ACKNOWLEDGE and RELEASE_WAIT_COMPLETE (R141, R142, R212, R217 to R220). -/
def Obligations.StoresComplete : Prop := PartReleasesPart ∧ AcknowledgesAndReleasesPart

/-! ### Fences, page requests and prefetch (R189, R407 to R411) -/

/-- FENCE, FENCER, TOUCH and PREF (R189, R217 to R220, R407 to R411). -/
def Obligations.FencesAndHints : Prop := FencesPart ∧ TouchAndPrefetchPart

/-! ### Copies (R412 to R419) -/

/-- Copies as they issue and as they complete (R169, R227, R412 to R419). -/
def Obligations.Copies : Prop := CopiesIssuePart ∧ CopiesCompletePart

/-! ### Barriers (R154 to R158, R173, R421 to R423) -/

/-- BARINIT, BARARV, BARWAIT, BARARW and BARSTAT (R154 to R158, R173, R421 to R423). -/
def Obligations.Barriers : Prop := BarrierCountsPart ∧ BarrierWaitsPart

/-! ### Events and mailboxes (R162 to R169, R424 to R428) -/

/-- EVBIND, EVMASK, EVCLR and WAITANY (R162 to R165, R173, R424 to R426). -/
def Obligations.Events : Prop := EventSlotsPart ∧ WaitsForEventsPart

/-- POST to a team's mailbox with room, on which nobody waits, leaves its value there as the newest, a full one holds it, and one for no live team is discarded; RECV takes the oldest value into its scalar, or parks behind those that wait (R167, R168, R427, R428). -/
def Obligations.Mailboxes : Prop :=
  (∀ y s s' i, let x := XForm.enc 0xC9 y
    Issues s x s' i →
    let v : BitVec 16 := if x.mod.getLsbD 0 then i.t.vteam else (i.scalar x.a).extractLsb' 0 16
    let scope : Scope := if v = i.t.vteam then .team else .device
    let mb := x.d.toNat
    (releaseOver i scope = false → Waits (.postMb y) s i) ∧
    (releaseOver i scope = true → s'.anyTeam? i.t.ctx v = none → Completes (.postMb y) s s' i i.nextPc i.active {}) ∧
    (∀ u, releaseOver i scope = true → s'.anyTeam? i.t.ctx v = some u → 8 ≤ (u.mbs.getD mb []).length → Waits (.postMb y) s i) ∧
    (∀ u, releaseOver i scope = true → s'.anyTeam? i.t.ctx v = some u → (u.mbs.getD mb []).length < 8 → mb < 8 → u.waiters.all (·.mb ≠ mb) = true → noEventWait s' = true →
      Ends (.postMb y) s i fun t g' => mailOf t i.t.ctx v mb = u.mbs.getD mb [] ++ [i.scalar x.b] ∧
        RegsAfter i.g g' i.r.num 0 {} ∧ GoesOn g' i.r.num i.nextPc ∧ t.mem = s'.mem)) ∧
  (∀ y s s' i, let x := XForm.enc 0xCA y
    Issues s x s' i →
    let mb := x.a.toNat
    (∀ v rest, i.t.mbs.getD mb [] = v :: rest → mb < 8 → Ends (.recv y) s i fun t g' =>
      RegsAfter i.g g' i.r.num i.active { s := [(x.d.toNat, v)] } ∧ GoesOn g' i.r.num i.nextPc ∧ SameGroup i.g g' i.r.num ∧
      (t.team? i.t.ctx i.t.vteam).map (fun u => u.mbs.getD mb []) = some rest ∧ t.mem = s'.mem) ∧
    (i.t.mbs.getD mb [] = [] → Parks (.recv y) s i (.recv mb x.d) fun t =>
      (t.team? i.t.ctx i.t.vteam).map (·.waiters) = some (i.t.waiters ++ [⟨mb, i.g.gidx, i.r.num⟩]) ∧ t.mem = s'.mem))

/-! ### Matrix passes as they are asked for (R170 to R172, R255 to R263, R429 to R431) -/

/-- CVINIT with a legal size and descriptor takes a convergence register that collects signatures, waits where none is free for it or the name is in use, and otherwise raises its fault with the name; MSIGN with fitting registers adds its signature, and the last one hands the pass to the engine, with its barrier's AGENTS raised and its registers marked; a name that collects nothing, or a second signature of a group, raises the fault (R170, R171, R257, R259 to R263, R429 to R431). -/
def Obligations.MatrixRequests : Prop :=
  (∀ y s s' i, let x := XForm.enc 0xCB y
    Issues s x s' i →
    let name := x.d.toNat
    let d := i.scalar x.a
    let size := (i.scalar x.b).toNat
    let legal := decide (1 ≤ size ∧ size ≤ 8) && Desc.ok ⟨d⟩
    let c := s'.core i.t.core
    (legal = false → Traps (.cvinit y) s s' i { cause := 0x0F#8, detail := name, la := x.la }) ∧
    (legal = true → ((c.conv? i.t name).isSome = true ∨ s'.freeConv? i.t.core = none) → Waits (.cvinit y) s i) ∧
    (∀ k, legal = true → c.conv? i.t name = none → s'.freeConv? i.t.core = some k → Ends (.cvinit y) s i fun t g' =>
      coreField (·.convs.toList) t = (coreField (·.convs.toList) s').modify i.t.core (·.set k (some ⟨i.t.ctx, i.t.vteam, name, size, d, []⟩)) ∧
      RegsAfter i.g g' i.r.num 0 {} ∧ GoesOn g' i.r.num i.nextPc ∧ SameGroup i.g g' i.r.num ∧ SameMachine s' t i.r.g)) ∧
  (∀ y s s' i, let x := XForm.enc 0xCC y
    Issues s x s' i →
    let name := x.d.toNat
    let sig := msignOf i.g.gidx x.w2
    ((s'.core i.t.core).conv? i.t name = none → Traps (.msign y) s s' i { cause := 0x0F#8, detail := name, la := x.la }) ∧
    ∀ k v, (s'.core i.t.core).conv? i.t name = some (k, v) →
      let d : Desc := ⟨v.desc⟩
      let regs := sig.reads d ++ sig.writes d
      let fits := regs.all (fun r => decide (r < i.g.vregs)) && !i.hasSet && !sig.clashes d v.sigs
      (v.sigs.any (·.gidx = i.g.gidx) = true → Traps (.msign y) s s' i { cause := 0x0F#8, detail := name, la := x.la }) ∧
      (v.sigs.any (·.gidx = i.g.gidx) = false → fits = true → v.sigs.length + 1 < v.size → Ends (.msign y) s i fun t g' =>
        convsOf t i.t.core = (convsOf s' i.t.core).set k (some { v with sigs := v.sigs ++ [sig] }) ∧
        RegsAfter i.g g' i.r.num 0 {} ∧ GoesOn g' i.r.num i.nextPc ∧ SameGroup i.g g' i.r.num ∧ SameMachine s' t i.r.g) ∧
      (∀ o b e, v.sigs.any (·.gidx = i.g.gidx) = false → fits = true → v.size ≤ v.sigs.length + 1 → allParts d (v.sigs ++ [sig]) = true → barHere s' i.t d.bar o b e →
        let table := (s'.engines.getD (engineOf i.t.core) Engine.reset).table
        (32 ≤ table.length ∨ 255 ≤ e.agents → Waits (.msign y) s i) ∧
        (table.length < 32 → e.agents < 255 → (v.sigs ++ [sig]).all (fun z => ((i.t.group? z.gidx).bind fun g => g.signHold z d).isNone) = true → Ends (.msign y) s i fun t g' =>
          (∃ p : Pass, t.engines.toList.map (·.table) = (s'.engines.toList.map (·.table)).modify (engineOf i.t.core) (· ++ [p]) ∧ p.desc = v.desc ∧ p.sigs = v.sigs ++ [sig] ∧ p.ctx = i.t.ctx ∧ p.vteam = i.t.vteam ∧
            p.core = i.t.core ∧ ∀ r ∈ sig.writes d, ⟨r, true, p.id⟩ ∈ g'.marks) ∧
          barsOf t o.core = (barsOf s' o.core).set b (some { e with agents := e.agents + 1 }) ∧ (convsOf t i.t.core).getD k none = none ∧
          RegsAfter i.g g' i.r.num 0 {} ∧ GoesOn g' i.r.num i.nextPc ∧ t.mem = s'.mem)))

/-! ### Device-side launch and near-memory runs (R68 to R70, R432 to R434) -/

/-- LAUNCH of a packet in the global window writes its status and goes on: BADQUEUE for a queue that is absent or is no device queue, NONRES for a packet that is not resident, FULL for a full one, and with room the counter of the slot it fills, with the packet's 128 bytes in that slot and the tail advanced (R68 to R70, R432). Its release must be over first. -/
def Obligations.DeviceLaunch : Prop :=
  ∀ y s s' i s2 tg, let x := XForm.enc 0xCD y
    let a := i.scalar x.a
    Issues s x s' i → apertureOf a = .global → s'.targetOnce i a 128 .read false = .ok s2 tg →
    let q := (i.scalar x.b).toNat % 16
    let u := afterRel s2 i .device
    let status (s4 : State) (v : Nat) : Prop := Completes (.launch y) s (s4.dropImageLines i.t.core) i i.nextPc i.active { s := [(x.d.toNat, BitVec.ofNat 64 v)] }
    (releaseOver i .device = false → Waits (.launch y) s i) ∧
    (∀ c, releaseOver i .device = true → u.ctx? i.t.ctx = some c → ((u.queueNow c q).ring = 0 ∨ (u.queueNow c q).kind ≠ 1) → status u 9) ∧
    (∀ c, releaseOver i .device = true → u.ctx? i.t.ctx = some c → (u.core i.t.core).kcache.find? (·.line = launchKey i.r) = none →
      (u.queueNow c q).ring ≠ 0 → (u.queueNow c q).kind = 1 → tg = .nonres → status u 6) ∧
    (∀ c s3 pa va, releaseOver i .device = true → u.ctx? i.t.ctx = some c → (u.core i.t.core).kcache.find? (·.line = launchKey i.r) = none →
      let w := u.queueNow c q
      w.ring ≠ 0 → w.kind = 1 → tg ≠ .nonres → u.launching i.t.ctx q = false → u.writeSlot (u.whoTeam i.t) (w.slotAddr w.tail) .write = (s3, .here pa va) →
      (∀ s4, s3.readPieces i [tg] = .ok s4 none → status s4 6) ∧
      (∀ s4 bytes, w.fill = 2 ^ w.logsize → s3.readPieces i [tg] = .ok s4 (some bytes) → status s4 1) ∧
      (∀ s4 bytes, w.fill ≠ 2 ^ w.logsize → s3.readPieces i [tg] = .ok s4 (some bytes) → 65536 ≤ pa → pa < memTop → s4.held pa = false → w.slot.isSome = true →
        Ends (.launch y) s i fun t g' =>
          (∀ b, countedAt s4 i.t b = false → memGet t.mem b = if pa ≤ b ∧ b < pa + bytes.length then bytes.getD (b - pa) 0 else memGet s4.mem b) ∧
          ((t.ctx? c.num).map fun z => (z.queues.getD q Queue.absent).tail) = some (w.tail + 1) ∧
          RegsAfter i.g g' i.r.num i.active { s := [(x.d.toNat, BitVec.ofNat 64 (w.tail.toNat * 2 ^ 32))] } ∧ GoesOn g' i.r.num i.nextPc ∧ SameGroup i.g g' i.r.num))

/-- NMRUN with a legal control value reads its descriptor and writes its status: BADTYPE for a head that is none, the code that the checks of a run give, and 0 for one that is queued on every stack that holds its range; a reserved control value raises ILLENC with its field, and a full queue holds it (R433, R434). -/
def Obligations.NearMemoryRuns : Prop :=
  ∀ y s s' i, let x := XForm.enc 0xCE y
    let ctl := (i.scalar x.b).toNat
    let bad := decide (2 ^ 20 ≤ ctl ∨ ctl.testBit 15 = true ∨ ctl / 2 ^ 18 % 4 = 3 ∨ ctl / 2 ^ 16 % 4 = 3)
    let a := i.scalar x.a
    Issues s x s' i →
    let status (u : State) (v : Nat) : Prop := Completes (.nmrun y) s (u.dropImageLines i.t.core) i i.nextPc i.active { s := [(x.d.toNat, BitVec.ofNat 64 v)] }
    (bad = true → Traps (.nmrun y) s s' i { cause := 0x02#8, detail := x.b.toNat, la := x.la }) ∧
    ∀ s2 tg, bad = false → apertureOf a = .global → s'.targetOnce i a 128 .read false = .ok s2 tg →
      (i.storesWait = true → Waits (.nmrun y) s i) ∧
      ∀ s3 raw, i.storesWait = false → s2.readPieces i [tg] = .ok s3 (some raw) →
        let d : RunDesc := ⟨raw⟩
        (d.header ≠ 3 → status s3 3) ∧
        (∀ s4 code, d.header = 3 → s3.checkRun (s3.whoTeam i.t) d = .ok s4 (.fail code) → status s4 code.toNat) ∧
        (∀ s4 words pages, d.header = 3 → s3.checkRun (s3.whoTeam i.t) d = .ok s4 (.ok words pages) →
          let run (acqw : Option AcqWait) : SillRun := ⟨s4.nextId, i.t.ctx, .team i.t.ctx i.t.vteam (if ctl.testBit 14 then some (ctl / 2 ^ 8 % 64, ctl % 256) else none), words, d.rbase, d.rlen, pages, d.q,
            ctl / 2 ^ 16 % 4, ctl / 2 ^ 18 % 4, acqw, d.sigaddr, d.sigval, false, .queued, 0⟩
          (∀ w, s4.runFull (run w) = true) → Waits (.nmrun y) s i) ∧
        (∀ s4 words pages, d.header = 3 → s3.checkRun (s3.whoTeam i.t) d = .ok s4 (.ok words pages) →
          let homes := (List.range 12).filter fun k => pages.any fun p => stackOfPa p.2 = k
          homes.all (fun k => decide ((s4.stack k).queue.length < 32)) = true → Ends (.nmrun y) s i fun t g' =>
            (∃ r : SillRun, t.runs = s4.runs ++ [r] ∧ r.words = words ∧ r.pages = pages ∧ r.rbase = d.rbase ∧ r.rlen = d.rlen ∧ r.stage = .queued ∧
              ∀ k < 12, (t.stack k).queue = (s4.stack k).queue ++ if k ∈ homes then [r.id] else []) ∧
            RegsAfter i.g g' i.r.num i.active { s := [(x.d.toNat, 0#64)] } ∧ GoesOn g' i.r.num i.nextPc ∧ SameGroup i.g g' i.r.num ∧ t.mem = s4.mem)

/-! ### System instructions (R274, R275, R435 to R441) -/

/-- STRSAVE, CTXSAVE and STRLOAD (R271, R275, R279, R437, R438). -/
def Obligations.SavesAndLoads : Prop := StrandSavesPart ∧ StrandLoadsPart

/-- CTXLOAD takes from an image the vector registers, `$seed`, s1 to s155, p1 to p7, the slide descriptors and the event bindings, PE and EM, vector registers and predicates in all lanes of its team, and nothing else, and clears p7 in the handler's lanes; a bound slide descriptor or a binding that fails its check raises ILLENC with nothing written (R279, R392, R438). MFREEZE scans a running pass of its team out into the freeze store, waits where another team's pass stands there, and has no effect a second time (R439). -/
def Obligations.ContextLoadsAndFreezes : Prop :=
  (∀ y s s' i, let x := XForm.enc 0xE4 y
    IssuesWith (fun _ i => allRegs i true) s x s' i → i.g.vregs ≤ 256 →
    (i.storesWait = true → Waits (.ctxload y) s i) ∧
    ∀ s2 r, i.storesWait = false → s'.imageTargets i i.addrOnce (154 + i.g.vregs) .read = .ok s2 r →
      (r = none → Completes (.ctxload y) s (s2.dropImageLines i.t.core) i i.nextPc i.st.mask { p := [(7, i.st.mask)] }) ∧
      ∀ ts s3 b, r = some ts → s2.readPieces i ts = .ok s3 (some b) →
        let u := s3.dropImageLines i.t.core
        let o := 128 * i.g.vregs
        let slide (k : Nat) : Option Slide := Slide.ofBytes i.g.vregs ((b.drop (4736 + o + 16 * k)).take 16)
        let bad : Prop := ∃ k < 16, legalBinding (fld b (4864 + o + 8 * k) 8) = false ∨ (k < 8 ∧ slide k = none)
        (bad → Traps (.ctxload y) s u i { cause := 0x02#8, detail := x.a.toNat, la := x.la }) ∧
        (¬ bad → noEventWait u = true → Ends (.ctxload y) s i fun t g' =>
          (∀ j < 256, ∀ l < 32, vlane g' j l = if j < i.g.vregs ∧ i.t.lanes.getLsbD l = true then BitVec.ofNat 32 (fld b (128 + 128 * j + 4 * l) 4) else vlane i.g j l) ∧
          (∀ l < 32, seedLane g' l = BitVec.ofNat 32 (fld b (128 + o + 4 * l) 4)) ∧
          (∀ k < 156, g'.s.getD k 0 = if k = 0 then i.g.s.getD 0 0 else BitVec.ofNat 64 (fld b (256 + o + 8 * k) 8)) ∧
          (∀ k < 8, ∀ l < 32, plane g' k l = if k = 0 then plane i.g 0 l else (fld b (1536 + o + 4 * k) 4).testBit l && i.t.lanes.getLsbD l && !(k = 7 && i.st.mask.getLsbD l)) ∧
          (∀ k < 8, slide k = some (g'.slide k)) ∧
          (∀ k < 16, let e := g'.events.getD k Binding.unbound; let v := fld b (4864 + o + 8 * k) 8
            e.kind.toNat = v / 2 ^ 62 % 4 ∧ e.spent = v.testBit 61 ∧ e.obj.toNat = v / 2 ^ 32 % 64 ∧ e.val.toNat = v % 2 ^ 32) ∧
          g'.pe.toNat = fld b (4992 + o) 2 ∧ g'.em.toNat = fld b (4994 + o) 2 ∧ g'.sup = i.g.sup ∧
          GoesOn g' i.r.num i.nextPc ∧ SameGroup i.g { g' with s := i.g.s, slides := i.g.slides, events := i.g.events, pe := i.g.pe, em := i.g.em } i.r.num ∧ SameElsewhere u t i.r.g)) ∧
  (∀ y s s' i, let x := SForm.enc 0xE5 y
    Issues s x s' i →
    let e := s'.engines.getD (engineOf i.t.core) Engine.reset
    let again := i.t.frozen.contains i.g.gidx
    let taken := e.freeze.any fun p => !p.of i.t
    (again = true → Completes (.mfreeze y) s s' i i.nextPc i.active {}) ∧
    (again = false → taken = true → Waits (.mfreeze y) s i) ∧
    (again = false → taken = false → Ends (.mfreeze y) s i fun t g' =>
      t.engines.toList = s'.engines.toList.modify (engineOf i.t.core) (frozenEngine i.t) ∧ (t.team? i.t.ctx i.t.vteam).map (·.frozen) = some (i.t.frozen ++ [i.g.gidx]) ∧
      RegsAfter i.g g' i.r.num 0 {} ∧ GoesOn g' i.r.num i.nextPc ∧ SameGroup i.g g' i.r.num ∧ t.mem = s'.mem ∧ t.bents = s'.bents ∧ t.grids = s'.grids))

/-- CINV drops what its sub-operation names at once, and goes on once no access of the context in flight at an address it dropped is left; until then it waits (R440). CWB goes on with memory and registers as they were; within a page that a leaf of this device maps, and anywhere in physical addresses of context 0, every dirty line of its range is clean afterwards and still valid, and every other line is as before; a page without such a leaf is skipped, and a length of zero writes nothing (R204, R441). -/
def Obligations.CacheControl : Prop :=
  (∀ y s s' i, let x := XForm.enc 0xE6 y
    Issues s x s' i → s'.cinvs.find? (·.r = i.r) = none → x.sub ≤ 4 →
    let va := (i.scalar x.a).toNat % 2 ^ 57
    let ctx := (i.scalar x.b).extractLsb' 0 8
    let tlbs := (List.range 256).flatMap (fun k => (s'.core k).tlb) ++ (List.range 4).flatMap fun d => s'.l2tlb.getD d []
    let reach (v : Nat) : Bool := x.sub = 1 || (x.sub = 0 && tlbs.any fun e => e.ctx = ctx && decide (e.va = va - va % e.leaf.size ∧ e.va = v - v % e.leaf.size))
    let used := (s'.inFlight ctx reach).filter s'.stillUses
    Ends (.cinv y) s i fun t g' => Dropped s' t x.sub va ctx ∧ RegsAfter i.g g' i.r.num 0 {} ∧ t.mem = s'.mem ∧
      (if used = [] then GoesOn g' i.r.num i.nextPc ∧ t.cinvs = s'.cinvs else (g'.strand i.r.num).state = .waiting ∧ (g'.strand i.r.num).pc = i.st.pc ∧ t.cinvs = s'.cinvs ++ [⟨i.r, used⟩])) ∧
  (∀ y s s' i, let x := XForm.enc 0xE7 y
    Issues s x s' i →
    let a := (i.scalar x.a).toNat
    let n := (i.scalar x.b).toNat
    let cleans (u : State) (pa : Nat) : Prop := Ends (.cwb y) s i fun t g' =>
      t.l2 = u.l2.map (fun z => if z.dirty && meetsLine pa n z.line then { z with dirty := false } else z) ∧
      RegsAfter i.g g' i.r.num 0 {} ∧ GoesOn g' i.r.num i.nextPc ∧ SameGroup i.g g' i.r.num ∧ SameElsewhere u t i.r.g
    (n = 0 → Completes (.cwb y) s s' i i.nextPc i.active {}) ∧
    (n ≠ 0 → a + n ≤ 2 ^ 57 → a / 65536 = (a + n - 1) / 65536 → i.t.ctx = 0 → cleans s' a) ∧
    ∀ s2 xl, n ≠ 0 → a + n ≤ 2 ^ 57 → a / 65536 = (a + n - 1) / 65536 → i.t.ctx ≠ 0 → s'.lookup (s'.whoTeam i.t) a = (s2, xl) →
      (∀ l, xl = .leaf l → l.remote = none → cleans s2 (l.base + a % l.size)) ∧
      (xl = .prot ∨ xl = .nonres ∨ (∃ l, xl = .leaf l ∧ l.remote.isSome = true) → Completes (.cwb y) s s2 i i.nextPc i.active {}))

/-- TRET resumes every strand with an entry where its cause and a changed PC say, clears every stop and the record, takes the handler away, puts a frozen pass of its team back at the head of its table and ends supervisor mode, with the group's own registers, memory and the rest as they were; TRET.kill kills a bent that runs, which is launched again while its grid has relaunches left, and TRET.fail fails the grid (R61, R97, R275, R291, R436, R439). -/
def Obligations.TrapReturns : Prop :=
  (∀ s s' i, Issues s (tretEnc 0x00000380#32) s' i → noBarrierWait s' = true → i.t.frozen = [] → (∀ e ∈ s'.engines.toList, e.freeze.any (·.of i.t) = false) → Ends .tret s i fun t g' =>
    g'.trap = .none ∧ g'.handler = none ∧ g'.record = FaultRecord.zero ∧ g'.repc = 0 ∧
    (∀ k < 16, i.g.record.fset.getLsbD k = true → resumedAt i.g k (g'.strand k) ∧ SameStrand (i.g.strand k) (g'.strand k) ∧ (g'.strand k).state = (i.g.strand k).state) ∧
    (∀ k < 16, i.g.record.fset.getLsbD k = false → SameOther (i.g.strand k) (g'.strand k)) ∧
    g'.v = i.g.v ∧ g'.s = i.g.s ∧ g'.p = i.g.p ∧ g'.seed = i.g.seed ∧ g'.sb = i.g.sb ∧ g'.acks = i.g.acks ∧ g'.loads = i.g.loads ∧ g'.longs = i.g.longs ∧ g'.slides = i.g.slides ∧
    g'.events = i.g.events ∧ g'.folds = i.g.folds ∧ SameElsewhere s' t i.r.g) ∧
  (∀ s s' i, Issues s (tretEnc 0x00000380#32) s' i → noBarrierWait s' = true → i.t.frozen.all (· = i.g.gidx) = true → Ends .tret s i fun t _ =>
    t.engines.toList = s'.engines.toList.map fun e => match e.freeze with
      | some p => if p.of i.t then { e with freeze := none, table := { p with first := true } :: e.table } else e
      | none => e) ∧
  (∀ s s' i b gr, Issues s (tretEnc 0x04000380#32) s' i → RunsIn s' i.t.bent b gr →
    ∃ t : State, exec .tretKill s = .next t ∧ BentKilled s' t b (decide ((b.asWritten s').relaunch < recRlim s' b.record))) ∧
  (∀ s s' i b gr, Issues s (tretEnc 0x08000380#32) s' i → RunsIn s' i.t.bent b gr →
    ∃ t : State, exec .tretFail s = .next t ∧ BentKilled s' t b false)

/-! ### Sill words (R442 to R453) -/

/-- Every word of the Sill instruction set (R443 to R456). -/
def Obligations.SillWords : Prop := SillLanesPart ∧ SillStepsPart

/-! ### What else happens in a group (R127, R145, R146, R149, R160, R174, R271 to R275, R283) -/

/-- Events of a group: completions, frees, traps, scheduling and barrier spills (R127, R145, R146, R149, R160, R174, R271 to R273, R283). -/
def Obligations.GroupUpkeep : Prop := GroupEventsPart ∧ GroupSchedulingPart

/-! ### Matrix passes at work (R249 to R251, R258 to R266) -/

/-- PASS_ARBITRATION starts the pass that R263 chooses on an engine that is free, and ends the first entry of a quarantined engine's table with QUAR. PASS_COMPLETE of a running pass whose acquire has passed ends it: with NOWEIGHT where it loads no weights and the active plane does not fit, and otherwise with OK and M rows, where each element of D is the sum of R250 or R251, in the team's lanes; a running pass whose acquire waits stays (R249 to R251, R258, R260, R262 to R266). -/
def Obligations.MatrixPasses : Prop :=
  (∀ s k, s.operand.n = k → k < 64 →
    let e := s.engines.getD k Engine.reset
    (e.running.isSome = true → exec .passArbitration s = .next s) ∧
    (e.running = none → e.quarantined = false → s.eligibles [] e.table = [] → exec .passArbitration s = .next s) ∧
    (∀ p, e.running = none → e.quarantined = false → choosePass e.active s.cycle (s.eligibles [] e.table) = some p →
      exec .passArbitration s = .next { s with engines := vmod s.engines k fun e => { e with running := some { p with first := false }, table := e.table.filter (·.id ≠ p.id) } } ∧
      (p ∈ e.table ∧ ∃ t, s.team? p.ctx p.vteam = some t ∧ t.frozen = []) ∧
      ((s.eligibles [] e.table).all (fun q => !q.first) = true → (s.eligibles [] e.table).all (fun q => decide (s.cycle ≤ q.entered + 4096)) = true → ∀ q ∈ s.eligibles [] e.table, q.prio ≤ p.prio)) ∧
    (∀ p rest t o b z, e.running = none → e.quarantined = true → e.table = p :: rest → s.team? p.ctx p.vteam = some t → t.groups.all (!·.ended) = true → barHere s t (Desc.bar ⟨p.desc⟩) o b z →
      z.arrive + 1 < z.expect → noBarrierWait s = true → PassEnds .passArbitration s k p o b z 4 0 fun _ _ => True)) ∧
  (∀ s k p t o b z, s.operand.n = k → k < 64 → s.team? p.ctx p.vteam = some t → t.groups.all (!·.ended) = true → barHere s t (Desc.bar ⟨p.desc⟩) o b z → z.arrive + 1 < z.expect → noBarrierWait s = true →
    let e := s.engines.getD k Engine.reset
    let d : Desc := ⟨p.desc⟩
    e.running = some p →
    (s.acquireWaits p.acqw = true → exec .passComplete s = .next s) ∧
    (s.acquireWaits p.acqw = false → p.loadw = false → p.plane = none → e.active.any (·.fits p) = false → PassEnds .passComplete s k p o b z 2 0 fun _ _ => True) ∧
    (∀ pl, s.acquireWaits p.acqw = false → e.miss = 0 → (if p.loadw then pl = s.passPlane p else p.plane = none ∧ e.active = some pl ∧ pl.fits p = true) →
      PassEnds .passComplete s k p o b z 0 d.m fun u w =>
        (u.engines.getD k Engine.reset).active = some pl ∧ w.toNat / 2 ^ 32 % 2 ^ 16 = pl.wtag.toNat ∧ w.toNat.testBit 7 = p.loadw ∧ w.toNat.testBit 6 = false ∧
        ∀ x base g, p.sigs = [x] → x.pd = some base → base + d.m ≤ 256 → s.group? ⟨p.ctx, p.vteam, x.gidx⟩ = some g →
          ∃ g', u.group? ⟨p.ctx, p.vteam, x.gidx⟩ = some g' ∧ ∀ r < 256, ∀ l < 32, vlane g' r l =
            if base ≤ r ∧ r < base + d.m ∧ t.lanes.getLsbD l = true then
              passResult d (s.passRow p d (r - base)) (pl.cols.getD (32 * x.g + l) ([], [])) (s.passReg p x.gidx r l)
            else vlane g r l))

/-! ### Sill runs, scrubbing and energy (R229, R284 to R286, R299, R434, R444 to R447, R454 to R456) -/

/-- SILL_RUN_START makes a void run void and any other one running, its lines out of the L2 and its first step after the last lease, once it is first on its stacks and its acquire is met; SILL_WAVE gives a stack that has no unit at work the first unit of the run's next wave that holds home atoms; SILL_RUN_COMPLETE of a run that has ended takes it off every queue; a team's run performs the writes that it held back and adds its amount to its token unless it is void or stopped; a packet's run ends the packet's work with BADFIELD when void and FAULT when stopped, and unless void it holds its lines until that work's signal. SCRUB_VISIT corrects a single error of a codeword of HBM in place, and logs an uncorrectable one and reports it; ENERGY_FOLD adds what a core has counted for each context to the context's counter, which saturates and then sets STICKY (R229, R230, R284 to R286, R299, R434, R447, R454 to R456). -/
def Obligations.RunsAndUpkeep : Prop :=
  (∀ s r, s.run? s.operand.n = some r →
    (startable s r = false → exec .sillRunStart s = .next s) ∧
    (startable s r = true → r.isVoid = true → ∃ t : State, exec .sillRunStart s = .next t ∧ t.run? r.id = some { r with stage := .void } ∧ t.mem = s.mem ∧ t.l2 = s.l2) ∧
    (startable s r = true → r.isVoid = false → ∃ t : State, exec .sillRunStart s = .next t ∧ t.mem = s.mem ∧
      (∃ at_, t.run? r.id = some { r with stage := .running, startAt := at_ } ∧ ∀ x ∈ s.l2, ({ r with stage := .running } : SillRun).holds (x.line * 128) = true → x.e1 ≤ at_ ∧ x.e2 ≤ at_) ∧
      ∀ x ∈ t.l2, x ∈ s.l2 ∧ ({ r with stage := .running } : SillRun).holds (x.line * 128) = false)) ∧
  (∀ s k, s.operand.n = k → k < 12 →
    (((s.stack k).unit.isSome = true ∨ s.waveRun k = none) → exec .sillWave s = .next s) ∧
    (∀ r, (s.stack k).unit = none → s.waveRun k = some r → s.quarantinedBank r = false →
      let wave (w : Nat) : Bool := decide ((s.stack k).wavesDone ≤ w) && (r.homeAtoms k).any fun a => sillUnitOf a.1 / 1536 = w
      ((List.range 4).find? wave = none → exec .sillWave s = .next s) ∧
      (∀ w, (List.range 4).find? wave = some w → ∃ (t : State) (u : SillUnit), exec .sillWave s = .next t ∧ (t.stack k).unit = some u ∧ u.run = r.id ∧ u.wave = w ∧ u.bank / 1536 = w ∧ u.pc = 0 ∧
        (∀ j < 8, u.z.getD j 1 = 0) ∧ u.buf = [] ∧ u.inPrologue = r.words.any isZrow ∧ (r.bodyStart < r.words.length → u.atoms = ((r.homeAtoms k).filter fun a => sillUnitOf a.1 = u.bank).map (·.2)) ∧
        (∀ a ∈ r.homeAtoms k, sillUnitOf a.1 / 1536 = w → sillUnitOf a.1 ∈ u.bank :: u.rest) ∧ { t with stackCtls := s.stackCtls } = s))) ∧
  (∀ s r, s.run? s.operand.n = some r →
    let held := s.heldWrites.filter fun w => r.holds w.pa
    let freed (t : State) : Prop := t.run? r.id = none ∧ (∀ j < 12, r.id ∉ (t.stack j).queue) ∧
      (∀ b, memGet t.mem b = memGet (held.foldl (fun m w => memWrite m w.pa (redBytes w.op (memRead m w.pa w.data.length) w.data)) s.mem) b) ∧
      (held.all (·.op = none) = true → ∀ b, memGet t.mem b = match held.reverse.find? fun w => decide (w.pa ≤ b ∧ b < w.pa + w.data.length) with
        | some w => w.data.getD (b - w.pa) 0
        | none => memGet s.mem b)
    (s.runEnded r = false → exec .sillRunComplete s = .next s) ∧
    (∀ w x, s.runEnded r = true → r.origin = .packet w → s.works.find? (·.id = w) = some x → ∃ t : State, exec .sillRunComplete s = .next t ∧ (t.run? r.id).map (·.stage) = (if r.stage = .void then none else some .ending) ∧ (∀ j < 12, r.id ∉ (t.stack j).queue) ∧
      ∃ y, t.works.find? (·.id = w) = some y ∧ y.ended = true ∧ (x.code = 0 → y.code = if r.stage = .void then 3#8 else if r.stage = .aborted then 6#8 else 0#8)) ∧
    (∀ c v tk amt, s.runEnded r = true → r.origin = .team c v (some (tk, amt)) → r.sigaddr = 0 → r.stage ≠ .aborted → noEventWait s = true → tk < 64 → (s.anyTeam? c v).isSome = true →
      (held.all fun w => !(s.runs.filter (·.id ≠ r.id)).any (·.holds w.pa)) = true →
      ∃ t : State, exec .sillRunComplete s = .next t ∧ freed t ∧ tokenOf t c v tk = tokenOf s c v tk + if r.stage = .running ∧ r.muted = false then BitVec.ofNat 32 amt else 0)) ∧
  (∀ s w, s.operand.n = 3 → s.operand.k = w → w ≠ 0 → 32 * w < memTop →
    (w ∈ s.poison → ∃ t : State, exec .scrubVisit s = .next t ∧ t.mem = s.mem ∧ t.poison = s.poison ∧
      (s.root.log (dieOfPa (32 * w)) 3 = [] → ∃ e, t.root.log (dieOfPa (32 * w)) 3 = [e] ∧ e.struct = 0x09 ∧ e.sev = 4 ∧ e.loc = 32 * w)) ∧
    (w ∉ s.poison → w ∈ s.corrupt → ∃ t : State, exec .scrubVisit s = .next t ∧ t.mem = s.mem ∧ t.corrupt = s.corrupt.filter (· ≠ w)) ∧
    (w ∉ s.poison → w ∉ s.corrupt → exec .scrubVisit s = .next s)) ∧
  (∀ s k, s.operand.n = k → k < 256 → ∃ t : State, exec .energyFold s = .next t ∧ t.mem = s.mem ∧ t.teams = s.teams ∧ (∀ x ∈ (t.core k).energy, x.2 = 0) ∧
    ∀ c x, s.ctx? c = some x → x.energy < 2 ^ 48 → ∃ y, t.ctx? c = some y ∧
      let e := ((((s.countStatic k).core k).energy.filter (·.1.1 = c)).map fun z => z.2 * energyScale z.1.2).sum
      y.energy = min (x.energy + e) (2 ^ 48 - 1) ∧ y.sticky = (x.sticky || decide (2 ^ 48 ≤ x.energy + e)) ∧ { y with energy := x.energy, sticky := x.sticky } = x)

/-! ### The device, its links and its clock (R21 to R24, R31 to R35, R38, R297) -/

/-- BOOT of a device that is not running boots slot A, or slot B where A does not pass, and, where every stack and die-to-die link trains, leaves device memory zero, device time 0, the identity block with READY, the ports up that train, each with what its other end declares, every quarantine as it was, and the device running; otherwise only recovery remains, with the stacks noted that fail. THROTTLE notes the temperature and the power and throttles its die from 100 °C or above 3,000 W (which die the power concerns is the model's choice, log 74); THROTTLE and THERMAL_SHUTDOWN at 115 °C stop every die, keeps device memory and loses running work. A die's offset moves by at most one tick within ±2 and die 0's stays; DEVICE_TIME_RESYNC holds every counter, with a log entry (whose log and SEV are the model's choice, log 75), until the master resumes; DYNAMIC_ADDRESS_ASSIGNMENT gives the sideband address (R31, R33 to R35, R38). -/
def Obligations.DeviceEvents : Prop :=
  (∀ s, s.root.phase = .running → exec .boot s = .next s) ∧
  (∀ s, s.root.phase ≠ .running → ¬ bootable s.root s.root.slotA → ¬ bootable s.root s.root.slotB → ∃ t : State, exec .boot s = .next t ∧ t.root.phase = .recoveryOnly ∧ t.root.booted = none) ∧
  (∀ s b, s.root.phase ≠ .running → (if b then bootable s.root s.root.slotB ∧ ¬ bootable s.root s.root.slotA else bootable s.root s.root.slotA) →
    ((s.operand.n % 4096 ≠ 4095 ∨ s.operand.k % 16 ≠ 15) → ∃ t : State, exec .boot s = .next t ∧ t.root.phase = .recoveryOnly ∧ ∀ k < 12, k ∈ t.root.failedStacks ↔ s.operand.n.testBit k = false) ∧
    (s.operand.n % 4096 = 4095 → s.operand.k % 16 = 15 → ∃ t : State, exec .boot s = .next t ∧ t.root.phase = .running ∧ t.root.booted = some b ∧ t.mem = [] ∧ t.time = 0 ∧
      t.teams = [] ∧ t.bents = [] ∧ t.grids = [] ∧ t.ident = leBytes 0x30 1 ++ leBytes 1 1 ++ leBytes 0x0B01 2 ++ leBytes s.root.vpen.toNat 4 ++ leBytes 0x3FF 8 ∧
      (∀ k < 24, (t.ports.getD k Port.reset).up = s.operand.j.testBit k ∧
        (s.operand.j.testBit k = true → (t.ports.getD k Port.reset).peer = some (match s.operand.bytes[k]? with
          | some 0x00#8 => .z9
          | some 0x01#8 => .switch
          | some 0x02#8 => .hostAdapter
          | _ => s.operand.peer))) ∧
      t.root.quarCores = s.root.quarCores ∧ t.root.quarSill = s.root.quarSill ∧ (∀ k < 64, (t.engines.getD k Engine.reset).quarantined = (s.engines.getD k Engine.reset).quarantined) ∧ (∀ k < 4, (t.dieLinks.getD k ⟨false, 0, 0⟩).up = true))) ∧
  (∀ s d, s.operand.n = d → d < 4 → (s.operand.k < 115 ∨ s.root.phase ≠ .running) → ∃ t : State, exec .throttle s = .next t ∧ t.root.power = s.operand.j ∧ (∀ k < 4, t.root.temps.getD k 0 = if k = d then s.operand.k else s.root.temps.getD k 0) ∧
    (∀ k < 4, t.throttled.getD k false = if k = d then decide (100 ≤ s.operand.k ∨ 3000 < s.operand.j) else s.throttled.getD k false) ∧ { t with root := s.root, throttled := s.throttled } = s) ∧
  (∀ s, s.operand.n < 4 → s.root.phase = .running →
    (s.operand.k < 115 → exec .thermalShutdown s = .next s) ∧
    (115 ≤ s.operand.k → ∀ c ∈ [Instr.throttle, Instr.thermalShutdown], ∃ t : State, exec c s = .next t ∧ t.root.phase = .shutDown ∧ t.mem = s.mem ∧ t.time = s.time ∧ t.teams = [] ∧ t.bents = [] ∧ t.grids = [] ∧
      .shutdownReport s.operand.n ∈ t.sent)) ∧
  (∀ s d, s.operand.n = d → d < 4 →
    let old := s.dieOff.getD d 0
    let new : Int := (s.operand.k : Int) - 2
    (∃ t : State, exec .deviceTimeSlew s = .next t ∧ { t with dieOff := s.dieOff } = s ∧ (t.dieOff.getD d 0 - old).natAbs ≤ 1 ∧ (∀ k < 4, k ≠ d → t.dieOff.getD k 0 = s.dieOff.getD k 0) ∧
      (-2 ≤ old → old ≤ 2 → -2 ≤ t.dieOff.getD d 0 ∧ t.dieOff.getD d 0 ≤ 2) ∧ (d = 0 → t.dieOff.getD 0 0 = old)) ∧
    (d ≠ 0 → s.operand.k ≤ 4 → s.timeHeld = false → s.time % 1000 = 0 → new = old + 1 → ∃ t : State, exec .deviceTimeSlew s = .next t ∧ t.dieOff.getD d 0 = new)) ∧
  (∀ s, (s.operand.flag = true → exec .deviceTimeResync s = .next { s with timeHeld := false }) ∧
    (s.operand.flag = false → s.timeHeld = true → exec .deviceTimeResync s = .next s) ∧
    (s.operand.flag = false → s.timeHeld = false → s.root.log (s.operand.n % 4) 0 = [] → ∃ t : State, exec .deviceTimeResync s = .next t ∧ t.timeHeld = true ∧
      (∃ e, t.root.log (s.operand.n % 4) 0 = [e] ∧ e.sev = 6) ∧ { t with timeHeld := false, root := s.root } = s)) ∧
  (∀ s, ∃ t : State, exec .dynamicAddressAssignment s = .next t ∧ t.root.i3cAddr.toNat = s.operand.n % 128 ∧ OnlyRoot s t)

/-- FLIT_RECEIVE on a port that is up takes a flit that passes its checks and comes in sequence, expects the next number, takes note of what it acknowledges and of the credits it returns, and hands its whole transactions on in order, with an idle flit that acknowledges them (when it is sent is the model's choice, log 71); any other flit is discarded, and replay is asked for from the first one missing, where the eighth failed replay makes the port retrain. FLIT_REPLAY sends the kept flits again from the named one on, in order. LINK_TRAINING brings a retraining port back, which then sends what it held, or counts a failure, the third of which takes it down, with what it had not delivered sent by a port that is up; a die-to-die link retrains in the same way, and its third failure fails every grid (R21 to R24, R27, R297). -/
def Obligations.Links : Prop :=
  (∀ s k p, s.operand.n = k → k < 24 → p = s.ports.getD k Port.reset →
    ((p.up = false ∨ p.training = true) → exec .flitReceive s = .next s ∧ exec .flitReplay s = .next s) ∧
    (p.up = true → p.training = false →
      (∀ c, flitPasses s.operand.bytes c → fld c 0 8 / 2 ^ 52 = p.rxExpect.toNat →
        let slots := if fld c 0 8 / 2 ^ 38 % 4 = 0 then p.slots ++ (List.range 7).map fun j => (c.drop (8 + 32 * j)).take 32 else p.slots
        let ts := (takeTxns slots.length slots).1
        ∃ (t : State) (q : Port), exec .flitReceive s = .next t ∧ t.ports.getD k Port.reset = q ∧ q.rxExpect = p.rxExpect + 1 ∧ q.rxFailed = false ∧ q.replays = 0 ∧ q.up = true ∧ q.training = false ∧
          q.unacked = p.unacked.filter (fun x => !seqLe x.1 (BitVec.ofNat 12 (fld c 0 8 / 2 ^ 40))) ∧
          (∀ v < 8, q.used.getD v 0 = p.used.getD v 0 - if v = fld c 0 8 / 2 ^ 35 % 8 then fld c 0 8 / 2 ^ 27 % 256 else 0) ∧
          (fld c 0 8 / 2 ^ 38 % 4 ≠ 0 → q.txSeq = p.txSeq ∧ q.replay = p.replay ∧ t.sent = s.sent) ∧
          (fld c 0 8 / 2 ^ 38 % 4 = 0 → q.txSeq = p.txSeq + 1 ∧ ∃ b, t.sent = s.sent ++ [.flit k b] ∧ fld b 0 8 / 2 ^ 52 = p.txSeq.toNat ∧ fld b 0 8 / 2 ^ 40 % 2 ^ 12 = p.rxExpect.toNat ∧ fld b 0 8 / 2 ^ 38 % 4 = 2) ∧
          t.agenda = s.agenda ++ ts.map (fun x => .event (txnRow x) { t := x }) ∧ OnlyPort s t k) ∧
      (((∀ c, ¬ flitPasses s.operand.bytes c) ∨ (∃ c, flitPasses s.operand.bytes c ∧ fld c 0 8 / 2 ^ 52 ≠ p.rxExpect.toNat ∧ p.rxFailed = false)) →
        ∃ (t : State) (q : Port), exec .flitReceive s = .next t ∧ t.ports.getD k Port.reset = q ∧ q.rxExpect = p.rxExpect ∧ q.rxFailed = true ∧ q.slots = p.slots ∧
          q.training = (p.rxFailed && p.replays = 7) ∧ (∃ b, t.sent = s.sent ++ [.replayRequest k p.rxExpect, .flit k b] ∧ fld b 0 8 / 2 ^ 38 % 4 = 1) ∧ t.agenda = s.agenda ∧ OnlyPort s t k) ∧
      (∀ c, flitPasses s.operand.bytes c → fld c 0 8 / 2 ^ 52 ≠ p.rxExpect.toNat → p.rxFailed = true → exec .flitReceive s = .next s) ∧
      (∃ t : State, exec .flitReplay s = .next t ∧ t.sent = s.sent ++ (p.replay.dropWhile (·.1 ≠ BitVec.ofNat 12 s.operand.k)).map (fun x => .flit k x.2) ∧ { t with sent := s.sent } = s))) ∧
  (∀ s k p, s.operand.n = k → k < 24 → p = s.ports.getD k Port.reset →
    (p.training = false → exec .linkTraining s = .next s) ∧
    (p.training = true →
      (s.operand.flag = true → ∃ t : State, exec .linkTraining s = .next t ∧ (let q := t.ports.getD k Port.reset
        q.up = p.up ∧ q.training = false ∧ q.retrains = 0 ∧ q.peer = some s.operand.peer ∧ q.held = [] ∧ (p.held = [] → q = { p with training := false, retrains := 0, peer := some s.operand.peer }) ∧
          q.unacked.map (·.2) = p.unacked.map (·.2) ++ p.held) ∧ t.mem = s.mem ∧ t.outstanding = s.outstanding) ∧
      (s.operand.flag = false → p.retrains < 2 → ∃ t : State, exec .linkTraining s = .next t ∧ t.ports.getD k Port.reset = { p with retrains := p.retrains + 1 } ∧ OnlyPort s t k) ∧
      (s.operand.flag = false → 2 ≤ p.retrains → ∃ t : State, exec .linkTraining s = .next t ∧ t.ports.getD k Port.reset = { p with up := false, training := false, retrains := 0, slots := [], unacked := [], held := [] } ∧ t.mem = s.mem ∧
        (s.root.log (k / 6) 4 = [] → ∃ e, t.root.log (k / 6) 4 = [e] ∧ e.struct = 0x22) ∧
        ((∃ j < 24, j ≠ k ∧ (s.ports.getD j Port.reset).up = true) → t.sent.filterMap ridgeOf = s.sent.filterMap ridgeOf ++ p.unacked.map (·.2) ++ p.held) ∧
        ((∀ j < 24, j ≠ k → (s.ports.getD j Port.reset).up = false) → t.agenda.length = s.agenda.length + s.outstanding.length)))) ∧
  (∀ s k l, s.operand.n = k → k < 4 → l = s.dieLinks.getD k ⟨false, 0, 0⟩ →
    (s.root.phase ≠ .running → exec .dieLinkFlitReceive s = .next s) ∧
    (s.root.phase = .running → ¬ (l.up = false ∧ s.operand.flag = false ∧ 2 ≤ l.retrains) → ∃ t : State, exec .dieLinkFlitReceive s = .next t ∧ t.mem = s.mem ∧ t.grids = s.grids ∧ t.teams = s.teams ∧
      t.dieLinks.getD k ⟨false, 0, 0⟩ = if l.up then (if s.operand.flag then { l with replays := 0 } else if l.replays < 7 then { l with replays := l.replays + 1 } else ⟨false, 0, l.retrains⟩)
        else if s.operand.flag then ⟨true, 0, 0⟩ else { l with retrains := l.retrains + 1 }) ∧
    (s.root.phase = .running → l.up = false → s.operand.flag = false → 2 ≤ l.retrains → ∃ t : State, exec .dieLinkFlitReceive s = .next t ∧ t.root.phase = .linkFailed ∧ ∀ rec g, s.grid? rec = some g → ∃ g', t.grid? rec = some g' ∧ (g'.ended = true ∨ g'.failed = true) ∧
      ((∀ b ∈ s.bents, b.st ≠ .cmt) → g.failed = false → g'.ended = true)))

/-! ### Ridge requests and completions (R25 to R27, R39, R51 to R55, R71) -/

/-- A request before an identity is set, or for another device, is discarded and counted; one with a reserved bit, an unknown operation or too many data slots is answered MALFORMED; one from a source that does not command its context DENIED. MEMORY_READ of one line answers with its bytes, FAULT or NONRES with zeros, ABORT without data; MEMORY_WRITE writes the bytes that its masks name and no others, and is answered once they are acknowledged; ATOMIC stores the operation's result and answers with the old value, and on a page of a peer goes to that peer (R26, R51 to R53, R216). -/
def Obligations.RidgeRequests : Prop :=
  (∀ s r, s.operand.t = r → s.root.phase = .running → isCompletion r = false →
    (s.root.idset = false → ∃ t : State, exec (txnRow r) s = .next t ∧ t.ridgeDiscards = s.ridgeDiscards + 1 ∧ t.ridgeErrors = s.ridgeErrors ∧ t.sent = s.sent ∧ t.mem = s.mem ∧ t.ctxs = s.ctxs) ∧
    (s.root.idset = true → r.dst ≠ s.root.devNum → s.waiting.contains r = false → ∃ t : State, exec (txnRow r) s = .next t ∧ t.ridgeDiscards = s.ridgeDiscards + 1 ∧ t.ridgeErrors = s.ridgeErrors + 1 ∧ t.sent = s.sent ∧ t.mem = s.mem ∧ t.ctxs = s.ctxs) ∧
    (Reaches s r → (r.rsv0 ≠ 0 ∨ r.rsv1 ≠ 0 ∨ 8 < r.ndata.toNat ∨ r.op.toNat ∉ [0, 1, 2, 8, 9, 12] ∨ wellFormed r = false) →
      ∃ t : State, exec .malformedTransaction s = .next t ∧ Answered s t r 1 [] ∧ t.ridgeErrors = s.ridgeErrors + 1 ∧ t.mem = s.mem ∧ t.ctxs = s.ctxs ∧ t.teams = s.teams) ∧
    (Reaches s r → wellFormed r = true → (if r.ctx = 0 ∨ r.op = 0x0C then r.src ≠ s.root.hostNum else ∀ c, s.ctx? r.ctx = some c → r.src ≠ c.owner) →
      ∃ t : State, exec (txnRow r) s = .next t ∧ OnlyAnswers s t r 3 [])) ∧
  (∀ s r c (a n : Nat) (s1 : State) (p : Place), Accepted s r c → r.op = 0x00 → a = r.addr.toNat → n = dw2 r 0 9 → a / 128 = (a + n - 1) / 128 → s.place ⟨r.ctx, none, none, none⟩ a .read = (s1, p) →
    (∀ pa sill, p = .here pa sill → s.poison = [] → s.l2bad = [] → ∃ t : State, exec .memoryRead s = .next t ∧ Answered s t r 0 (s1.physBytes pa n)) ∧
    (p = .prot → ∃ t : State, exec .memoryRead s = .next t ∧ Answered s t r 4 (List.replicate n 0)) ∧
    (p = .nonres → ∃ t : State, exec .memoryRead s = .next t ∧ Answered s t r 5 (List.replicate n 0)) ∧
    (∀ x, p = .abort x → ∃ t : State, exec .memoryRead s = .next t ∧ Answered s t r 6 []) ∧
    (p = .hold → ∃ t : State, exec .memoryRead s = .next t ∧ r ∈ t.waiting ∧ t.sent = s1.sent)) ∧
  (∀ s r c (a : Nat), Accepted s r c → r.op = 0x00 → r.ctx = 0 → a = r.addr.toNat → 65536 ≤ a → a / 32 ∈ s.poison → a < memTop → ∃ t : State, exec .memoryRead s = .next t ∧ Answered s t r 6 []) ∧
  (∀ s r c (a n : Nat), Accepted s r c → r.op = 0x01 → r.ctx = 0 → a = r.addr.toNat → n = 32 * r.ndata.toNat →
    (memTop < a + n → ∃ t : State, exec .memoryWrite s = .next t ∧ OnlyAnswers s t r 4 []) ∧
    (65536 ≤ a → a + n ≤ memTop → s.runs = [] → s.poison = [] → s.l2bad = [] → ∃ t : State, exec .memoryWrite s = .next t ∧ AnsweredLater s t r ∧ (∃ irqs, t.sent = s.sent ++ irqs ∧ irqs.all isInterrupt = true) ∧
      ∀ b, memGet t.mem b = if a ≤ b ∧ b < a + n ∧ (if b - a < 64 then r.dw2.getLsbD (b - a) else if b - a < 128 then r.dw3.getLsbD (b - a - 64) else true) = true then r.data.getD (b - a) 0 else memGet s.mem b)) ∧
  (∀ s r c (a n : Nat) (s1 : State) (p : Place), Accepted s r c → r.op = 0x01 → r.ctx ≠ 0 → a = r.addr.toNat → n = 32 * r.ndata.toNat → a / 128 = (a + n - 1) / 128 → s.place ⟨r.ctx, none, none, none⟩ a .write = (s1, p) →
    (∀ pa sill, p = .here pa sill → s.runs = [] → s.poison = [] → s.l2bad = [] → ∃ t : State, exec .memoryWrite s = .next t ∧ AnsweredLater s t r ∧
      ∀ b, memGet t.mem b = if pa ≤ b ∧ b < pa + n ∧ (if b - pa < 64 then r.dw2.getLsbD (b - pa) else r.dw3.getLsbD (b - pa - 64)) = true then r.data.getD (b - pa) 0 else memGet s1.mem b) ∧
    (p = .prot → ∃ t : State, exec .memoryWrite s = .next t ∧ Answered s t r 4 [] ∧ t.mem = s1.mem) ∧
    (p = .nonres → ∃ t : State, exec .memoryWrite s = .next t ∧ Answered s t r 5 [] ∧ t.mem = s1.mem)) ∧
  (∀ s r c (a n : Nat) (s1 : State) (p : Place), Accepted s r c → r.op = 0x02 → a = r.addr.toNat → n = (if r.dw2.getLsbD 4 then 8 else 4) → s.place ⟨r.ctx, none, none, none⟩ a .both = (s1, p) →
    (∀ pa sill, p = .here pa sill → 65536 ≤ pa → s.runs = [] → s.poison = [] → s.l2bad = [] →
      let m := leNat (memRead s1.mem pa n)
      let x := leNat (r.data.take n)
      let y := BitVec.ofNat (8 * n) x
      let v := match r.dw2.toNat % 16 with
        | 0 => (m + x) % 2 ^ (8 * n)
        | 1 => if (BitVec.ofNat (8 * n) m).slt y then m else x
        | 2 => if y.slt (BitVec.ofNat (8 * n) m) then m else x
        | 3 => m &&& x
        | 4 => m ||| x
        | 5 => m ^^^ x
        | 6 => x
        | _ => if m = r.dw3.toNat % 2 ^ (8 * n) then x else m
      32 ≤ r.data.length → ∃ t : State, exec .ridgeAtomic s = .next t ∧ (∀ b, memGet t.mem b = if pa ≤ b ∧ b < pa + n then BitVec.ofNat 8 (v / 256 ^ (b - pa)) else memGet s1.mem b) ∧
        (if v = m then Answered s t r 0 (leBytes m n) else AnsweredLater s t r ∧ ∃ x ∈ t.replies, x.t.op = 0x03 ∧ x.t.data.take n = leBytes m n)) ∧
    (∀ d pa t2, p = .peer d pa → 32 ≤ r.data.length →
      s1.fresh.1.request d (atomicTxn r.ctx pa (r.dw2.toNat % 16) n (leNat (r.data.take n)) (r.dw3.toNat % 2 ^ (8 * n))) (.forward s1.fresh.2) = .sent t2 →
      ∃ (t : State) (x : Reply), exec .ridgeAtomic s = .next t ∧ t.mem = s1.mem ∧ t.outstanding = t2.outstanding ∧ t.sent = t2.sent ∧ t.replies = t2.replies ++ [x] ∧ x.id = s1.fresh.2 ∧ x.out = 1 ∧ x.t.dst = r.src ∧ x.t.src = r.dst) ∧
    (p = .prot → ∃ t : State, exec .ridgeAtomic s = .next t ∧ Answered s t r 4 (List.replicate n 0) ∧ t.mem = s1.mem) ∧
    (p = .nonres → ∃ t : State, exec .ridgeAtomic s = .next t ∧ Answered s t r 5 (List.replicate n 0) ∧ t.mem = s1.mem))

/-- A completion ends the outstanding request with its tag, its source and the number that it answers to, and no other, and one that answers none is discarded and counted: a part of a load gets its data, or zeros with the flag of a non-resident page; a store's part is acknowledged; a copy reads on or notes its failure; a line of a peer is kept; a signal ends, as failed where it was not performed; a piece of a request that was sent on is counted (R26, R53, R185, R188, R418). -/
def Obligations.Completions : Prop :=
  ∀ s c (i : Instr) (status : Nat) (data : List Byte), CompletionArrives s c → i = (if c.op = 0x03 then .completionWithData else .completionWithoutData) → status = dw2 c 0 8 → data = (c.data ++ List.replicate 256 0).take (32 * c.ndata.toNat) →
    ((∀ r ∈ s.outstanding, ¬ (r.tag = dw2 c 8 12 ∧ r.peer = c.src ∧ r.self = c.dst)) → ∃ t : State, exec i s = .next t ∧ t.ridgeDiscards = s.ridgeDiscards + 1 ∧ t.ridgeErrors = s.ridgeErrors + 1 ∧ t.mem = s.mem ∧ t.teams = s.teams ∧ t.outstanding = s.outstanding) ∧
    (∀ r, s.outstanding.find? (fun r => r.tag = dw2 c 8 12 && r.peer = c.src && r.self = c.dst) = some r →
      (r.want = .message ∨ r.want = .stray ∨ (r.want = .signal none ∧ status = 0) → exec i s = .next { s with outstanding := s.outstanding.erase r }) ∧
      (∀ id x, r.want = .signal (some (.queue id)) → s.works.find? (·.id = id) = some x → ∃ (t : State) (y : Work), exec i s = .next t ∧ t.outstanding = s.outstanding.erase r ∧ t.mem = s.mem ∧
        t.works.find? (·.id = id) = some y ∧ y.sig = (if status = 0 then .done else .failed) ∧ { y with sig := x.sig } = x) ∧
      (∀ id x, r.want = .forward id → s.replies.find? (·.id = id) = some x → ∃ (t : State) (y : Reply), exec i s = .next t ∧ t.outstanding = s.outstanding.erase r ∧ t.mem = s.mem ∧ t.replies.find? (·.id = id) = some y ∧
        y.out = x.out - 1 ∧ y.after_ = x.after_ ∧ y.lines = x.lines ∧ (status = 0 → dw2 y.t 0 64 = dw2 x.t 0 64)) ∧
      (∀ k line code, r.want = .line k line code → k < 256 → ∃ t : State, exec i s = .next t ∧ t.outstanding = s.outstanding.erase r ∧ t.mem = s.mem ∧
        (if code then (t.core k).icache else (t.core k).kcache).find? (·.line = line) = some ⟨line, (data ++ List.replicate 128 0).take 128, BitVec.ofNat 8 status⟩) ∧
      (∀ g id lane x l p, r.want = .loadPart g id lane → s.group? g = some x → x.loads.find? (·.id = id) = some l → l.parts.find? (·.lane = lane) = some p →
        (status = 0 → ∃ (t : State) (y : Group) (m : Load) (q : LoadPart), exec i s = .next t ∧ t.outstanding = s.outstanding.erase r ∧ t.mem = s.mem ∧ t.group? g = some y ∧ y.loads.find? (·.id = id) = some m ∧ m.parts.find? (·.lane = lane) = some q ∧
          q.st = .done ((data ++ List.replicate 32 0).take l.dest.bytes) false) ∧
        (status = 5 → ∃ (t : State) (y : Group) (m : Load) (q : LoadPart), exec i s = .next t ∧ t.outstanding = s.outstanding.erase r ∧ t.mem = s.mem ∧ t.group? g = some y ∧ y.loads.find? (·.id = id) = some m ∧ m.parts.find? (·.lane = lane) = some q ∧
          q.st = .done (List.replicate l.dest.bytes 0) true)) ∧
      (∀ g e x, r.want = .storeAck g e → s.group? g = some x → x.loads = [] → ∃ (t : State) (y : Group), exec i s = .next t ∧ t.outstanding = s.outstanding.erase r ∧ t.mem = s.mem ∧ t.group? g = some y ∧
        ∀ a ∈ y.acks, ¬ (a.entry = e ∧ a.tag = some r.tag)) ∧
      (∀ core id ofs len w x, r.want = .copy core id ofs len w → (s.core core).copies.find? (·.id = id) = some x → (status = 4 ∨ status = 5) → ∃ (t : State) (y : Copy), exec i s = .next t ∧ t.outstanding = s.outstanding.erase r ∧
        t.mem = s.mem ∧ (t.core core).copies.find? (·.id = id) = some y ∧ y.out = x.out - 1 ∧ y.fail.isSome = true) ∧
      (∀ id ofs len w x, r.want = .sysCopy id ofs len w → s.sysCopies.find? (·.id = id) = some x → status ≠ 0 → ∃ (t : State) (y : SysCopy), exec i s = .next t ∧ t.outstanding = s.outstanding.erase r ∧ t.mem = s.mem ∧
        t.sysCopies.find? (·.id = id) = some y ∧ y.failed = true))

/-- An operation on a queue that does not exist is answered MALFORMED. TAIL_WRITE takes a tail that leaves the queue at most full, and answers QERR to any other; PROGRESS_READ, TAIL_READ and STATUS_READ answer with the counter or the status word that the Z9 holds of it; QUEUE_RESUME ends the error state and steps over a failing packet that was not consumed, where its source may command it (R41, R44, R47, R48, R54, R55). -/
def Obligations.QueueOperations : Prop :=
  (∀ s r c x qop, QueueOf s r qop c x → qop ≤ 5 → x.ring = 0 → ∃ t : State, exec (txnRow r) s = .next t ∧ OnlyAnswers s t r 1 []) ∧
  (∀ (s : State) (c : Ctx) (q : Nat), q < 16 →
    let a := c.desc + 64 + 32 * q
    let x := c.queues.getD q Queue.absent
    ((c.num ≠ 0 ∨ x.latched = true) → s.queueNow c q = x) ∧
    (let y := s.loadQueue c q x;
      y.tail.toNat = fld (memRead s.mem a 32) 16 4 ∧ y.progress.toNat = fld (memRead s.mem a 32) 20 4 ∧ y.error = (fld (memRead s.mem a 32) 24 8).testBit 1 ∧
      y.consumed = (fld (memRead s.mem a 32) 24 8).testBit 2 ∧ y.ring = x.ring ∧ y.slot = x.slot) ∧
    (c.num = 0 → x.latched = false → let y := s.queueNow c q
      y.ring = fld (memRead s.mem a 32) 0 8 ∧ y.tail = x.tail ∧ y.progress = x.progress ∧ y.error = x.error)) ∧
  (∀ s r c x (v : Word), QueueOf s r 1 c x → x.ring ≠ 0 → v = r.dw3.extractLsb' 0 32 →
    let boot := r.ctx = 0 ∧ dw2 r 8 4 = 0 ∧ x.latched = false
    ((x.kind = 1 ∨ (boot ∧ (x.kind ≠ 0 ∨ x.logsize < 4 ∨ 16 < x.logsize))) → ∃ t : State, exec .tailWrite s = .next t ∧ OnlyAnswers s t r 1 []) ∧
    (x.kind = 0 → (boot → 4 ≤ x.logsize ∧ x.logsize ≤ 16) → 2 ^ x.logsize < (v - x.progress).toNat → ∃ t : State, exec .tailWrite s = .next t ∧ OnlyAnswers s t r 7 []) ∧
    (x.kind = 0 → (boot → 4 ≤ x.logsize ∧ x.logsize ≤ 16) → (v - x.progress).toNat ≤ 2 ^ x.logsize → (x.slot.isSome = true ∨ s.runs = []) → ∃ (t : State) (c' : Ctx), exec .tailWrite s = .next t ∧ Answered s t r 0 [] ∧ t.ctx? r.ctx = some c' ∧
      (let y := t.queueNow c' (dw2 r 8 4); y.tail = v ∧ y.progress = x.progress ∧ y.error = x.error ∧ y.errcode = x.errcode ∧ y.ring = x.ring ∧ y.logsize = x.logsize ∧ (boot → y.latched = true)) ∧
      (x.slot.isSome = true → t.mem = s.mem) ∧ ∀ q < 16, q ≠ dw2 r 8 4 → c'.queues.getD q Queue.absent = c.queues.getD q Queue.absent)) ∧
  (∀ s r c x, QueueOf s r 2 c x → x.ring ≠ 0 → ∃ t : State, exec .progressRead s = .next t ∧ OnlyAnswers s t r 0 (leBytes x.progress.toNat 4)) ∧
  (∀ s r c x, QueueOf s r 3 c x → x.ring ≠ 0 → ∃ t : State, exec .tailRead s = .next t ∧ OnlyAnswers s t r 0 (leBytes x.tail.toNat 4)) ∧
  (∀ s r c x, QueueOf s r 4 c x → x.ring ≠ 0 → ∃ t : State, exec .statusRead s = .next t ∧
    OnlyAnswers s t r 0 (leBytes ((if x.slot.isSome then 1 else 0) + (if x.error then 2 else 0) + (if x.consumed then 4 else 0) + 256 * x.errcode.toNat + 2 ^ 32 * x.errcount.toNat) 8)) ∧
  (∀ s r c x, QueueOf s r 5 c x → x.ring ≠ 0 →
    (x.kind = 1 → r.src ≠ s.root.hostNum → ∃ t : State, exec .queueResume s = .next t ∧ OnlyAnswers s t r 3 []) ∧
    ((x.kind ≠ 1 ∨ r.src = s.root.hostNum) → x.error = false → ∃ t : State, exec .queueResume s = .next t ∧ OnlyAnswers s t r 0 []) ∧
    ((x.kind ≠ 1 ∨ r.src = s.root.hostNum) → x.error = true → (x.slot.isSome = true ∨ s.runs = []) → ∃ (t : State) (c' : Ctx), exec .queueResume s = .next t ∧ Answered s t r 0 [] ∧ t.ctx? r.ctx = some c' ∧
      (let y := t.queueNow c' (dw2 r 8 4); y.error = false ∧ y.consumed = false ∧ y.errcode = 0 ∧ y.tail = x.tail ∧ y.progress = if x.consumed then x.progress else x.progress + 1) ∧
      (x.slot.isSome = true → t.mem = s.mem)))

/-- ENERGY_READ answers with the context's counter, what every core has counted added to it, saturated at 2^48 - 1, with the bits of residency and saturation, and ENERGY_CLEAR clears the counter with STICKY; MAILBOX_POST answers NOTEAM, or MBFULL without posting, or posts as POST does; MANAGEMENT_MESSAGE is answered OK, and its command, where it holds one, comes up as a turn of its own (R52, R66, R71). -/
def Obligations.OtherRequests : Prop :=
  (∀ s r c, Accepted s r c → r.op = 0x08 → dw2 r 0 8 = 6 → (∀ x ∈ s.ctxs, x.energy < 2 ^ 48) →
    let e := c.energy + ((List.range 256).map (uncounted s r.ctx)).sum
    ∃ t : State, exec .energyRead s = .next t ∧ t.mem = s.mem ∧ Answered s t r 0 (leBytes (min e (2 ^ 48 - 1) + (if s.teams.any (·.ctx = r.ctx) then 2 ^ 62 else 0) + (if c.sticky || decide (2 ^ 48 ≤ e) then 2 ^ 63 else 0)) 8)) ∧
  (∀ s r c, Accepted s r c → r.op = 0x08 → dw2 r 0 8 = 7 → ∃ (t : State) (c' : Ctx), exec .energyClear s = .next t ∧ Answered s t r 0 [] ∧ t.mem = s.mem ∧ t.ctx? r.ctx = some c' ∧ c' = { c with energy := 0, sticky := false }) ∧
  (∀ s r c (v : BitVec 16) (mb : Nat), Accepted s r c → r.op = 0x09 → v = BitVec.ofNat 16 (dw2 r 0 16) → mb = dw2 r 16 3 →
    (s.anyTeam? r.ctx v = none → ∃ t : State, exec .mailboxPost s = .next t ∧ OnlyAnswers s t r 9 []) ∧
    (∀ m, s.anyTeam? r.ctx v = some m → m.mbFull mb = true → ∃ t : State, exec .mailboxPost s = .next t ∧ OnlyAnswers s t r 8 []) ∧
    (∀ m, s.anyTeam? r.ctx v = some m → m.mbFull mb = false → ∃ t : State, exec .mailboxPost s = .next t ∧ Answered s t r 0 [] ∧
      { t with ports := s.ports, sent := s.sent, waiting := s.waiting } = s.post r.ctx v mb r.dw3)) ∧
  (∀ s r c, Accepted s r c → r.op = 0x0C → ∃ t : State, exec .managementMessage s = .next t ∧ Answered s t r 0 [] ∧ { t with ports := s.ports, sent := s.sent, waiting := s.waiting, agenda := s.agenda } = s ∧
    t.agenda = s.agenda ++ (s.mctpTurn ((r.data ++ List.replicate 256 0).take (32 * r.ndata.toNat))).toList)

/-! ### The root controller's commands (R36 to R39, R294, R298, R300 to R303) -/

/-- Management commands, attestation and recovery (R36 to R39, R294, R298, R302, R303). -/
def Obligations.Management : Prop := ManagementCommandsPart ∧ AttestationPart

/-! ### Packets (R45, R46, R55 to R66, R85, R87) -/

/-- The packet processor reads the packet in the slot of its counter, and fails one of a type that its queue does not admit with BADTYPE and one with a bad header with BADFIELD, what a task graph names being read first; ORDER holds a packet back while earlier work of its queue stands. LAUNCH_PACKET fails with BADFIELD, NOFIT or BADCODE in that order, waits while no record slot is free, and else is consumed, writes its launch record and binds its code image, whose LIVE count rises (R45, R46, R55, R56, R59 to R62, R85, R87). -/
def Obligations.LaunchPackets : Prop :=
  (∀ (s : State) (a : Nat), 65536 ≤ a → a + 128 ≤ memTop → a % 128 = 0 → s.poison = [] → s.l2bad = [] → ∃ v, s.readSpan ⟨0, none, none, none⟩ a 128 .read = .ok v (.bytes (memRead s.mem a 128)) ∧ v.mem = s.mem ∧ v.works = s.works ∧ v.grids = s.grids ∧ v.ctxs = s.ctxs) ∧
  (∀ s u c q x p, SlotRead s u c q x p → x.wait = none →
    let ty := fld p 0 1
    let row (i : Instr) : Prop := (ty = 1 ∧ i = .launchPacket) ∨ (ty = 2 ∧ i = .taskGraphPacket) ∨ (ty = 3 ∧ i = .sillRunPacket) ∨ (ty = 4 ∧ i = .copyPacket) ∨ (ty = 5 ∧ i = .signalPacket) ∨ (ty = 6 ∧ i = .mailboxPostPacket)
    ((ty = 0 ∨ 7 < ty ∨ (x.kind = 1 ∧ ty ≠ 1) ∨ (ty = 7 ∧ c.num ≠ 0)) → PacketFails s u c q x .reservedPacketType 2) ∧
    let named := decide (ty = 2 ∧ fld p 24 8 % 64 = 0 ∧ 1 ≤ fld p 32 4 ∧ fld p 32 4 ≤ 4096)
    (∀ i, row i → named = false → (ty = 1 ∨ x.kind ≠ 1) → (2 ^ 15 ≤ fld p 0 8 ∨ fld p 0 8 / 512 % 4 = 3 ∨ fld p 0 8 / 2048 % 4 = 3 ∨ (x.kind ≠ 1 ∧ (if c.num = 0 then 3 else c.cprio) < fld p 0 8 / 8192 % 4) ∨ fld p 8 8 % 8 ≠ 0) → PacketFails s u c q x i 3) ∧
    (∀ i, row i → named = false → fld p 0 8 < 2 ^ 13 → fld p 0 8 / 512 % 4 ≠ 3 → fld p 0 8 / 2048 % 4 ≠ 3 → fld p 8 8 % 8 = 0 → (ty = 1 ∨ x.kind ≠ 1) → (fld p 0 8).testBit 8 = true → (∃ w ∈ u.works, w.ctx = c.num ∧ w.q.toNat = q) → exec i s = .next s)) ∧
  (∀ s u c q x p, PacketDue s u c q x p 1 → u.ctx? c.num = some c → NoSwap u c → p.length = 128 →
    let legacy := (fld p 41 1).testBit 2
    let good (e : CodeEntry) : Prop := holdsEntry e (fld p 24 8) ∧ e.note.toNat ≤ 0x30 ∧ (e.note = 0x30 ∨ legacy = true)
    let fit := fitsEmpty (launchRoles p) (fld p 40 1) ((fld p 41 1).testBit 3)
    (¬ LaunchFields p → PacketFails s u c q x .launchPacket 3) ∧
    (LaunchFields p → fit = false → PacketFails s u c q x .launchPacket 4) ∧
    (LaunchFields p → fit = true → (∀ k < 48, ¬ good (c.code.getD k .empty)) → PacketFails s u c q x .launchPacket 5) ∧
    (∀ (k : Nat) (e : CodeEntry), LaunchFields p → fit = true → k < 48 → e = c.code.getD k .empty → good e → (∀ j < 48, j ≠ k → ¬ holdsEntry (c.code.getD j .empty) (fld p 24 8)) →
      (u.freeSlot = none → exec .launchPacket s = .next u) ∧
      (∀ a, u.freeSlot = some a → u.runs = [] → ∃ (t : State) (d : Ctx) (g : Grid), exec .launchPacket s = .next t ∧ PacketTaken u t c q x p .launch false ∧
        t.grids = u.grids ++ [g] ∧ g.record = a ∧ g.ctx = c.num ∧ g.prio = min (fld p 0 8 / 8192 % 4) (if c.num = 0 then 3 else c.cprio) ∧ g.origin = .queue u.nextId ∧ g.ended = false ∧ t.gridCount = u.gridCount + 1 ∧
        t.ctx? c.num = some d ∧ d.code.getD k .empty = { e with live := e.live + 1 } ∧ (∀ j < 48, j ≠ k → d.code.getD j .empty = c.code.getD j .empty) ∧
        (let r := memRead t.mem a 512; r.take 128 = p ∧ fld r 128 8 = e.base % 2 ^ 64 ∧ fld r 136 4 = e.size % 2 ^ 32 ∧ fld r 140 2 = e.ver.toNat ∧ fld r 142 1 = k ∧ fld r 144 8 = u.gridCount % 2 ^ 64 ∧ fld r 152 40 = 0 ∧ fld r 192 8 = 0 ∧
          fld r 200 8 = fld p 32 2 * fld p 34 2 * fld p 36 2) ∧
        (∀ b, ¬ (a ≤ b ∧ b < a + 512) → ¬ (c.desc + 1024 + 64 * k ≤ b ∧ b < c.desc + 1088 + 64 * k) → memGet t.mem b = memGet u.mem b) ∧
        (∀ n v m, x.parents.find? (·.1 = x.progress) = some (n, v) → u.anyTeam? c.num v = some m → ∃ m', t.anyTeam? c.num v = some m' ∧ m'.children = m.children ++ [a]))))

/-- COPY_PACKET, SIGNAL_PACKET, MAILBOX_POST_PACKET and SILL_RUN_PACKET fail with the codes of their checks, or are consumed and begin their work: a copy of the system streamer, a wait for a condition that each recheck reads anew, a post to a team, a run in the queues of its stacks; a full mailbox or queue holds the packet. PACKET_COMPLETION_SIGNAL, once the work has ended and its release has passed, adds SIGVAL to the signal and ends the work, lets the lines of its Sill run go, and puts its queue into the error state where the work failed, that of a grid only while no later packet has been consumed (R55, R57, R58, R63 to R66, R434). -/
def Obligations.OtherPackets : Prop :=
  (∀ s u c q x p, PacketDue s u c q x p 4 → u.ctx? c.num = some c → p.length = 128 →
    let src := fld p 24 8
    let dst := fld p 32 8
    let len := fld p 40 8
    let dev := fld p 48 2
    let bad : Prop := len = 0 ∨ 2 ^ 40 < len ∨ dev / 1024 % 32 ≠ 0 ∨ fld p 50 78 ≠ 0 ∨ (dev < 32768 ∧ src < dst + len ∧ dst < src + len)
    (bad → PacketFails s u c q x .copyPacket 3) ∧
    (¬ bad → ∃ (t : State) (y : SysCopy), exec .copyPacket s = .next t ∧ PacketTaken u t c q x p .copy false ∧ t.mem = u.mem ∧ t.sysCopies = u.sysCopies ++ [y] ∧ y.ctx = c.num ∧ y.work = u.nextId ∧ y.src = src ∧ y.dst = dst ∧ y.len = len ∧
      y.remote.isSome = decide (32768 ≤ dev) ∧ (∀ d, y.remote = some d → d.toNat = dev % 1024) ∧ y.moved = false ∧ y.failed = false)) ∧
  (∀ s u c q x p (i : Instr) (addr cond : Nat) (val : DWord), SlotRead s u c q x p → u.ctx? c.num = some c → p.length = 128 →
    ((i = .signalPacket ∧ PacketDue s u c q x p 5 ∧ addr = fld p 24 8 ∧ val.toNat = fld p 32 8 ∧ cond = fld p 40 1) ∨ (i = .signalPacketRecheck ∧ ∃ at_, x.wait = some (.signal addr val cond at_) ∧ addr % 8 = 0 ∧ cond ≤ 3 ∧ fld p 41 87 = 0)) →
    let holds (m : DWord) : Prop := match cond with
      | 0 => val.toInt ≤ m.toInt
      | 1 => m = val
      | 2 => m ≠ val
      | _ => m.toInt < val.toInt
    ((addr % 8 ≠ 0 ∨ 3 < cond ∨ fld p 41 87 ≠ 0) → PacketFails s u c q x i 3) ∧
    (addr = 0 → cond ≤ 3 → fld p 41 87 = 0 → ∃ t : State, exec i s = .next t ∧ PacketTaken u t c q x p .signal true ∧ t.mem = u.mem) ∧
    (∀ v g, addr % 8 = 0 → addr ≠ 0 → cond ≤ 3 → fld p 41 87 = 0 → u.readSpan ⟨c.num, none, none, none⟩ addr 8 .read = .ok v g → v.ctxs = u.ctxs →
      (∀ b, g = .bytes b → holds (BitVec.ofNat 64 (leNat b)) → ∃ t : State, exec i s = .next t ∧ PacketTaken v t c q x p .signal true ∧ t.mem = v.mem) ∧
      (∀ b, g = .bytes b → ¬ holds (BitVec.ofNat 64 (leNat b)) → ∃ (t : State) (d : Ctx), exec i s = .next t ∧ t.ctx? c.num = some d ∧ d.queues.getD q Queue.absent = { x with wait := some (.signal addr val cond v.time) } ∧ t.works = v.works ∧ t.mem = v.mem) ∧
      ((g = .prot ∨ g = .nonres ∨ ∃ pa, g = .bad pa) → PacketFails s v c q x i 6))) ∧
  (∀ s u c q x p (v : BitVec 16) (mb : Nat) (val : DWord), SlotRead s u c q x p → u.ctx? c.num = some c → p.length = 128 →
    ((PacketDue s u c q x p 6 ∧ v.toNat = fld p 24 2 ∧ mb = fld p 26 1 ∧ val.toNat = fld p 32 8 ∧ fld p 27 5 = 0 ∧ fld p 40 88 = 0) ∨ x.wait = some (.mailbox v mb val)) → mb < 8 →
    (u.anyTeam? c.num v = none → PacketFails s u c q x .mailboxPostPacket 7) ∧
    (∀ m, u.anyTeam? c.num v = some m → m.mbFull mb = true → ∃ (t : State) (d : Ctx), exec .mailboxPostPacket s = .next t ∧ t.ctx? c.num = some d ∧ d.queues.getD q Queue.absent = { x with wait := some (.mailbox v mb val) } ∧ t.works = u.works ∧ t.teams = u.teams) ∧
    (∀ m, u.anyTeam? c.num v = some m → m.mbFull mb = false → ∃ t : State, exec .mailboxPostPacket s = .next t ∧ PacketTaken u t c q x p .mailbox true ∧ t.teams = (u.post c.num v mb val).teams)) ∧
  (∀ s u c q x p, PacketDue s u c q x p 6 → (8 ≤ fld p 26 1 ∨ fld p 27 5 ≠ 0 ∨ fld p 40 88 ≠ 0) → PacketFails s u c q x .mailboxPostPacket 3) ∧
  (∀ s u c q x p v, PacketDue s u c q x p 3 → u.ctx? c.num = some c → p.length = 128 →
    (∀ e, u.checkRun ⟨c.num, none, none, none⟩ ⟨p⟩ = .ok v (.fail e) → v.ctxs = u.ctxs → PacketFails s v c q x .sillRunPacket e) ∧
    (∀ words pages, u.checkRun ⟨c.num, none, none, none⟩ ⟨p⟩ = .ok v (.ok words pages) → v.ctxs = u.ctxs → (∀ k < 12, (∃ g ∈ pages, stackOfPa g.2 = k) → (v.stack k).queue.length < 32) → ∃ (t : State) (r : SillRun), exec .sillRunPacket s = .next t ∧ PacketTaken v t c q x p .sill false ∧
      t.runs = v.runs ++ [r] ∧ r.ctx = c.num ∧ r.origin = .packet v.nextId ∧ r.words = words ∧ r.pages = pages ∧ r.rbase = fld p 40 8 ∧ r.rlen = fld p 48 8 ∧ r.stage = .queued ∧
      (∀ k < 12, (t.stack k).queue = if (∃ g ∈ pages, stackOfPa g.2 = k) then (v.stack k).queue ++ [r.id] else (v.stack k).queue)) ∧
    (∀ words pages k, u.checkRun ⟨c.num, none, none, none⟩ ⟨p⟩ = .ok v (.ok words pages) → k < 12 → (∃ g ∈ pages, stackOfPa g.2 = k) → 32 ≤ (v.stack k).queue.length → ∃ t : State, exec .sillRunPacket s = .next t ∧ t.runs = v.runs ∧ t.works = v.works ∧ t.ctxs = v.ctxs)) ∧
  (∀ s w, s.works.find? (·.id = s.operand.n) = some w →
    let ends (r : SillRun) : Prop := r.stage = .ending ∧ r.origin = .packet w.id
    ((w.ended = false ∨ (w.rel ≠ 0 ∧ s.time < w.relTime) ∨ s.partsOut (.queue w.id) = true ∨ w.sig = .out) → exec .packetCompletionSignal s = .next s) ∧
    (∀ r, w.ended = true → (w.rel = 0 ∨ w.relTime ≤ s.time) → s.partsOut (.queue w.id) = false → w.sig = .todo → w.sigaddr = 0 → w.code = 0 → r ∈ s.runs → ends r → ∃ t : State, exec .packetCompletionSignal s = .next t ∧
      t.run? r.id = none ∧ ∀ y ∈ t.works, y.id ≠ w.id) ∧
    (∀ c x, w.ended = true → (w.rel = 0 ∨ w.relTime ≤ s.time) → s.partsOut (.queue w.id) = false → w.sig = .todo → (∀ r ∈ s.runs, ¬ ends r) → s.ctx? w.ctx = some c → x = s.queueNow c w.q.toNat → x.slot.isSome = true → (c.num ≠ 0 ∨ x.latched = true) →
      (w.sigaddr = 0 → w.code = 0 → ∃ t : State, exec .packetCompletionSignal s = .next t ∧ t.works = s.works.filter (·.id ≠ w.id) ∧ t.mem = s.mem ∧ t.ctxs = s.ctxs ∧ ∀ g ∈ t.grids, g ∈ s.grids ∧ ¬ (g.origin = .queue w.id ∧ g.ended = true)) ∧
      (w.sigaddr = 0 → w.code ≠ 0 → (x.progress = w.counter + 1 ∨ w.kind ≠ .launch) → x.error = false → ∃ (t : State) (d : Ctx), exec .packetCompletionSignal s = .next t ∧ t.works = s.works.filter (·.id ≠ w.id) ∧ t.ctx? w.ctx = some d ∧
        (let y := d.queues.getD w.q.toNat Queue.absent; y.error = true ∧ y.errcode = w.code ∧ y.consumed = true ∧ y.errcount = w.counter ∧ y.progress = x.progress)) ∧
      (∀ s1 pa sill, w.sigaddr ≠ 0 → w.noSignal = false → w.sigaddr < 2 ^ 57 → s.place ⟨w.ctx, none, none, none⟩ w.sigaddr .both = (s1, .here pa sill) → 65536 ≤ pa → s.runs = [] → s.poison = [] → s.l2bad = [] → w.code = 0 → ∃ t : State, exec .packetCompletionSignal s = .next t ∧
        t.works = s1.works.filter (·.id ≠ w.id) ∧ fld (memRead t.mem pa 8) 0 8 = (fld (memRead s1.mem pa 8) 0 8 + w.sigval.toNat) % 2 ^ 64 ∧ ∀ b, ¬ (pa ≤ b ∧ b < pa + 8) → memGet t.mem b = memGet s1.mem b)))

/-! ### Task graphs and system copies (R64, R115 to R118) -/

/-- TASK_GRAPH_PACKET fails with FAULT for a node or body that it names and that cannot be read, with BADFIELD for a field, an edge count or a cycle and with a body's own code, and else is consumed and its graph stands with every node unstarted and its count of predecessors. TASK_NODE_START starts a node whose count is zero: an empty node is at once over, a grid is launched, a Sill run queued, and a body that fails its checks fails the node; TASK_NODE_COMPLETE, after the node's work and release, performs its signal, writes NSTAT and counts its successors down, or stops the graph where the node failed; the last one ends the packet's work. SYSTEM_COPY_COMPLETE moves a copy's bytes and then ends its packet's work, with FAULT where it failed (R64, R115 to R118). -/
def Obligations.GraphsAndCopies : Prop :=
  (∀ s u c q x p, PacketDue s u c q x p 2 → u.ctx? c.num = some c → p.length = 128 →
    let graph := fld p 24 8
    let n := fld p 32 4
    let names : Prop := graph % 64 = 0 ∧ 1 ≤ n ∧ n ≤ 4096
    (¬ names → PacketFails s u c q x .taskGraphPacket 3) ∧
    (∀ v e, names → u.fetchNodes c graph n = .ok v (.fail e) → v.ctxs = u.ctxs → PacketFails s v c q x .taskGraphPacket 6) ∧
    (∀ v l, names → u.fetchNodes c graph n = .ok v (.ok l) → v.ctxs = u.ctxs → v.works = u.works → fld p 36 92 ≠ 0 → PacketFails s v c q x .taskGraphPacket 3) ∧
    (∀ r v l ns, names → u.fetchNodes c graph n = .ok r (.ok l) → r.ctxs = u.ctxs → r.works = u.works → fld p 36 92 = 0 → (r.dropStage 0).fetchNodes c graph n = .ok v (.ok ns) → v.ctxs = u.ctxs →
      let ds := ns.map (·.1)
      let edges (k : Nat) : Nat := (ds.map fun d => ((List.range (fld d.raw 16 2)).filter fun j => fld d.raw (18 + 2 * j) 2 = k).length).sum
      ((∃ d ∈ ds, d.ok n = false) → PacketFails s v c q x .taskGraphPacket 3) ∧
      ((∀ d ∈ ds, d.ok n = true) → (∃ k d, ds[k]? = some d ∧ fld d.raw 2 2 ≠ edges k) → PacketFails s v c q x .taskGraphPacket 3) ∧
      ((∀ d ∈ ds, d.ok n = true) → (∃ k d j, ds[k]? = some d ∧ j < fld d.raw 16 2 ∧ fld d.raw (18 + 2 * j) 2 = k) → PacketFails s v c q x .taskGraphPacket 3) ∧
      (∀ w e, (∀ d ∈ ds, d.ok n = true) → (∀ k d, ds[k]? = some d → fld d.raw 2 2 = edges k) → cyclic ds = false → (v.dropStage 0).bodiesCheck c ns = .ok w e → w.ctxs = u.ctxs →
        (e ≠ 0 → PacketFails s w c q x .taskGraphPacket e) ∧
        (e = 0 → ∃ (t : State) (g : Graph), exec .taskGraphPacket s = .next t ∧ PacketTaken w t c q x p .graph false ∧ t.graphs = w.graphs ++ [g] ∧ g.ctx = c.num ∧ g.work = w.nextId ∧ g.addr = graph ∧ g.failed = none ∧ g.nodes.length = ns.length ∧
          ∀ (k : Nat) d b, ns[k]? = some (d, b) → ∃ y, g.nodes[k]? = some y ∧ y.kind = fld d.raw 0 1 ∧ y.left = fld d.raw 2 2 ∧ y.body = fld d.raw 8 8 ∧ y.started = false ∧ y.ended = false ∧ y.completed = false ∧
            y.succ = (List.range (fld d.raw 16 2)).map fun j => fld d.raw (18 + 2 * j) 2)))) ∧
  (∀ s g k n c, NodeDue s g k n c → n.kind = 2 → ∃ (t : State) (y : Node), exec .taskNodeStart s = .next t ∧ { t with graphs := s.graphs } = s ∧ nodeIn t g.id k = some y ∧ y = { n with started := true, ended := true }) ∧
  (∀ s g, s.graphs.find? (·.id = s.operand.n) = some g → (∀ n, g.nodes[s.operand.k]? = some n → n.started = true ∨ n.left ≠ 0 ∨ g.failed.isSome = true) → exec .taskNodeStart s = .next s) ∧
  (∀ s g k n c v body, NodeDue s g k n c → n.kind ≤ 1 → s.fetchSpan c n.body 128 = .ok v (.ok body) → body.length = 128 → v.graphs = s.graphs →
    let u := v.dropStage 0
    (∀ w e, (if n.kind = 0 then u.swapAll c.num else u).bodyCheck c n.kind ⟨body⟩ = .ok w e → e ≠ 0 → w.graphs = s.graphs → ∃ (t : State) (y : Node), exec .taskNodeStart s = .next t ∧ nodeIn t g.id k = some y ∧ y.started = true ∧ y.ended = true ∧ y.sigaddr = 0 ∧
      (n.code = 0 → y.code = e) ∧ t.mem = w.mem ∧ t.grids = w.grids ∧ t.runs = w.runs) ∧
    (∀ w d e j a, n.kind = 0 → w = u.swapAll c.num → w.bodyCheck c 0 ⟨body⟩ = .ok w 0 → w.ctx? c.num = some d → w.freeSlot = some a → w.graphs = s.graphs → d.bind? (fld body 24 8) ((fld body 41 1).testBit 2) = some (j, e) →
      ∃ (t : State) (y : Node) (x : Grid), exec .taskNodeStart s = .next t ∧ nodeIn t g.id k = some y ∧ y.started = true ∧ y.ended = n.ended ∧ y.sigaddr = fld body 8 8 ∧ t.grids = w.grids ++ [x] ∧ x.record = a ∧ x.ctx = c.num ∧ x.origin = .node g.id k) ∧
    (∀ w1 words1 pages1 w words pages, n.kind = 1 → bodyHeaderOk c 1 ⟨body⟩ = true → u.checkRun ⟨c.num, none, none, none⟩ ⟨body⟩ = .ok w1 (.ok words1 pages1) → w1.checkRun ⟨c.num, none, none, none⟩ ⟨body⟩ = .ok w (.ok words pages) → w.graphs = s.graphs →
      (∀ i < 12, (w.stack i).queue.length < 32) → ∃ (t : State) (y : Node) (r : SillRun), exec .taskNodeStart s = .next t ∧ nodeIn t g.id k = some y ∧ y.started = true ∧ y.ended = n.ended ∧ t.runs = w.runs ++ [r] ∧ r.origin = .node g.id k ∧ r.words = words)) ∧
  (∀ s g k n c, s.operand.k = k → s.graphs.find? (·.id = s.operand.n) = some g → g.nodes[k]? = some n → s.ctx? g.ctx = some c →
    ((n.ended = false ∨ n.completed = true ∨ (n.rel ≠ 0 ∧ s.time < n.relTime) ∨ s.partsOut (.node g.id k) = true ∨ n.sig = .out) → exec .taskNodeComplete s = .next s) ∧
    (∀ s1 pa sill, n.ended = true → n.completed = false → (n.rel = 0 ∨ n.relTime ≤ s.time) → s.partsOut (.node g.id k) = false → n.sig = .todo → n.sigaddr = 0 → g.addr + 64 * k + 56 ≤ 2 ^ 57 → s.place ⟨c.num, none, none, none⟩ (g.addr + 64 * k + 48) .write = (s1, .here pa sill) → 65536 ≤ pa → s.runs = [] → s1.graphs = s.graphs →
      ∃ t : State, exec .taskNodeComplete s = .next t ∧ fld (memRead t.mem pa 8) 0 8 = n.code.toNat + 256 ∧ (∀ b, ¬ (pa ≤ b ∧ b < pa + 8) → memGet t.mem b = memGet s1.mem b) ∧
        (n.code = 0 → g.failed = none → (∃ m ∈ g.nodes, m ≠ n ∧ m.completed = false) → ∀ (j : Nat) m, g.nodes[j]? = some m → ∃ y, nodeIn t g.id j = some y ∧ y.left = m.left - (n.succ.filter (· = j)).length ∧ y.completed = (m.completed || decide (j = k))) ∧
        (n.code ≠ 0 → (∃ (j : Nat) (m : Node), g.nodes[j]? = some m ∧ j ≠ k ∧ m.started = true ∧ m.completed = false) → ∃ h, t.graphs.find? (·.id = g.id) = some h ∧ h.failed = some (g.failed.getD n.code) ∧ ∀ (j : Nat) m, g.nodes[j]? = some m → ∃ y, h.nodes[j]? = some y ∧ y.left = m.left) ∧
        (∀ w, n.code = 0 → g.failed = none → (∀ (j : Nat) m, g.nodes[j]? = some m → j ≠ k → m.completed = true) → s1.works.find? (·.id = g.work) = some w → t.graphs.find? (·.id = g.id) = none ∧
          ∃ y, t.works.find? (·.id = g.work) = some y ∧ y.ended = true ∧ y.code = w.code ∧ ∀ m ∈ g.nodes, m.relTime ≤ y.relTime))) ∧
  (∀ s c, s.sysCopies.find? (·.id = s.operand.n) = some c →
    (c.moved = false → c.ctx = 0 → c.remote = none → 65536 ≤ c.src → 65536 ≤ c.dst → c.src + c.len ≤ memTop → c.dst + c.len ≤ memTop → (c.src + c.len ≤ c.dst ∨ c.dst + c.len ≤ c.src) → s.runs = [] → s.poison = [] → s.l2bad = [] →
      ∃ (t : State) (y : SysCopy), exec .systemCopyComplete s = .next t ∧ t.sysCopies.find? (·.id = c.id) = some y ∧ y.moved = true ∧ y.failed = c.failed ∧ y.out = c.out ∧
        ∀ b, memGet t.mem b = if c.failed = false ∧ c.dst ≤ b ∧ b < c.dst + c.len then memGet s.mem (b - c.dst + c.src) else memGet s.mem b) ∧
    (c.moved = true → c.rest = [] → (c.out ≠ 0 ∨ c.held.any s.held = true) → exec .systemCopyComplete s = .next s) ∧
    (∀ w, c.moved = true → c.rest = [] → c.out = 0 → c.held.any s.held = false → s.works.find? (·.id = c.work) = some w → ∃ (t : State) (y : Work), exec .systemCopyComplete s = .next t ∧ t.sysCopies.find? (·.id = c.id) = none ∧ t.mem = s.mem ∧
      t.works.find? (·.id = c.work) = some y ∧ y.ended = true ∧ c.wmax ≤ y.relTime ∧ (w.code = 0 → y.code = if c.failed then 6 else 0)))

/-! ### Contexts and code images (R40 to R44, R48, R67, R84, R87) -/

/-- A context-control packet fails with FAULT where the descriptor that it has read holds uncorrectable data, with BADFIELD where a reserved byte is set and with BADCTX for an operation that is not listed. CREATE_CONTEXT makes a context from the fields of its descriptor page, DESTROY_CONTEXT removes one with its grids, graphs, works, copies and queued runs and mutes the runs under way, MAP_QUEUE gives a queue a hardware slot with the ring, counters and status that its descriptor holds, and UNMAP_QUEUE writes them back; each fails with BADCTX for a context, queue or slot in the wrong state. CODE_SWAP makes the next image of an entry its current one, once no grid is bound to the previous one, and clears SWAP (R40 to R44, R48, R67, R84, R87). -/
def Obligations.ContextPackets : Prop :=
  (∀ s u c q x p, PacketDue s u c q x p 7 → c.num = 0 → u.ctx? 0 = some c →
    let op := fld p 24 1
    let row (i : Instr) : Prop := (op = 1 ∧ i = .createContext) ∨ (op = 2 ∧ i = .destroyContext) ∨ (op = 3 ∧ i = .mapQueue) ∨ (op = 4 ∧ i = .unmapQueue) ∨ ((op = 0 ∨ 4 < op) ∧ i = .createContext)
    (∀ i, row i → u.poison = [] → u.l2bad = [] → (fld p 28 4 ≠ 0 ∨ fld p 40 88 ≠ 0) → p.length = 128 → PacketFails s u c q x i 3) ∧
    (∀ i, row i → (op = 0 ∨ 4 < op) → fld p 28 4 = 0 → fld p 40 88 = 0 → PacketFails s u c q x i 10)) ∧
  (∀ s u c q x p (n : BitVec 8) (d : Nat), ControlDue s u c q x p 1 → n.toNat = fld p 25 1 → d = fld p 32 8 →
    let g := memRead u.mem d 4096
    let place : Prop := d % 4096 = 0 ∧ 65536 ≤ d ∧ d < memTop
    (¬ place → PacketFails s u c q x .createContext 10) ∧
    (place → u.bad d 4096 = true → PacketFails s u c q x .createContext 6) ∧
    (place → u.poison = [] → u.l2bad = [] → ¬ PageGood g → PacketFails s u c q x .createContext 3) ∧
    (place → u.poison = [] → u.l2bad = [] → PageGood g → (n = 0 ∨ (u.ctx? n).isSome = true) → PacketFails s u c q x .createContext 10) ∧
    (place → u.poison = [] → u.l2bad = [] → PageGood g → n ≠ 0 → u.ctx? n = none → ∃ (t : State) (y : Ctx), exec .createContext s = .next t ∧ PacketTaken u t c q x p .control true ∧ t.ctx? n = some y ∧ y.num = n ∧ y.desc = d ∧
      y.ptroot = fld g 0 8 ∧ y.stkbase = fld g 8 8 ∧ y.stkbound = fld g 16 8 ∧ y.owner.toNat = fld g 24 2 ∧ y.cprio = fld g 26 1 ∧ y.energy = 0 ∧ y.sticky = false ∧
      (∀ k < 16, let z := y.queues.getD k Queue.absent; z.ring = fld g (64 + 32 * k) 8 ∧ z.logsize = fld g (72 + 32 * k) 1 ∧ z.kind = fld g (73 + 32 * k) 1 ∧ z.slot = none) ∧
      (∀ k < 48, let z := y.code.getD k .empty; z.base = fld g (1024 + 64 * k) 8 ∧ z.size = fld g (1032 + 64 * k) 4 ∧ z.ver.toNat = fld g (1036 + 64 * k) 2 ∧ z.note.toNat = fld g (1038 + 64 * k) 1 ∧ z.pbase = 0 ∧ z.live = 0 ∧ z.plive = 0))) ∧
  (∀ s u c q x p (n : BitVec 8), ControlDue s u c q x p 2 → n.toNat = fld p 25 1 →
    ((n = 0 ∨ u.ctx? n = none ∨ (∃ y k, u.ctx? n = some y ∧ k < 16 ∧ (y.queues.getD k Queue.absent).slot.isSome = true)) → PacketFails s u c q x .destroyContext 10) ∧
    (∀ y, n ≠ 0 → u.ctx? n = some y → (∀ k < 16, (y.queues.getD k Queue.absent).slot = none) → ∃ (t : State) (d : Ctx), exec .destroyContext s = .next t ∧ t.ctx? n = none ∧ t.ctx? 0 = some d ∧ (d.queues.getD q Queue.absent).progress = x.progress + 1 ∧
      (∀ g ∈ t.grids, g.ctx ≠ n) ∧ (∀ g ∈ t.graphs, g.ctx ≠ n) ∧ (∀ w ∈ t.works, w.ctx ≠ n) ∧ (∀ w ∈ t.sysCopies, w.ctx ≠ n) ∧ (∀ g ∈ u.grids, g.ctx = n → g.ended = false → ∀ b ∈ t.bents, b.record ≠ g.record) ∧
      ∀ r ∈ t.runs, r.ctx = n → r.stage ≠ .queued ∧ r.muted = true ∧ r.origin = .gone)) ∧
  (∀ s u c q x p (n : BitVec 8) (k h : Nat), ControlDue s u c q x p 3 → n.toNat = fld p 25 1 → k = fld p 26 1 → h = fld p 27 1 →
    (u.ctx? n = none → PacketFails s u c q x .mapQueue 10) ∧
    (∀ y, u.ctx? n = some y →
      let d := memRead u.mem (y.desc + 64 + 32 * k) 32
      let good : Prop := fld d 0 8 % 4096 = 0 ∧ 4 ≤ fld d 8 1 ∧ fld d 8 1 ≤ 16 ∧ fld d 9 1 ≤ 1 ∧ fld d 10 6 = 0
      let usable : Prop := (y.queues.getD k Queue.absent).slot = none ∧ 1 ≤ h ∧ h ≤ 63 ∧ ∀ z ∈ u.ctxs, ∀ j < 16, (z.queues.getD j Queue.absent).slot ≠ some h
      (k ≤ 15 → u.bad (y.desc + 64 + 32 * k) 32 = true → PacketFails s u c q x .mapQueue 6) ∧
      ((15 < k ∨ (u.poison = [] ∧ u.l2bad = [] ∧ fld d 0 8 = 0)) → PacketFails s u c q x .mapQueue 10) ∧
      (k ≤ 15 → u.poison = [] → u.l2bad = [] → fld d 0 8 ≠ 0 → ¬ good → PacketFails s u c q x .mapQueue 3) ∧
      (k ≤ 15 → u.poison = [] → u.l2bad = [] → fld d 0 8 ≠ 0 → good → ¬ usable → PacketFails s u c q x .mapQueue 10) ∧
      (k ≤ 15 → u.poison = [] → u.l2bad = [] → fld d 0 8 ≠ 0 → good → usable → ∃ (t : State) (y' : Ctx), exec .mapQueue s = .next t ∧ PacketTaken u t c q x p .control true ∧ t.ctx? n = some y' ∧ t.mem = u.mem ∧
        (let z := y'.queues.getD k Queue.absent; z.slot = some h ∧ z.ring = fld d 0 8 ∧ z.logsize = fld d 8 1 ∧ z.kind = fld d 9 1 ∧ z.tail.toNat = fld d 16 4 ∧ z.progress.toNat = fld d 20 4 ∧ z.latched = true ∧
          (if (fld d 24 8).testBit 1 = false ∧ 2 ^ fld d 8 1 < (fld d 16 4 + 2 ^ 32 - fld d 20 4) % 2 ^ 32 then z.error = true ∧ z.errcode = 3 else z.error = (fld d 24 8).testBit 1 ∧ z.errcode.toNat = fld d 24 8 / 256 % 256))))) ∧
  (∀ s u c q x p (n : BitVec 8) (k : Nat), ControlDue s u c q x p 4 → n.toNat = fld p 25 1 → k = fld p 26 1 →
    ((u.ctx? n = none ∨ 15 < k ∨ (n = 0 ∧ k = 0) ∨ (∃ y, u.ctx? n = some y ∧ (y.queues.getD k Queue.absent).slot = none)) → PacketFails s u c q x .unmapQueue 10) ∧
    (∀ y z, k ≤ 15 → ¬ (n = 0 ∧ k = 0) → ¬ (n = 0 ∧ k = q) → u.ctx? n = some y → z = y.queues.getD k Queue.absent → z.slot.isSome = true → u.runs = [] → ∃ (t : State) (y' : Ctx), exec .unmapQueue s = .next t ∧ PacketTaken u t c q x p .control true ∧ t.ctx? n = some y' ∧
      (y'.queues.getD k Queue.absent).slot = none ∧ (y'.queues.getD k Queue.absent).wait = none ∧
      (let d := memRead t.mem (y.desc + 64 + 32 * k) 32; fld d 16 4 = z.tail.toNat ∧ fld d 20 4 = z.progress.toNat ∧ (fld d 24 8).testBit 0 = false ∧ (fld d 24 8).testBit 1 = z.error ∧ (fld d 24 8).testBit 2 = z.consumed ∧ fld d 25 1 = z.errcode.toNat ∧ fld d 28 4 = z.errcount.toNat) ∧
      ∀ b, ¬ (y.desc + 80 + 32 * k ≤ b ∧ b < y.desc + 96 + 32 * k) → memGet t.mem b = memGet u.mem b)) ∧
  (∀ s c k, s.ctx? s.operand.ctx = some c → s.operand.k = k → k < 48 →
    let e := c.code.getD k .empty
    let d := memRead s.mem (c.desc + 1024 + 64 * k) 64
    (s.bad (c.desc + 1024 + 64 * k) 64 = false → (fld d 15 1 % 2 = 0 ∨ e.plive ≠ 0) → exec .codeSwap s = .next s) ∧
    (s.bad (c.desc + 1024 + 64 * k) 64 = false → fld d 15 1 % 2 = 1 → e.plive = 0 → s.runs = [] → ∃ (t : State) (c' : Ctx), exec .codeSwap s = .next t ∧ t.ctx? s.operand.ctx = some c' ∧
      (let z := c'.code.getD k .empty; z.base = fld d 32 8 ∧ z.size = fld d 40 4 ∧ z.ver.toNat = fld d 44 2 ∧ z.note.toNat = fld d 46 1 ∧ z.pbase = e.base ∧ z.psize = e.size ∧ z.pver = e.ver ∧ z.pnote = e.note ∧ z.live = 0 ∧ z.plive = e.live) ∧
      fld (memRead t.mem (c.desc + 1024 + 64 * k) 64) 15 1 = 0 ∧ (∀ j < 48, j ≠ k → c'.code.getD j .empty = c.code.getD j .empty) ∧
      ∀ b, ¬ (c.desc + 1024 + 64 * k ≤ b ∧ b < c.desc + 1088 + 64 * k) → memGet t.mem b = memGet s.mem b))

/-! ### The distributor (R95 to R103, R108, R111) -/

/-- BENT_REQUEST brings the bent at the head of its grid's order into REQ: a saved one that may come back, else one to be relaunched, else the next unstarted one with a free entry; a hold of lower priority on the die that it ranks first is dropped. REQUEST_GRANT gives the first request that can be granted the first fitting rectangle of the first die in rank order that has one, or the hold of the first die in rank order that has none, and HOLD_COMMIT lets the holder commit once its rectangle takes it (R95, R97 to R102). -/
def Obligations.Placement : Prop :=
  (∀ s g, EntriesStand s → s.grid? s.operand.n = some g →
    let mine := s.bents.filter (·.record = g.record)
    let back (b : Bent) : Bool := decide (b.st = .saved) && (!b.yielded || b.saved.any (·.stirred))
    let active : Prop := (∃ c k, s.ctx? g.ctx = some c ∧ k < 16 ∧ (c.queues.getD k Queue.absent).slot.isSome = true) ∨ ∃ t ∈ s.teams, t.ctx = g.ctx
    let next := fld (memRead s.mem g.record 512) 184 8
    let holds (t : State) : Prop := ∀ d id o, (s.rankDies g.record).head? = some d → s.dieHolds.getD d none = some id → s.bent? id = some o →
      if s.prioOf o < g.prio then t.dieHolds.getD d none = none ∧ (o.st = .rsv → ∃ o', t.bent? id = some o' ∧ o'.st = .req ∧ o'.reqAt = o.reqAt) else t.dieHolds = s.dieHolds
    ((g.ended = true ∨ g.failed = true ∨ ¬ active) → exec .bentRequest s = .next s) ∧
    (∀ b, g.ended = false → g.failed = false → active → (mine.find? back = some b ∨ (mine.find? back = none ∧ mine.find? (·.st = .wait) = some b)) → s.bent? b.id = some b → EntriesApart s g.record →
      ∃ (t : State) (b' : Bent), exec .bentRequest s = .next t ∧ t.bent? b.id = some b' ∧ b' = { b with st := .req, reqAt := s.cycle } ∧ t.teams = s.teams ∧ t.bents.length = s.bents.length ∧ holds t) ∧
    (g.ended = false → g.failed = false → active → mine.find? back = none → mine.find? (·.st = .wait) = none →
      ((fld (memRead s.mem g.record 512) 200 8 ≤ next ∨ s.freeEntry = none) → exec .bentRequest s = .next s) ∧
      (∀ a, next < fld (memRead s.mem g.record 512) 200 8 → s.freeEntry = some a → (∀ o ∈ s.bents, o.id ≠ s.nextId) → EntriesApart s g.record → (a + 16 ≤ g.record ∨ g.record + 512 ≤ a) → s.runs = [] →
        ∃ (t : State) (b' : Bent), exec .bentRequest s = .next t ∧ t.bent? s.nextId = some b' ∧ b'.record = g.record ∧ b'.index = next ∧ b'.entry = some a ∧ b'.st = .req ∧ b'.relaunch = 0 ∧ b'.reqAt = s.cycle ∧ b'.saved = [] ∧
          fld (memRead t.mem g.record 512) 184 8 = (next + 1) % 2 ^ 64 ∧ t.bents.length = s.bents.length + 1 ∧ t.teams = s.teams ∧ holds t))) ∧
  (∀ s b, EntriesStand s → s.requests.find? (·.id = s.operand.n) = some b →
    let before := s.requests.takeWhile (·.id ≠ b.id)
    let dies := s.rankDies b.record
    let ctx := match s.grid? b.record with
      | some g => g.ctx
      | none => 0
    ((∃ o ∈ before, (s.tryGrant o).isSome = true) → exec .requestGrant s = .next s) ∧
    ((∀ o ∈ before, s.tryGrant o = none) → s.bent? b.id = some b →
      (∀ pre d post a, dies = pre ++ d :: post → (∀ e ∈ pre, NoRect s b e (takesNow s b)) → FirstRect s b d a (takesNow s b) →
        (s.stacksOk ctx b = false → exec .requestGrant s = .next s) ∧
        (s.stacksOk ctx b = true → ∃ (t : State) (b' : Bent), exec .requestGrant s = .next t ∧ t.bent? b.id = some b' ∧ b' = { b with st := .cmt, die := a / 64, anchor := a } ∧ (∀ k < 4, t.dieHolds.getD k none ≠ some b.id) ∧ t.teams = s.teams ∧ t.preHolds = s.preHolds)) ∧
      (∀ pre d post a, (∀ e ∈ dies, NoRect s b e (takesNow s b)) → dies = pre ++ d :: post → (∀ e ∈ pre, (s.dieHolds.getD e none).isSome = true ∨ NoRect s b e (noneQuarantined s b)) → s.dieHolds.getD d none = none → FirstRect s b d a (noneQuarantined s b) →
        ∃ (t : State) (b' : Bent), exec .requestGrant s = .next t ∧ t.bent? b.id = some b' ∧ b' = { b with st := .rsv, die := d, anchor := a } ∧ t.dieHolds.getD d none = some b.id ∧ (∀ k < 4, k ≠ d → t.dieHolds.getD k none = s.dieHolds.getD k none) ∧ t.teams = s.teams) ∧
      ((∀ e ∈ dies, NoRect s b e (takesNow s b) ∧ ((s.dieHolds.getD e none).isSome = true ∨ NoRect s b e (noneQuarantined s b))) → exec .requestGrant s = .next s))) ∧
  (∀ s id b g, EntriesStand s → s.dieHolds.getD s.operand.n none = some id → s.bent? id = some b → s.grid? b.record = some g →
    let may : Prop := b.st = .rsv ∧ takesNow s b b.anchor ∧ s.stacksOk g.ctx b = true
    (¬ may → exec .holdCommit s = .next s) ∧
    (may → ∃ (t : State) (b' : Bent), exec .holdCommit s = .next t ∧ t.bent? id = some b' ∧ b' = { b with st := .cmt, die := b.anchor / 64 } ∧ (∀ k < 4, t.dieHolds.getD k none ≠ some id) ∧ t.teams = s.teams))

/-- COMMIT makes every member team of a bent resident at once, and it completes for every bent in CMT without teams whose ids and stack indices are free: of a fresh bent with cleared scratch and registers, the lowest free ids, and every group of a role without SPAWN started at the entry with all its lanes; of a saved one whose image stands as it was written with its state and its ids on the new cores. Pre-emption holds of its priority or a lower one end on its cores. COMMIT_COMPLETE completes for every bent in CMT with teams: it lets the bent run, or takes it back to REQ where a member core is quarantined (R93, R96, R97, R103, R106, R108). -/
def Obligations.Commits : Prop :=
  (∀ s b g ids sts, EntriesStand s → s.bent? s.operand.n = some b → b.st = .cmt → (∀ t ∈ s.teams, t.bent ≠ b.id) → b.saved = [] → s.grid? b.record = some g →
    let n := (bentDims s b).1 * (bentDims s b).2
    lowestFree (s.idsUsed g.ctx) n = some ids → lowestFree (s.stackUsed g.ctx) (n * (roleOfGidx (launchRoles (memRead s.mem b.record 512))).length) = some sts →
    ∃ (t : State) (ts : List Team) (b' : Bent), exec .bentCommit s = .next t ∧ t.teams = s.teams ++ ts ∧ ts.length = n ∧ (∀ (p : Nat) m, ts[p]? = some m → CommittedTeam s b g p (ids.getD p 0) m) ∧ t.bent? b.id = some b' ∧ b' = { b with committedAt := s.cycle } ∧
      ids.Nodup ∧ (∀ i ∈ ids, i ∉ s.idsUsed g.ctx) ∧ ∀ c p, (c, p) ∈ t.preHolds ↔ (c, p) ∈ s.preHolds ∧ ¬ (c ∈ rectCores b.anchor (bentDims s b).1 (bentDims s b).2 ∧ p ≤ g.prio)) ∧
  (∀ s b, EntriesStand s → s.bent? s.operand.n = some b → b.st = .cmt → (∀ t ∈ s.teams, t.bent ≠ b.id) → b.saved ≠ [] → s.imageNow b = b.shot → ∃ (t : State) (ts : List Team) (b' : Bent), exec .bentCommit s = .next t ∧ t.teams = s.teams ++ ts ∧ t.bent? b.id = some b' ∧ b' = { b with saved := [], committedAt := s.cycle } ∧
    ts.length = min b.saved.length ((bentDims s b).1 * (bentDims s b).2) ∧
    ∀ (p : Nat) m, ts[p]? = some m → ∃ u, b.saved[p]? = some u ∧ m.core = b.anchor + 8 * (p / (bentDims s b).1) + p % (bentDims s b).1 ∧ { m with core := u.core, home := u.home, keptBins := u.keptBins, keptConvs := u.keptConvs } = u) ∧
  (∀ s b, EntriesStand s → s.bent? s.operand.n = some b → (b.st ≠ .cmt ∨ (∃ t ∈ s.teams, t.bent = b.id)) → exec .bentCommit s = .next s) ∧
  (∀ s b, EntriesStand s → s.bent? s.operand.n = some b →
    let cores := rectCores b.anchor (bentDims s b).1 (bentDims s b).2
    ((b.st ≠ .cmt ∨ ∀ t ∈ s.teams, t.bent ≠ b.id) → exec .commitComplete s = .next s) ∧
    (b.st = .cmt → (∃ t ∈ s.teams, t.bent = b.id) →
      ((∃ c ∈ cores, c ∈ s.root.quarCores) → b.doomed = none → ∃ (t : State) (b' : Bent), exec .commitComplete s = .next t ∧ t.bent? b.id = some b' ∧ b'.st = .req ∧ b'.reqAt = b.reqAt ∧ ∀ m ∈ t.teams, m.bent ≠ b.id) ∧
      ((∀ c ∈ cores, c ∉ s.root.quarCores) → b.image.isSome = true → exec .commitComplete s = .next s) ∧
      ((∀ c ∈ cores, c ∉ s.root.quarCores) → b.image = none → b.doomed = none → s.preempt = none → (∃ t ∈ s.teams, t.bent = b.id ∧ ∃ x ∈ t.groups, x.ended = false) → ∃ (t : State) (b' : Bent), exec .commitComplete s = .next t ∧ t.bent? b.id = some b' ∧ b' = { b with st := .run, shot := [], yielded := false } ∧
        ((∀ m ∈ s.teams, m.waiters = [] ∧ ∀ x ∈ m.groups, x.offers = 0) → t.teams = s.teams))))

/-- SPAWN and SPAWN_BIN_TIMEOUT (R110, R111, R217, R361). -/
def Obligations.SpawnsAndBins : Prop := SpawnPart ∧ SpawnBinsPart

/-! ### Pre-emption, yield and the control blocks (R104 to R108, R114, R190, R191, R268, R278 to R280) -/

/-- A write of PREQ while BUSY sets LOST alone; one with a bad field sets BADREQ; any other clears the status, stops the youngest running bent of the victim context while cores are still to be vacated and the save area has room, and with nothing to select ends with SHORT; PREL releases the holds. A control-block write stores a field that its rules admit and leaves the others, PSTAT among them. BENT_SAVE_COMPLETE packs the teams into the image and frees the cores, leaving holds once a pre-emption has ended; YIELD_SAVE stops the one yieldable bent that there is; RESTORE_COMPLETE lets a restored bent run when its order has passed and its engine has room (R104 to R108, R114, R268, R278 to R280). -/
def Obligations.Preemption : Prop :=
  (∀ s (v : Nat), EntriesStand s → s.operand.v.toNat = v →
    let c := BitVec.ofNat 8 v
    let ncore := v / 256 % 512
    let dies := v / 2 ^ 17 % 16
    let bad : Prop := 2 ^ 23 ≤ v ∨ c = 0 ∨ s.ctx? c = none ∨ ncore = 0 ∨ dies = 0
    let victim (b : Bent) : Prop := ofCtx s b c ∧ dies.testBit b.die = true
    (s.dcb.busy = true → exec .preemptionRequest s = .next { s with dcb := { s.dcb with lost := true } }) ∧
    (s.dcb.busy = false → bad → exec .preemptionRequest s = .next { s with dcb := { s.dcb with done := false, short := false, nospace := false, lost := false, badreq := true, vacated := 0 } }) ∧
    (s.dcb.busy = false → ¬ bad → (∀ b ∈ s.bents, victim b → b.st ≠ .run ∧ b.st ≠ .cmt) → (∀ k < 4, s.dieHolds.getD k none = none) → ∃ t : State, exec .preemptionRequest s = .next t ∧
      t.dcb = { s.dcb with busy := false, done := true, short := true, nospace := false, lost := false, badreq := false, vacated := 0 } ∧ t.preHolds = s.preHolds ∧ t.bents = s.bents ∧ t.teams = s.teams) ∧
    (∀ b k, s.dcb.busy = false → ¬ bad → (∀ k < 4, s.dieHolds.getD k none = none) → s.bents.filter (fun b => b.st = .run) = [b] → (∀ o ∈ s.bents, o.st ≠ .cmt) → s.bent? b.id = some b → victim b → s.findRun (s.imageUnits b) = some k → s.imageUnits b ≤ s.dcb.savelen → s.bents.all (fun o => o.id ≠ b.id || o = b) = true →
      ∃ t : State, exec .preemptionRequest s = .next t ∧ SaveBegun s t b false ∧ t.dcb.busy = true ∧ t.dcb.lost = false ∧ t.dcb.badreq = false ∧ ∀ o ∈ s.bents, o.id ≠ b.id → o ∈ t.bents) ∧
    (∀ b, s.dcb.busy = false → ¬ bad → (∀ k < 4, s.dieHolds.getD k none = none) → s.bents.filter (fun b => b.st = .run) = [b] → victim b → (∀ o ∈ s.bents, o.st ≠ .cmt) → s.dcb.savelen < s.imageUnits b →
      ∃ t : State, exec .preemptionRequest s = .next t ∧ t.dcb.nospace = true ∧ t.dcb.busy = false ∧ t.dcb.short = true ∧ t.bents = s.bents)) ∧
  (∀ s, exec .preemptionHoldRelease s = .next (if s.operand.v = 1 then { s with preHolds := [] } else s)) ∧
  (∀ s (v : Nat),
    (v < 2 ^ 64 → s.operand.n = 0x2018 → s.operand.bytes = leBytes v 8 → exec .controlBlockWrite s = .next (if v % 65536 = 0 ∧ s.saveRuns = [] then { s with dcb := { s.dcb with savebase := v } } else s)) ∧
    (v < 2 ^ 32 → s.operand.n = 0x2020 → s.operand.bytes = leBytes v 4 → exec .controlBlockWrite s = .next (if s.saveRuns = [] then { s with dcb := { s.dcb with savelen := v } } else s)) ∧
    (v < 2 ^ 32 → s.operand.n = 0x2024 → s.operand.bytes = leBytes v 4 → exec .controlBlockWrite s = .next (if v < 2 ^ 17 then { s with dcb := { s.dcb with sbtime := max 64 (min 65536 v) } } else s)) ∧
    (v < 2 ^ 64 → s.operand.n = 0x2028 → s.operand.bytes = leBytes v 8 → exec .controlBlockWrite s = .next (if v % 65536 = 0 ∧ s.grids = [] then { s with dcb := { s.dcb with lrbase := v } } else s)) ∧
    (v < 2 ^ 32 → s.operand.n = 0x2030 → s.operand.bytes = leBytes v 4 → exec .controlBlockWrite s = .next (if s.grids = [] then { s with dcb := { s.dcb with lrlen := v } } else s)) ∧
    (s.operand.n = 0x2008 → s.operand.bytes.length ≤ 8 → exec .controlBlockWrite s = .next s) ∧
    (0x2034 ≤ s.operand.n → s.operand.n + s.operand.bytes.length ≤ 0x3000 → exec .controlBlockWrite s = .next s) ∧
    (v < 2 ^ 64 → s.operand.n = 0x3010 → s.operand.bytes = leBytes v 8 → exec .controlBlockWrite s = .next (s.resolve v)) ∧
    (v < 2 ^ 64 → s.operand.n = 0x3068 → s.operand.bytes = leBytes v 8 → v / 8 % 32 = 0 → v / 8192 % 8 = 0 → v < 2 ^ 32 → 4 ≤ v / 256 % 32 → v / 256 % 32 ≤ 20 → 100 ≤ v / 65536 →
      exec .controlBlockWrite s = .next { s with mcb := { s.mcb with mode := BitVec.ofNat 2 v, migen := v.testBit 2, logn := v / 256 % 32, interval := v / 65536 } }) ∧
    (∀ d, d < 4 → v < 2 ^ 64 → s.operand.n = 0x3018 + 16 * d → s.operand.bytes = leBytes v 8 → ∃ t : State, exec .controlBlockWrite s = .next t ∧ { t with mcb := s.mcb } = s ∧
      (let r := s.mcb.ft.getD d Ring.absent; let base := v / 4096 % 2 ^ 36 * 4096; let q := t.mcb.ft.getD d Ring.absent
       if v = 0 then q.base = 0 ∧ q.head = q.tail else if v / 32 % 128 = 0 ∧ v < 2 ^ 48 ∧ 6 ≤ v % 32 ∧ v % 32 ≤ 16 ∧ ¬ (r.base = base ∧ r.logn = v % 32) then q.base = base ∧ q.logn = v % 32 ∧ q.head = q.tail ∧ q.tail = r.tail else q = r)) ∧
    (0x4000 ≤ s.operand.n → s.operand.n + s.operand.bytes.length ≤ 0x5000 → ∃ t : State, exec .controlBlockWrite s = .next t ∧ { t with mem := s.mem } = s ∧
      ∀ a, memGet t.mem a = if s.operand.n ≤ a ∧ a < s.operand.n + s.operand.bytes.length then s.operand.bytes.getD (a - s.operand.n) 0 else memGet s.mem a)) ∧
  (∀ s b, EntriesStand s → s.bent? s.operand.n = some b →
    let ready : Prop := ∀ m ∈ s.teams, m.bent = b.id → s.saveReady m = true
    ((b.st ≠ .saving ∨ ¬ ready) → exec .bentSaveComplete s = .next s) ∧
    (∀ k, b.st = .saving → ready → b.image = some k → s.preempt = none → s.runs = [] → (∀ e, b.entry = some e → e + 16 ≤ s.dcb.savebase + 65536 * k ∨ s.dcb.savebase + 65536 * k + 640 ≤ e) → ∃ (t : State) (b' : Bent), exec .bentSaveComplete s = .next t ∧ t.bent? b.id = some b' ∧ b'.st = .saved ∧ b'.image = some k ∧
      (∀ m ∈ t.teams, m ∈ s.teams ∧ m.bent ≠ b.id) ∧ b'.saved.map (·.vteam) = ((s.teams.filter (·.bent = b.id)).map (·.vteam)) ∧
      b'.saved.map (·.groups) = (s.teams.filter (·.bent = b.id)).map (·.groups) ∧
      (let i := memRead t.mem (s.dcb.savebase + 65536 * k) 128; fld i 0 4 = 0x10000 ∧ fld i 4 4 = ((s.teams.filter (·.bent = b.id)).length) % 2 ^ 32 ∧ fld i 24 104 = 0) ∧
      ∀ m, (s.teams.filter (·.bent = b.id)).head? = some m → ∀ j < 64, fld (memRead t.mem (s.dcb.savebase + 65536 * k + 384 + 4 * j) 4) 0 4 = (m.tokens.getD j 0).toNat) ∧
    (∀ p, b.st = .saving → ready → s.preempt = some p → p.selected = [b.id] → (∀ o ∈ s.bents, o.id = b.id → o = b) → (∀ o ∈ s.bents, ofCtx s o p.ctx → o.st ≠ .run ∧ o.st ≠ .cmt) → ∃ (t : State) (vac : List Nat), exec .bentSaveComplete s = .next t ∧ t.preempt = none ∧ t.dcb.busy = false ∧ t.dcb.done = true ∧
      t.dcb.vacated = vac.length ∧ t.dcb.short = decide (vac.length < p.ncore) ∧ (∀ c ∈ vac, (c, p.hprio) ∈ t.preHolds) ∧ (∀ c ∈ vac, ∀ m ∈ t.teams, ¬ (m.core = c ∧ m.ctx = p.ctx)))) ∧
  (∀ s ctx, EntriesStand s → s.operand.ctx = ctx →
    let mine (b : Bent) : Bool := match s.grid? b.record with
      | some g => g.ctx = ctx
      | none => false
    let waits : Prop := ∃ b ∈ s.requests, mine b = true ∧ ∀ t, s.tryGrant b = some t → ∃ c, t.bent? b.id = some c ∧ c.st = .rsv
    let saving : Prop := ∃ b ∈ s.bents, mine b = true ∧ b.st = .saving ∧ b.yielded = true
    ((¬ waits ∨ saving ∨ ∀ b ∈ s.bents, ¬ (mine b = true ∧ s.yieldable b = true)) → exec .yieldSave s = .next s) ∧
    (∀ b k, waits → ¬ saving → s.bents.filter (fun b => mine b && s.yieldable b) = [b] → s.bent? b.id = some b →
      (s.dcb.savelen < s.imageUnits b → exec .yieldSave s = .next s) ∧
      (s.findRun (s.imageUnits b) = some k → s.imageUnits b ≤ s.dcb.savelen → ∃ t : State, exec .yieldSave s = .next t ∧ SaveBegun s t b true))) ∧
  (∀ s b, EntriesStand s → s.bent? s.operand.n = some b →
    let cores := rectCores b.anchor (bentDims s b).1 (bentDims s b).2
    let ordered : Prop := ∀ m ∈ s.teams, m.bent = b.id → ∀ g ∈ m.groups, g.wmax ≤ s.timeOf b.die ∧ g.omax ≤ s.timeOf b.die ∧ ∀ k < 16, (g.rt.getD k ⟨false, 0, 0⟩).valid = true → (g.rt.getD k ⟨false, 0, 0⟩).time ≤ s.timeOf b.die
    ((b.st ≠ .cmt ∨ (∀ t ∈ s.teams, t.bent ≠ b.id) ∨ b.image = none) → exec .restoreComplete s = .next s) ∧
    (b.st = .cmt → (∃ t ∈ s.teams, t.bent = b.id) → b.image.isSome = true → (∀ c ∈ cores, c ∉ s.root.quarCores) → (¬ ordered ∨ ∃ m ∈ s.teams, m.bent = b.id ∧ s.engineRoom m = false) → exec .restoreComplete s = .next s) ∧
    (∀ k, b.st = .cmt → b.image = some k → (∀ c ∈ cores, c ∉ s.root.quarCores) → ordered → (∀ m ∈ s.teams, m.bent = b.id → s.engineRoom m = true) → b.doomed = none → (∀ m ∈ s.teams, m.bent = b.id → s.iverOk b (s.teams.filter (·.bent = b.id)) m = true) → s.preempt = none → (∃ m ∈ s.teams, m.bent = b.id ∧ ∃ x ∈ m.groups, x.ended = false) →
      ∃ (t : State) (b' : Bent), exec .restoreComplete s = .next t ∧ t.bent? b.id = some b' ∧ b' = { b with st := .run, image := none, shot := [], yielded := false } ∧ (∀ r ∈ t.saveRuns, r.1 ≠ k) ∧
        ∀ m ∈ t.teams, m.bent = b.id → m.keptRun = none ∧ m.keptPasses = []))

/-! ### Paging, hot lists and migration (R182 to R184, R189 to R194, R204 to R209) -/

/-- First touch, page requests, hot lists and migration (R189 to R194, R204 to R209). -/
def Obligations.Paging : Prop := PageRequestsPart ∧ HotPagesPart

/-! ### Encodings (R304 to R306, R319 to R327, R450, R452) -/

/-- Words written out bit by bit from the encodings of R304 to R312 and R450 decode to the instructions that they stand for, with their lengths. A check of the tables on fixed words. -/
def Obligations.DecodeWords : Prop :=
  (∀ x ∈ knownWords, (decodeWords x.1).toOption = some (x.2, x.1.length)) ∧ (∀ x ∈ knownSill, (decodeSill x.1).toOption = some x.2)

/-- Word 0 of every Yalhel instruction has the fields of R305, and Enc.ofWords takes them from there in every form. -/
def Obligations.WordZero : Prop :=
  (∀ (c : Instr) (x : Enc), c.enc? = some x →
    let w := (encode c).getD 0 0
    w.extractLsb' 26 6 = x.b6 ∧ w.extractLsb' 18 8 = x.a ∧ w.extractLsb' 10 8 = x.d ∧ w.extractLsb' 2 8 = x.op ∧
      (w.extractLsb' 0 2).toNat = (match x.form with | .s => 0 | .e => 1 | .l => 2 | .x => 3)) ∧
  (∀ w0 w1 w2 w3 w4 : Word, let x := Enc.ofWords w0 w1 w2 w3 w4
    x.b6 = w0.extractLsb' 26 6 ∧ x.a = w0.extractLsb' 18 8 ∧ x.d = w0.extractLsb' 10 8 ∧ x.op = w0.extractLsb' 2 8 ∧
      x.form = (match (w0.extractLsb' 0 2).toNat with | 0 => .s | 1 => .e | 2 => .l | _ => .x))

/-- Decoding the words of an encoded well-formed instruction, whatever words follow them, gives the instruction back with its length, for every Yalhel and every Sill instruction and every value of its fields (R304 to R327, R450, R452). -/
def Obligations.DecodeEncode : Prop :=
  (∀ (c : Instr) (x : Enc) (rest : List Word), c.WellFormed → c.enc? = some x →
    decodeWords (encode c ++ rest) = .ok (c, (encode c).length) ∧ (encode c).length = x.form.words) ∧
  (∀ (c : Instr) (w : Word), c.WellFormed → c.sillWord? = some w → encode c = [w] ∧ decodeSill w = .ok c)

/-! ### A step (R145, R304, R317, log 3) -/

/-- A step that meets no injected error takes the first turn of the agenda, a cycle having passed: the turn of a strand that may issue fetches the words at its PC and is exec of the instruction that they decode to, an illegal opcode where they decode to none, unless the window's shadow skips it (R151); a Sill unit's turn is exec of the word at its program counter; an event's turn is exec of its row with its operands. With an empty agenda it takes the first turn that is due and does something. What a context whose addresses are physical fetches, where its core caches no line, are the bytes of memory at the PC, and memory changes in the affinity counters of its launch record alone (R52, R99, R304, R317, R447; the order of turns is the model's choice, log 3). -/
def Obligations.StepRunsDecoded : Prop :=
  (∀ (s : State) rest (r : StrandRef) t g, s.agenda = .issue r :: rest →
    let u := beforeTurn s rest
    u.flaws = [] → u.issuable r = true → u.team? r.g.ctx r.g.vteam = some t → u.group? r.g = some g →
    (∀ ws v c n, (g.strand r.num).skips.head? = some true → ws.length = (Form.ofLen ((ws.getD 0 0).extractLsb' 0 2)).words →
      Fetches t (u.codeBounds t g r.handler) (g.strand r.num).pc u ws v → decodeWords ws = .ok (c, n) → step s = .next (v.skip r n)) ∧
    (∀ ws v c n, (g.strand r.num).skips.head? ≠ some true → ws.length = (Form.ofLen ((ws.getD 0 0).extractLsb' 0 2)).words → Fetches t (u.codeBounds t g r.handler) (g.strand r.num).pc u ws v →
      decodeWords ws = .ok (c, n) → step s = exec c { v with cur := some r }) ∧
    (∀ ws v e, (g.strand r.num).skips.head? ≠ some true → ws.length = (Form.ofLen ((ws.getD 0 0).extractLsb' 0 2)).words → Fetches t (u.codeBounds t g r.handler) (g.strand r.num).pc u ws v →
      decodeWords ws = .error e → step s = exec (.illegalOpcode (ws.getD 0 0) (ws.getD 1 0)) { v with cur := some r })) ∧
  (∀ (s : State) (t : Team) (bounds : Nat × Nat) (pc : DWord) pa, t.ctx = 0#8 → pc.toNat = pa → pa + 4 ≤ memTop → 65536 ≤ pa → pa % 4 = 0 → bounds.1 ≤ pa → pa + 4 ≤ bounds.1 + bounds.2 → s.mcb.mode.getLsbD 1 = false →
    s.bad (lineOf pa * 128) 128 = false → (s.core t.core).icache.all (·.line ≠ lineOf pa) = true →
    ∃ s', s.fetchWord t bounds pc = .ok s' (BitVec.ofNat 32 (leNat (memRead s.mem pa 4))) ∧ s'.teams = s.teams ∧
      ∀ b, (∀ q, (s.whoTeam t).record = some q → ¬ (q + 160 ≤ b ∧ b < q + 184)) → memGet s'.mem b = memGet s.mem b) ∧
  (∀ (s : State) rest k w c, s.agenda = .sill k :: rest → let u := beforeTurn s rest
    u.flaws = [] → u.sillFetch k = some w → decodeSill w = .ok c → step s = exec c { u with curSill := some k }) ∧
  (∀ (s : State) rest c o, s.agenda = .event c o :: rest → (beforeTurn s rest).flaws = [] → step s = exec c { beforeTurn s rest with operand := o }) ∧
  (∀ (s : State) before x after s', s.agenda = [] → let u := beforeTurn s []
    u.dueTurns = before ++ x :: after → (∀ y ∈ before, ∃ v, u.turn y = .next v ∧ u.movedBy v = false) →
    u.turn x = .next s' → u.movedBy s' = true → step s = .next s')

/-! ### Reset (R35, R104, R146, R174, R191, R192, R276) -/

/-- What the rules give right after reset: the memory control block reads as zero but for HOTCFG, MIGLIM and FTLOW, the launch-record area is empty at 0 and the spawn-bin timer 2,048, each core has FAIRINT 512, WDLOG 30, a BSPILL outcome of no write and zero counts, no die is running, no context but that of system software exists, and no port has an identity. Memory is in its canonical form. That memory reads as zero before the boot has zeroed it, and zero in the fields that no rule gives, are the model's choice (log 1 and 2) (R35, R104, R146, R174, R191, R192, R276). -/
def Obligations.ResetValues : Prop :=
  (∀ k < 160, State.reset.mcbBytes.getD k 0 =
    if k = 104 then 5#8 else if k = 105 then 10#8 else if k = 106 then 0xE8#8 else if k = 107 then 3#8 else if k = 144 then 64#8 else if k = 152 then 16#8 else 0#8) ∧
  State.reset.dcb.lrbase = 0 ∧ State.reset.dcb.lrlen = 0 ∧ State.reset.dcb.sbtime = 2048 ∧
  (∀ k < 256, let c := State.reset.core k
    c.fairint = 512 ∧ c.wdlog = 30 ∧ c.bspill = 0xC0000000#64 ∧ c.pffetch = 0 ∧ c.pfused = 0 ∧ c.pftimely = 0 ∧ c.sbstall = 0 ∧ c.coissue = 0) ∧
  State.reset.root.phase = .inReset ∧ State.reset.root.idset = false ∧ State.reset.ctxs.map (·.num) = [0#8] ∧ State.reset.teams = [] ∧
  Memory.wf State.reset.mem = true ∧ (∀ a, memGet State.reset.mem a = 0)

/-! ### Slide reset (R391) -/

/-- SLRESET sets N, NOUT, HEAD and PUSHES of its bound descriptor to 0, keeps WIN, CAP, OP and BASE, and writes the identity to the aggregate register in every lane of the group. -/
def Obligations.SlideReset : Prop :=
  ∀ y s s' i, let x := SForm.enc 0x9B y
    IssuesWith (slideUses true x.d.toNat) s x s' i →
    let d := i.g.slide x.d.toNat
    d.bound = true → d.base + d.cap < i.g.vregs → i.g.vregs ≤ 256 → x.d.toNat < 8 → i.hasSet = false → i.g.sharesEarlier i.st = false →
    ∃ t g', exec (.slreset y) s = .next t ∧ t.group? i.r.g = some g' ∧
      let e := g'.slide x.d.toNat
      e.n = 0 ∧ e.nout = 0 ∧ e.head = 0 ∧ e.pushes = 0 ∧ e.bound = true ∧ e.win = d.win ∧ e.cap = d.cap ∧ e.op = d.op ∧ e.base = d.base ∧ e.uns = d.uns ∧
      (∀ l < 32, i.t.lanes.getLsbD l = true → vlane g' (d.base + d.cap) l = d.identity) ∧
      (∀ l < 32, i.t.lanes.getLsbD l = false → vlane g' (d.base + d.cap) l = vlane i.g (d.base + d.cap) l)

/-! ### Privilege and taking a trap (R269 to R275) -/

/-- Every instruction of opcodes 0xE0 to 0xEF, and GETSR and SETSR of a control register, raises PRIV when a strand other than the handler strand issues it, and has none of its effect (R274). -/
def Obligations.Privilege : Prop :=
  ∀ (c : Instr) (x : Enc) s r j, c.enc? = some x →
    (0xE0 ≤ x.op.toNat ∧ x.op.toNat ≤ 0xEF) ∨ ((x.op = 0x55#8 ∨ x.op = 0x56#8) ∧ (x.w2.extractLsb' 0 8).toNat ≤ 0x0C) →
    s.cur = some r → r.handler = false → s.iss? r x = some j → j.held ((Enc.uses x).join (systemUses c s j)) = none →
    Traps c s s j { cause := 0x03#8, la := x.la }

/-- A fault or trap of a strand of which no earlier instruction has failed writes the strand's entry with its PC, cause and what the trap carries, and, being the first, opens the group's trap: GCAUSE, PRIMARY and TIME are its own and the drain starts; a later one leaves these three as they are. The strand stops with its address, mask, order and own registers kept; every other strand, every register, memory and the rest of the machine is as before. A trap of the handler strand, and one without a handler image, ends the bent as DOUBLE, a bent that runs being no longer there or failed with its grid (R269, R271, R272, R275). -/
def Obligations.TakeTrap : Prop :=
  (∀ (s : State) (r : StrandRef) (x : Trap) t g, r.handler = false → (s.handlerCode r.g.ctx).base ≠ 0 → s.team? r.g.ctx r.g.vteam = some t → s.group? r.g = some g →
    r.sid < 16 → g.failing.all (·.sid ≠ r.sid) = true → g.record.fset.getLsbD r.sid = false → x.pc = none →
    ∃ g', (s.takeTrap r x).group? r.g = some g' ∧
      g'.record.fset = g.record.fset ||| (1#16 <<< r.sid) ∧
      (∀ k < 16, g'.record.faults.getD k FaultEntry.zero = if k = r.sid then
        ⟨(g.strand r.sid).pc, x.cause, x.la, (g.strand r.sid).shadowHere x.la.toNat, x.lanes, x.faddr, x.lcause, BitVec.ofNat 64 x.detail⟩ else g.record.faults.getD k FaultEntry.zero) ∧
      g'.record.tree = g.record.tree ∧ g'.record.waits = g.record.waits ∧
      (g.trap = .none → g'.trap = .draining ∧ g'.record.gcause = x.cause ∧ g'.record.primary = BitVec.ofNat 4 r.sid ∧
        g'.record.time = BitVec.ofNat 64 (s.timeOf (dieOfCore t.core)) ∧ g'.trapAt = s.cycle) ∧
      (g.trap ≠ .none → g'.trap = g.trap ∧ g'.record.gcause = g.record.gcause ∧ g'.record.primary = g.record.primary ∧ g'.record.time = g.record.time ∧ g'.trapAt = g.trapAt) ∧
      StoppedAt (g.strand r.sid) (g'.strand r.sid) ∧ (∀ k ≤ handlerSid, k ≠ r.sid → g'.strand k = g.strand k) ∧
      g'.v = g.v ∧ g'.p = g.p ∧ g'.s = g.s ∧ g'.seed = g.seed ∧ g'.sup = g.sup ∧ g'.sb = g.sb ∧ g'.loads = g.loads ∧ g'.longs = g.longs ∧ SameElsewhere s (s.takeTrap r x) r.g) ∧
  (∀ (s : State) (r : StrandRef) (x : Trap) t, (r.handler = true ∨ (s.handlerCode r.g.ctx).base = 0) → s.team? r.g.ctx r.g.vteam = some t →
    s.takeTrap r x = s.killBent t.bent 0x32#8 0 0 3 (64 * t.core) false)

/-! ### The form of memory -/

/-- Every step that answers a next state keeps the canonical form of memory: addresses strictly rising and no entry that an unlisted address reads as. -/
def Obligations.StepKeepsMemory : Prop := ∀ s s' : State, Memory.wf s.mem = true → step s = .next s' → Memory.wf s'.mem = true

end
end

