-- ==== Sys2Proof/Laws/State.lean ====
section
/-! SUPPORT. One lemma for each field and each update of the state, a team and a group, so that no proof unfolds a record update. -/
namespace Sys2Proof.Machine

/-! State.modCore -/
@[simp] theorem State.modCore_time (s : State) (c : Nat) (f : Core → Core) : (s.modCore c f).time = s.time := rfl
@[simp] theorem State.modCore_frac (s : State) (c : Nat) (f : Core → Core) : (s.modCore c f).frac = s.frac := rfl
@[simp] theorem State.modCore_cycle (s : State) (c : Nat) (f : Core → Core) : (s.modCore c f).cycle = s.cycle := rfl
@[simp] theorem State.modCore_dieOff (s : State) (c : Nat) (f : Core → Core) : (s.modCore c f).dieOff = s.dieOff := rfl
@[simp] theorem State.modCore_timeHeld (s : State) (c : Nat) (f : Core → Core) : (s.modCore c f).timeHeld = s.timeHeld := rfl
@[simp] theorem State.modCore_throttled (s : State) (c : Nat) (f : Core → Core) : (s.modCore c f).throttled = s.throttled := rfl
@[simp] theorem State.modCore_root (s : State) (c : Nat) (f : Core → Core) : (s.modCore c f).root = s.root := rfl
@[simp] theorem State.modCore_sent (s : State) (c : Nat) (f : Core → Core) : (s.modCore c f).sent = s.sent := rfl
@[simp] theorem State.modCore_ports (s : State) (c : Nat) (f : Core → Core) : (s.modCore c f).ports = s.ports := rfl
@[simp] theorem State.modCore_dieLinks (s : State) (c : Nat) (f : Core → Core) : (s.modCore c f).dieLinks = s.dieLinks := rfl
@[simp] theorem State.modCore_outstanding (s : State) (c : Nat) (f : Core → Core) : (s.modCore c f).outstanding = s.outstanding := rfl
@[simp] theorem State.modCore_replies (s : State) (c : Nat) (f : Core → Core) : (s.modCore c f).replies = s.replies := rfl
@[simp] theorem State.modCore_waiting (s : State) (c : Nat) (f : Core → Core) : (s.modCore c f).waiting = s.waiting := rfl
@[simp] theorem State.modCore_ridgeErrors (s : State) (c : Nat) (f : Core → Core) : (s.modCore c f).ridgeErrors = s.ridgeErrors := rfl
@[simp] theorem State.modCore_ridgeDiscards (s : State) (c : Nat) (f : Core → Core) : (s.modCore c f).ridgeDiscards = s.ridgeDiscards := rfl
@[simp] theorem State.modCore_mem (s : State) (c : Nat) (f : Core → Core) : (s.modCore c f).mem = s.mem := rfl
@[simp] theorem State.modCore_poison (s : State) (c : Nat) (f : Core → Core) : (s.modCore c f).poison = s.poison := rfl
@[simp] theorem State.modCore_corrupt (s : State) (c : Nat) (f : Core → Core) : (s.modCore c f).corrupt = s.corrupt := rfl
@[simp] theorem State.modCore_ident (s : State) (c : Nat) (f : Core → Core) : (s.modCore c f).ident = s.ident := rfl
@[simp] theorem State.modCore_outbox (s : State) (c : Nat) (f : Core → Core) : (s.modCore c f).outbox = s.outbox := rfl
@[simp] theorem State.modCore_l2bad (s : State) (c : Nat) (f : Core → Core) : (s.modCore c f).l2bad = s.l2bad := rfl
@[simp] theorem State.modCore_flaws (s : State) (c : Nat) (f : Core → Core) : (s.modCore c f).flaws = s.flaws := rfl
@[simp] theorem State.modCore_dcb (s : State) (c : Nat) (f : Core → Core) : (s.modCore c f).dcb = s.dcb := rfl
@[simp] theorem State.modCore_preempt (s : State) (c : Nat) (f : Core → Core) : (s.modCore c f).preempt = s.preempt := rfl
@[simp] theorem State.modCore_mcb (s : State) (c : Nat) (f : Core → Core) : (s.modCore c f).mcb = s.mcb := rfl
@[simp] theorem State.modCore_ctxs (s : State) (c : Nat) (f : Core → Core) : (s.modCore c f).ctxs = s.ctxs := rfl
@[simp] theorem State.modCore_works (s : State) (c : Nat) (f : Core → Core) : (s.modCore c f).works = s.works := rfl
@[simp] theorem State.modCore_graphs (s : State) (c : Nat) (f : Core → Core) : (s.modCore c f).graphs = s.graphs := rfl
@[simp] theorem State.modCore_grids (s : State) (c : Nat) (f : Core → Core) : (s.modCore c f).grids = s.grids := rfl
@[simp] theorem State.modCore_bents (s : State) (c : Nat) (f : Core → Core) : (s.modCore c f).bents = s.bents := rfl
@[simp] theorem State.modCore_nextId (s : State) (c : Nat) (f : Core → Core) : (s.modCore c f).nextId = s.nextId := rfl
@[simp] theorem State.modCore_gridCount (s : State) (c : Nat) (f : Core → Core) : (s.modCore c f).gridCount = s.gridCount := rfl
@[simp] theorem State.modCore_dieHolds (s : State) (c : Nat) (f : Core → Core) : (s.modCore c f).dieHolds = s.dieHolds := rfl
@[simp] theorem State.modCore_preHolds (s : State) (c : Nat) (f : Core → Core) : (s.modCore c f).preHolds = s.preHolds := rfl
@[simp] theorem State.modCore_saveRuns (s : State) (c : Nat) (f : Core → Core) : (s.modCore c f).saveRuns = s.saveRuns := rfl
@[simp] theorem State.modCore_l2 (s : State) (c : Nat) (f : Core → Core) : (s.modCore c f).l2 = s.l2 := rfl
@[simp] theorem State.modCore_l2es (s : State) (c : Nat) (f : Core → Core) : (s.modCore c f).l2es = s.l2es := rfl
@[simp] theorem State.modCore_l2tlb (s : State) (c : Nat) (f : Core → Core) : (s.modCore c f).l2tlb = s.l2tlb := rfl
@[simp] theorem State.modCore_walkCache (s : State) (c : Nat) (f : Core → Core) : (s.modCore c f).walkCache = s.walkCache := rfl
@[simp] theorem State.modCore_touches (s : State) (c : Nat) (f : Core → Core) : (s.modCore c f).touches = s.touches := rfl
@[simp] theorem State.modCore_hot (s : State) (c : Nat) (f : Core → Core) : (s.modCore c f).hot = s.hot := rfl
@[simp] theorem State.modCore_hotSeq (s : State) (c : Nat) (f : Core → Core) : (s.modCore c f).hotSeq = s.hotSeq := rfl
@[simp] theorem State.modCore_hotAt (s : State) (c : Nat) (f : Core → Core) : (s.modCore c f).hotAt = s.hotAt := rfl
@[simp] theorem State.modCore_prTold (s : State) (c : Nat) (f : Core → Core) : (s.modCore c f).prTold = s.prTold := rfl
@[simp] theorem State.modCore_migrations (s : State) (c : Nat) (f : Core → Core) : (s.modCore c f).migrations = s.migrations := rfl
@[simp] theorem State.modCore_oldFrames (s : State) (c : Nat) (f : Core → Core) : (s.modCore c f).oldFrames = s.oldFrames := rfl
@[simp] theorem State.modCore_runs (s : State) (c : Nat) (f : Core → Core) : (s.modCore c f).runs = s.runs := rfl
@[simp] theorem State.modCore_stackCtls (s : State) (c : Nat) (f : Core → Core) : (s.modCore c f).stackCtls = s.stackCtls := rfl
@[simp] theorem State.modCore_heldWrites (s : State) (c : Nat) (f : Core → Core) : (s.modCore c f).heldWrites = s.heldWrites := rfl
@[simp] theorem State.modCore_engines (s : State) (c : Nat) (f : Core → Core) : (s.modCore c f).engines = s.engines := rfl
@[simp] theorem State.modCore_sysCopies (s : State) (c : Nat) (f : Core → Core) : (s.modCore c f).sysCopies = s.sysCopies := rfl
@[simp] theorem State.modCore_cinvs (s : State) (c : Nat) (f : Core → Core) : (s.modCore c f).cinvs = s.cinvs := rfl
@[simp] theorem State.modCore_teams (s : State) (c : Nat) (f : Core → Core) : (s.modCore c f).teams = s.teams := rfl
@[simp] theorem State.modCore_agenda (s : State) (c : Nat) (f : Core → Core) : (s.modCore c f).agenda = s.agenda := rfl
@[simp] theorem State.modCore_operand (s : State) (c : Nat) (f : Core → Core) : (s.modCore c f).operand = s.operand := rfl
@[simp] theorem State.modCore_cur (s : State) (c : Nat) (f : Core → Core) : (s.modCore c f).cur = s.cur := rfl
@[simp] theorem State.modCore_curSill (s : State) (c : Nat) (f : Core → Core) : (s.modCore c f).curSill = s.curSill := rfl
@[simp] theorem State.modCore_free (s : State) (c : Nat) (f : Core → Core) : (s.modCore c f).free = s.free := rfl
@[simp] theorem State.modCore_residueMiss (s : State) (c : Nat) (f : Core → Core) : (s.modCore c f).residueMiss = s.residueMiss := rfl

/-! State.modTeam -/
@[simp] theorem State.modTeam_time (s : State) (c : BitVec 8) (v : BitVec 16) (f : Team → Team) : (s.modTeam c v f).time = s.time := rfl
@[simp] theorem State.modTeam_frac (s : State) (c : BitVec 8) (v : BitVec 16) (f : Team → Team) : (s.modTeam c v f).frac = s.frac := rfl
@[simp] theorem State.modTeam_cycle (s : State) (c : BitVec 8) (v : BitVec 16) (f : Team → Team) : (s.modTeam c v f).cycle = s.cycle := rfl
@[simp] theorem State.modTeam_dieOff (s : State) (c : BitVec 8) (v : BitVec 16) (f : Team → Team) : (s.modTeam c v f).dieOff = s.dieOff := rfl
@[simp] theorem State.modTeam_timeHeld (s : State) (c : BitVec 8) (v : BitVec 16) (f : Team → Team) : (s.modTeam c v f).timeHeld = s.timeHeld := rfl
@[simp] theorem State.modTeam_throttled (s : State) (c : BitVec 8) (v : BitVec 16) (f : Team → Team) : (s.modTeam c v f).throttled = s.throttled := rfl
@[simp] theorem State.modTeam_root (s : State) (c : BitVec 8) (v : BitVec 16) (f : Team → Team) : (s.modTeam c v f).root = s.root := rfl
@[simp] theorem State.modTeam_sent (s : State) (c : BitVec 8) (v : BitVec 16) (f : Team → Team) : (s.modTeam c v f).sent = s.sent := rfl
@[simp] theorem State.modTeam_ports (s : State) (c : BitVec 8) (v : BitVec 16) (f : Team → Team) : (s.modTeam c v f).ports = s.ports := rfl
@[simp] theorem State.modTeam_dieLinks (s : State) (c : BitVec 8) (v : BitVec 16) (f : Team → Team) : (s.modTeam c v f).dieLinks = s.dieLinks := rfl
@[simp] theorem State.modTeam_outstanding (s : State) (c : BitVec 8) (v : BitVec 16) (f : Team → Team) : (s.modTeam c v f).outstanding = s.outstanding := rfl
@[simp] theorem State.modTeam_replies (s : State) (c : BitVec 8) (v : BitVec 16) (f : Team → Team) : (s.modTeam c v f).replies = s.replies := rfl
@[simp] theorem State.modTeam_waiting (s : State) (c : BitVec 8) (v : BitVec 16) (f : Team → Team) : (s.modTeam c v f).waiting = s.waiting := rfl
@[simp] theorem State.modTeam_ridgeErrors (s : State) (c : BitVec 8) (v : BitVec 16) (f : Team → Team) : (s.modTeam c v f).ridgeErrors = s.ridgeErrors := rfl
@[simp] theorem State.modTeam_ridgeDiscards (s : State) (c : BitVec 8) (v : BitVec 16) (f : Team → Team) : (s.modTeam c v f).ridgeDiscards = s.ridgeDiscards := rfl
@[simp] theorem State.modTeam_mem (s : State) (c : BitVec 8) (v : BitVec 16) (f : Team → Team) : (s.modTeam c v f).mem = s.mem := rfl
@[simp] theorem State.modTeam_poison (s : State) (c : BitVec 8) (v : BitVec 16) (f : Team → Team) : (s.modTeam c v f).poison = s.poison := rfl
@[simp] theorem State.modTeam_corrupt (s : State) (c : BitVec 8) (v : BitVec 16) (f : Team → Team) : (s.modTeam c v f).corrupt = s.corrupt := rfl
@[simp] theorem State.modTeam_ident (s : State) (c : BitVec 8) (v : BitVec 16) (f : Team → Team) : (s.modTeam c v f).ident = s.ident := rfl
@[simp] theorem State.modTeam_outbox (s : State) (c : BitVec 8) (v : BitVec 16) (f : Team → Team) : (s.modTeam c v f).outbox = s.outbox := rfl
@[simp] theorem State.modTeam_l2bad (s : State) (c : BitVec 8) (v : BitVec 16) (f : Team → Team) : (s.modTeam c v f).l2bad = s.l2bad := rfl
@[simp] theorem State.modTeam_flaws (s : State) (c : BitVec 8) (v : BitVec 16) (f : Team → Team) : (s.modTeam c v f).flaws = s.flaws := rfl
@[simp] theorem State.modTeam_dcb (s : State) (c : BitVec 8) (v : BitVec 16) (f : Team → Team) : (s.modTeam c v f).dcb = s.dcb := rfl
@[simp] theorem State.modTeam_preempt (s : State) (c : BitVec 8) (v : BitVec 16) (f : Team → Team) : (s.modTeam c v f).preempt = s.preempt := rfl
@[simp] theorem State.modTeam_mcb (s : State) (c : BitVec 8) (v : BitVec 16) (f : Team → Team) : (s.modTeam c v f).mcb = s.mcb := rfl
@[simp] theorem State.modTeam_ctxs (s : State) (c : BitVec 8) (v : BitVec 16) (f : Team → Team) : (s.modTeam c v f).ctxs = s.ctxs := rfl
@[simp] theorem State.modTeam_works (s : State) (c : BitVec 8) (v : BitVec 16) (f : Team → Team) : (s.modTeam c v f).works = s.works := rfl
@[simp] theorem State.modTeam_graphs (s : State) (c : BitVec 8) (v : BitVec 16) (f : Team → Team) : (s.modTeam c v f).graphs = s.graphs := rfl
@[simp] theorem State.modTeam_grids (s : State) (c : BitVec 8) (v : BitVec 16) (f : Team → Team) : (s.modTeam c v f).grids = s.grids := rfl
@[simp] theorem State.modTeam_bents (s : State) (c : BitVec 8) (v : BitVec 16) (f : Team → Team) : (s.modTeam c v f).bents = s.bents := rfl
@[simp] theorem State.modTeam_nextId (s : State) (c : BitVec 8) (v : BitVec 16) (f : Team → Team) : (s.modTeam c v f).nextId = s.nextId := rfl
@[simp] theorem State.modTeam_gridCount (s : State) (c : BitVec 8) (v : BitVec 16) (f : Team → Team) : (s.modTeam c v f).gridCount = s.gridCount := rfl
@[simp] theorem State.modTeam_dieHolds (s : State) (c : BitVec 8) (v : BitVec 16) (f : Team → Team) : (s.modTeam c v f).dieHolds = s.dieHolds := rfl
@[simp] theorem State.modTeam_preHolds (s : State) (c : BitVec 8) (v : BitVec 16) (f : Team → Team) : (s.modTeam c v f).preHolds = s.preHolds := rfl
@[simp] theorem State.modTeam_saveRuns (s : State) (c : BitVec 8) (v : BitVec 16) (f : Team → Team) : (s.modTeam c v f).saveRuns = s.saveRuns := rfl
@[simp] theorem State.modTeam_cores (s : State) (c : BitVec 8) (v : BitVec 16) (f : Team → Team) : (s.modTeam c v f).cores = s.cores := rfl
@[simp] theorem State.modTeam_l2 (s : State) (c : BitVec 8) (v : BitVec 16) (f : Team → Team) : (s.modTeam c v f).l2 = s.l2 := rfl
@[simp] theorem State.modTeam_l2es (s : State) (c : BitVec 8) (v : BitVec 16) (f : Team → Team) : (s.modTeam c v f).l2es = s.l2es := rfl
@[simp] theorem State.modTeam_l2tlb (s : State) (c : BitVec 8) (v : BitVec 16) (f : Team → Team) : (s.modTeam c v f).l2tlb = s.l2tlb := rfl
@[simp] theorem State.modTeam_walkCache (s : State) (c : BitVec 8) (v : BitVec 16) (f : Team → Team) : (s.modTeam c v f).walkCache = s.walkCache := rfl
@[simp] theorem State.modTeam_touches (s : State) (c : BitVec 8) (v : BitVec 16) (f : Team → Team) : (s.modTeam c v f).touches = s.touches := rfl
@[simp] theorem State.modTeam_hot (s : State) (c : BitVec 8) (v : BitVec 16) (f : Team → Team) : (s.modTeam c v f).hot = s.hot := rfl
@[simp] theorem State.modTeam_hotSeq (s : State) (c : BitVec 8) (v : BitVec 16) (f : Team → Team) : (s.modTeam c v f).hotSeq = s.hotSeq := rfl
@[simp] theorem State.modTeam_hotAt (s : State) (c : BitVec 8) (v : BitVec 16) (f : Team → Team) : (s.modTeam c v f).hotAt = s.hotAt := rfl
@[simp] theorem State.modTeam_prTold (s : State) (c : BitVec 8) (v : BitVec 16) (f : Team → Team) : (s.modTeam c v f).prTold = s.prTold := rfl
@[simp] theorem State.modTeam_migrations (s : State) (c : BitVec 8) (v : BitVec 16) (f : Team → Team) : (s.modTeam c v f).migrations = s.migrations := rfl
@[simp] theorem State.modTeam_oldFrames (s : State) (c : BitVec 8) (v : BitVec 16) (f : Team → Team) : (s.modTeam c v f).oldFrames = s.oldFrames := rfl
@[simp] theorem State.modTeam_runs (s : State) (c : BitVec 8) (v : BitVec 16) (f : Team → Team) : (s.modTeam c v f).runs = s.runs := rfl
@[simp] theorem State.modTeam_stackCtls (s : State) (c : BitVec 8) (v : BitVec 16) (f : Team → Team) : (s.modTeam c v f).stackCtls = s.stackCtls := rfl
@[simp] theorem State.modTeam_heldWrites (s : State) (c : BitVec 8) (v : BitVec 16) (f : Team → Team) : (s.modTeam c v f).heldWrites = s.heldWrites := rfl
@[simp] theorem State.modTeam_engines (s : State) (c : BitVec 8) (v : BitVec 16) (f : Team → Team) : (s.modTeam c v f).engines = s.engines := rfl
@[simp] theorem State.modTeam_sysCopies (s : State) (c : BitVec 8) (v : BitVec 16) (f : Team → Team) : (s.modTeam c v f).sysCopies = s.sysCopies := rfl
@[simp] theorem State.modTeam_cinvs (s : State) (c : BitVec 8) (v : BitVec 16) (f : Team → Team) : (s.modTeam c v f).cinvs = s.cinvs := rfl
@[simp] theorem State.modTeam_agenda (s : State) (c : BitVec 8) (v : BitVec 16) (f : Team → Team) : (s.modTeam c v f).agenda = s.agenda := rfl
@[simp] theorem State.modTeam_operand (s : State) (c : BitVec 8) (v : BitVec 16) (f : Team → Team) : (s.modTeam c v f).operand = s.operand := rfl
@[simp] theorem State.modTeam_cur (s : State) (c : BitVec 8) (v : BitVec 16) (f : Team → Team) : (s.modTeam c v f).cur = s.cur := rfl
@[simp] theorem State.modTeam_curSill (s : State) (c : BitVec 8) (v : BitVec 16) (f : Team → Team) : (s.modTeam c v f).curSill = s.curSill := rfl
@[simp] theorem State.modTeam_free (s : State) (c : BitVec 8) (v : BitVec 16) (f : Team → Team) : (s.modTeam c v f).free = s.free := rfl
@[simp] theorem State.modTeam_residueMiss (s : State) (c : BitVec 8) (v : BitVec 16) (f : Team → Team) : (s.modTeam c v f).residueMiss = s.residueMiss := rfl

/-! State.modAnyTeam -/
@[simp] theorem State.modAnyTeam_time (s : State) (c : BitVec 8) (v : BitVec 16) (f : Team → Team) : (s.modAnyTeam c v f).time = s.time := rfl
@[simp] theorem State.modAnyTeam_frac (s : State) (c : BitVec 8) (v : BitVec 16) (f : Team → Team) : (s.modAnyTeam c v f).frac = s.frac := rfl
@[simp] theorem State.modAnyTeam_cycle (s : State) (c : BitVec 8) (v : BitVec 16) (f : Team → Team) : (s.modAnyTeam c v f).cycle = s.cycle := rfl
@[simp] theorem State.modAnyTeam_dieOff (s : State) (c : BitVec 8) (v : BitVec 16) (f : Team → Team) : (s.modAnyTeam c v f).dieOff = s.dieOff := rfl
@[simp] theorem State.modAnyTeam_timeHeld (s : State) (c : BitVec 8) (v : BitVec 16) (f : Team → Team) : (s.modAnyTeam c v f).timeHeld = s.timeHeld := rfl
@[simp] theorem State.modAnyTeam_throttled (s : State) (c : BitVec 8) (v : BitVec 16) (f : Team → Team) : (s.modAnyTeam c v f).throttled = s.throttled := rfl
@[simp] theorem State.modAnyTeam_root (s : State) (c : BitVec 8) (v : BitVec 16) (f : Team → Team) : (s.modAnyTeam c v f).root = s.root := rfl
@[simp] theorem State.modAnyTeam_sent (s : State) (c : BitVec 8) (v : BitVec 16) (f : Team → Team) : (s.modAnyTeam c v f).sent = s.sent := rfl
@[simp] theorem State.modAnyTeam_ports (s : State) (c : BitVec 8) (v : BitVec 16) (f : Team → Team) : (s.modAnyTeam c v f).ports = s.ports := rfl
@[simp] theorem State.modAnyTeam_dieLinks (s : State) (c : BitVec 8) (v : BitVec 16) (f : Team → Team) : (s.modAnyTeam c v f).dieLinks = s.dieLinks := rfl
@[simp] theorem State.modAnyTeam_outstanding (s : State) (c : BitVec 8) (v : BitVec 16) (f : Team → Team) : (s.modAnyTeam c v f).outstanding = s.outstanding := rfl
@[simp] theorem State.modAnyTeam_replies (s : State) (c : BitVec 8) (v : BitVec 16) (f : Team → Team) : (s.modAnyTeam c v f).replies = s.replies := rfl
@[simp] theorem State.modAnyTeam_waiting (s : State) (c : BitVec 8) (v : BitVec 16) (f : Team → Team) : (s.modAnyTeam c v f).waiting = s.waiting := rfl
@[simp] theorem State.modAnyTeam_ridgeErrors (s : State) (c : BitVec 8) (v : BitVec 16) (f : Team → Team) : (s.modAnyTeam c v f).ridgeErrors = s.ridgeErrors := rfl
@[simp] theorem State.modAnyTeam_ridgeDiscards (s : State) (c : BitVec 8) (v : BitVec 16) (f : Team → Team) : (s.modAnyTeam c v f).ridgeDiscards = s.ridgeDiscards := rfl
@[simp] theorem State.modAnyTeam_mem (s : State) (c : BitVec 8) (v : BitVec 16) (f : Team → Team) : (s.modAnyTeam c v f).mem = s.mem := rfl
@[simp] theorem State.modAnyTeam_poison (s : State) (c : BitVec 8) (v : BitVec 16) (f : Team → Team) : (s.modAnyTeam c v f).poison = s.poison := rfl
@[simp] theorem State.modAnyTeam_corrupt (s : State) (c : BitVec 8) (v : BitVec 16) (f : Team → Team) : (s.modAnyTeam c v f).corrupt = s.corrupt := rfl
@[simp] theorem State.modAnyTeam_ident (s : State) (c : BitVec 8) (v : BitVec 16) (f : Team → Team) : (s.modAnyTeam c v f).ident = s.ident := rfl
@[simp] theorem State.modAnyTeam_outbox (s : State) (c : BitVec 8) (v : BitVec 16) (f : Team → Team) : (s.modAnyTeam c v f).outbox = s.outbox := rfl
@[simp] theorem State.modAnyTeam_l2bad (s : State) (c : BitVec 8) (v : BitVec 16) (f : Team → Team) : (s.modAnyTeam c v f).l2bad = s.l2bad := rfl
@[simp] theorem State.modAnyTeam_flaws (s : State) (c : BitVec 8) (v : BitVec 16) (f : Team → Team) : (s.modAnyTeam c v f).flaws = s.flaws := rfl
@[simp] theorem State.modAnyTeam_dcb (s : State) (c : BitVec 8) (v : BitVec 16) (f : Team → Team) : (s.modAnyTeam c v f).dcb = s.dcb := rfl
@[simp] theorem State.modAnyTeam_preempt (s : State) (c : BitVec 8) (v : BitVec 16) (f : Team → Team) : (s.modAnyTeam c v f).preempt = s.preempt := rfl
@[simp] theorem State.modAnyTeam_mcb (s : State) (c : BitVec 8) (v : BitVec 16) (f : Team → Team) : (s.modAnyTeam c v f).mcb = s.mcb := rfl
@[simp] theorem State.modAnyTeam_ctxs (s : State) (c : BitVec 8) (v : BitVec 16) (f : Team → Team) : (s.modAnyTeam c v f).ctxs = s.ctxs := rfl
@[simp] theorem State.modAnyTeam_works (s : State) (c : BitVec 8) (v : BitVec 16) (f : Team → Team) : (s.modAnyTeam c v f).works = s.works := rfl
@[simp] theorem State.modAnyTeam_graphs (s : State) (c : BitVec 8) (v : BitVec 16) (f : Team → Team) : (s.modAnyTeam c v f).graphs = s.graphs := rfl
@[simp] theorem State.modAnyTeam_grids (s : State) (c : BitVec 8) (v : BitVec 16) (f : Team → Team) : (s.modAnyTeam c v f).grids = s.grids := rfl
@[simp] theorem State.modAnyTeam_nextId (s : State) (c : BitVec 8) (v : BitVec 16) (f : Team → Team) : (s.modAnyTeam c v f).nextId = s.nextId := rfl
@[simp] theorem State.modAnyTeam_gridCount (s : State) (c : BitVec 8) (v : BitVec 16) (f : Team → Team) : (s.modAnyTeam c v f).gridCount = s.gridCount := rfl
@[simp] theorem State.modAnyTeam_dieHolds (s : State) (c : BitVec 8) (v : BitVec 16) (f : Team → Team) : (s.modAnyTeam c v f).dieHolds = s.dieHolds := rfl
@[simp] theorem State.modAnyTeam_preHolds (s : State) (c : BitVec 8) (v : BitVec 16) (f : Team → Team) : (s.modAnyTeam c v f).preHolds = s.preHolds := rfl
@[simp] theorem State.modAnyTeam_saveRuns (s : State) (c : BitVec 8) (v : BitVec 16) (f : Team → Team) : (s.modAnyTeam c v f).saveRuns = s.saveRuns := rfl
@[simp] theorem State.modAnyTeam_cores (s : State) (c : BitVec 8) (v : BitVec 16) (f : Team → Team) : (s.modAnyTeam c v f).cores = s.cores := rfl
@[simp] theorem State.modAnyTeam_l2 (s : State) (c : BitVec 8) (v : BitVec 16) (f : Team → Team) : (s.modAnyTeam c v f).l2 = s.l2 := rfl
@[simp] theorem State.modAnyTeam_l2es (s : State) (c : BitVec 8) (v : BitVec 16) (f : Team → Team) : (s.modAnyTeam c v f).l2es = s.l2es := rfl
@[simp] theorem State.modAnyTeam_l2tlb (s : State) (c : BitVec 8) (v : BitVec 16) (f : Team → Team) : (s.modAnyTeam c v f).l2tlb = s.l2tlb := rfl
@[simp] theorem State.modAnyTeam_walkCache (s : State) (c : BitVec 8) (v : BitVec 16) (f : Team → Team) : (s.modAnyTeam c v f).walkCache = s.walkCache := rfl
@[simp] theorem State.modAnyTeam_touches (s : State) (c : BitVec 8) (v : BitVec 16) (f : Team → Team) : (s.modAnyTeam c v f).touches = s.touches := rfl
@[simp] theorem State.modAnyTeam_hot (s : State) (c : BitVec 8) (v : BitVec 16) (f : Team → Team) : (s.modAnyTeam c v f).hot = s.hot := rfl
@[simp] theorem State.modAnyTeam_hotSeq (s : State) (c : BitVec 8) (v : BitVec 16) (f : Team → Team) : (s.modAnyTeam c v f).hotSeq = s.hotSeq := rfl
@[simp] theorem State.modAnyTeam_hotAt (s : State) (c : BitVec 8) (v : BitVec 16) (f : Team → Team) : (s.modAnyTeam c v f).hotAt = s.hotAt := rfl
@[simp] theorem State.modAnyTeam_prTold (s : State) (c : BitVec 8) (v : BitVec 16) (f : Team → Team) : (s.modAnyTeam c v f).prTold = s.prTold := rfl
@[simp] theorem State.modAnyTeam_migrations (s : State) (c : BitVec 8) (v : BitVec 16) (f : Team → Team) : (s.modAnyTeam c v f).migrations = s.migrations := rfl
@[simp] theorem State.modAnyTeam_oldFrames (s : State) (c : BitVec 8) (v : BitVec 16) (f : Team → Team) : (s.modAnyTeam c v f).oldFrames = s.oldFrames := rfl
@[simp] theorem State.modAnyTeam_runs (s : State) (c : BitVec 8) (v : BitVec 16) (f : Team → Team) : (s.modAnyTeam c v f).runs = s.runs := rfl
@[simp] theorem State.modAnyTeam_stackCtls (s : State) (c : BitVec 8) (v : BitVec 16) (f : Team → Team) : (s.modAnyTeam c v f).stackCtls = s.stackCtls := rfl
@[simp] theorem State.modAnyTeam_heldWrites (s : State) (c : BitVec 8) (v : BitVec 16) (f : Team → Team) : (s.modAnyTeam c v f).heldWrites = s.heldWrites := rfl
@[simp] theorem State.modAnyTeam_engines (s : State) (c : BitVec 8) (v : BitVec 16) (f : Team → Team) : (s.modAnyTeam c v f).engines = s.engines := rfl
@[simp] theorem State.modAnyTeam_sysCopies (s : State) (c : BitVec 8) (v : BitVec 16) (f : Team → Team) : (s.modAnyTeam c v f).sysCopies = s.sysCopies := rfl
@[simp] theorem State.modAnyTeam_cinvs (s : State) (c : BitVec 8) (v : BitVec 16) (f : Team → Team) : (s.modAnyTeam c v f).cinvs = s.cinvs := rfl
@[simp] theorem State.modAnyTeam_agenda (s : State) (c : BitVec 8) (v : BitVec 16) (f : Team → Team) : (s.modAnyTeam c v f).agenda = s.agenda := rfl
@[simp] theorem State.modAnyTeam_operand (s : State) (c : BitVec 8) (v : BitVec 16) (f : Team → Team) : (s.modAnyTeam c v f).operand = s.operand := rfl
@[simp] theorem State.modAnyTeam_cur (s : State) (c : BitVec 8) (v : BitVec 16) (f : Team → Team) : (s.modAnyTeam c v f).cur = s.cur := rfl
@[simp] theorem State.modAnyTeam_curSill (s : State) (c : BitVec 8) (v : BitVec 16) (f : Team → Team) : (s.modAnyTeam c v f).curSill = s.curSill := rfl
@[simp] theorem State.modAnyTeam_free (s : State) (c : BitVec 8) (v : BitVec 16) (f : Team → Team) : (s.modAnyTeam c v f).free = s.free := rfl
@[simp] theorem State.modAnyTeam_residueMiss (s : State) (c : BitVec 8) (v : BitVec 16) (f : Team → Team) : (s.modAnyTeam c v f).residueMiss = s.residueMiss := rfl

/-! State.modGroup -/
@[simp] theorem State.modGroup_time (s : State) (r : GroupRef) (f : Group → Group) : (s.modGroup r f).time = s.time := rfl
@[simp] theorem State.modGroup_frac (s : State) (r : GroupRef) (f : Group → Group) : (s.modGroup r f).frac = s.frac := rfl
@[simp] theorem State.modGroup_cycle (s : State) (r : GroupRef) (f : Group → Group) : (s.modGroup r f).cycle = s.cycle := rfl
@[simp] theorem State.modGroup_dieOff (s : State) (r : GroupRef) (f : Group → Group) : (s.modGroup r f).dieOff = s.dieOff := rfl
@[simp] theorem State.modGroup_timeHeld (s : State) (r : GroupRef) (f : Group → Group) : (s.modGroup r f).timeHeld = s.timeHeld := rfl
@[simp] theorem State.modGroup_throttled (s : State) (r : GroupRef) (f : Group → Group) : (s.modGroup r f).throttled = s.throttled := rfl
@[simp] theorem State.modGroup_root (s : State) (r : GroupRef) (f : Group → Group) : (s.modGroup r f).root = s.root := rfl
@[simp] theorem State.modGroup_sent (s : State) (r : GroupRef) (f : Group → Group) : (s.modGroup r f).sent = s.sent := rfl
@[simp] theorem State.modGroup_ports (s : State) (r : GroupRef) (f : Group → Group) : (s.modGroup r f).ports = s.ports := rfl
@[simp] theorem State.modGroup_dieLinks (s : State) (r : GroupRef) (f : Group → Group) : (s.modGroup r f).dieLinks = s.dieLinks := rfl
@[simp] theorem State.modGroup_outstanding (s : State) (r : GroupRef) (f : Group → Group) : (s.modGroup r f).outstanding = s.outstanding := rfl
@[simp] theorem State.modGroup_replies (s : State) (r : GroupRef) (f : Group → Group) : (s.modGroup r f).replies = s.replies := rfl
@[simp] theorem State.modGroup_waiting (s : State) (r : GroupRef) (f : Group → Group) : (s.modGroup r f).waiting = s.waiting := rfl
@[simp] theorem State.modGroup_ridgeErrors (s : State) (r : GroupRef) (f : Group → Group) : (s.modGroup r f).ridgeErrors = s.ridgeErrors := rfl
@[simp] theorem State.modGroup_ridgeDiscards (s : State) (r : GroupRef) (f : Group → Group) : (s.modGroup r f).ridgeDiscards = s.ridgeDiscards := rfl
@[simp] theorem State.modGroup_mem (s : State) (r : GroupRef) (f : Group → Group) : (s.modGroup r f).mem = s.mem := rfl
@[simp] theorem State.modGroup_poison (s : State) (r : GroupRef) (f : Group → Group) : (s.modGroup r f).poison = s.poison := rfl
@[simp] theorem State.modGroup_corrupt (s : State) (r : GroupRef) (f : Group → Group) : (s.modGroup r f).corrupt = s.corrupt := rfl
@[simp] theorem State.modGroup_ident (s : State) (r : GroupRef) (f : Group → Group) : (s.modGroup r f).ident = s.ident := rfl
@[simp] theorem State.modGroup_outbox (s : State) (r : GroupRef) (f : Group → Group) : (s.modGroup r f).outbox = s.outbox := rfl
@[simp] theorem State.modGroup_l2bad (s : State) (r : GroupRef) (f : Group → Group) : (s.modGroup r f).l2bad = s.l2bad := rfl
@[simp] theorem State.modGroup_flaws (s : State) (r : GroupRef) (f : Group → Group) : (s.modGroup r f).flaws = s.flaws := rfl
@[simp] theorem State.modGroup_dcb (s : State) (r : GroupRef) (f : Group → Group) : (s.modGroup r f).dcb = s.dcb := rfl
@[simp] theorem State.modGroup_preempt (s : State) (r : GroupRef) (f : Group → Group) : (s.modGroup r f).preempt = s.preempt := rfl
@[simp] theorem State.modGroup_mcb (s : State) (r : GroupRef) (f : Group → Group) : (s.modGroup r f).mcb = s.mcb := rfl
@[simp] theorem State.modGroup_ctxs (s : State) (r : GroupRef) (f : Group → Group) : (s.modGroup r f).ctxs = s.ctxs := rfl
@[simp] theorem State.modGroup_works (s : State) (r : GroupRef) (f : Group → Group) : (s.modGroup r f).works = s.works := rfl
@[simp] theorem State.modGroup_graphs (s : State) (r : GroupRef) (f : Group → Group) : (s.modGroup r f).graphs = s.graphs := rfl
@[simp] theorem State.modGroup_grids (s : State) (r : GroupRef) (f : Group → Group) : (s.modGroup r f).grids = s.grids := rfl
@[simp] theorem State.modGroup_bents (s : State) (r : GroupRef) (f : Group → Group) : (s.modGroup r f).bents = s.bents := rfl
@[simp] theorem State.modGroup_nextId (s : State) (r : GroupRef) (f : Group → Group) : (s.modGroup r f).nextId = s.nextId := rfl
@[simp] theorem State.modGroup_gridCount (s : State) (r : GroupRef) (f : Group → Group) : (s.modGroup r f).gridCount = s.gridCount := rfl
@[simp] theorem State.modGroup_dieHolds (s : State) (r : GroupRef) (f : Group → Group) : (s.modGroup r f).dieHolds = s.dieHolds := rfl
@[simp] theorem State.modGroup_preHolds (s : State) (r : GroupRef) (f : Group → Group) : (s.modGroup r f).preHolds = s.preHolds := rfl
@[simp] theorem State.modGroup_saveRuns (s : State) (r : GroupRef) (f : Group → Group) : (s.modGroup r f).saveRuns = s.saveRuns := rfl
@[simp] theorem State.modGroup_cores (s : State) (r : GroupRef) (f : Group → Group) : (s.modGroup r f).cores = s.cores := rfl
@[simp] theorem State.modGroup_l2 (s : State) (r : GroupRef) (f : Group → Group) : (s.modGroup r f).l2 = s.l2 := rfl
@[simp] theorem State.modGroup_l2es (s : State) (r : GroupRef) (f : Group → Group) : (s.modGroup r f).l2es = s.l2es := rfl
@[simp] theorem State.modGroup_l2tlb (s : State) (r : GroupRef) (f : Group → Group) : (s.modGroup r f).l2tlb = s.l2tlb := rfl
@[simp] theorem State.modGroup_walkCache (s : State) (r : GroupRef) (f : Group → Group) : (s.modGroup r f).walkCache = s.walkCache := rfl
@[simp] theorem State.modGroup_touches (s : State) (r : GroupRef) (f : Group → Group) : (s.modGroup r f).touches = s.touches := rfl
@[simp] theorem State.modGroup_hot (s : State) (r : GroupRef) (f : Group → Group) : (s.modGroup r f).hot = s.hot := rfl
@[simp] theorem State.modGroup_hotSeq (s : State) (r : GroupRef) (f : Group → Group) : (s.modGroup r f).hotSeq = s.hotSeq := rfl
@[simp] theorem State.modGroup_hotAt (s : State) (r : GroupRef) (f : Group → Group) : (s.modGroup r f).hotAt = s.hotAt := rfl
@[simp] theorem State.modGroup_prTold (s : State) (r : GroupRef) (f : Group → Group) : (s.modGroup r f).prTold = s.prTold := rfl
@[simp] theorem State.modGroup_migrations (s : State) (r : GroupRef) (f : Group → Group) : (s.modGroup r f).migrations = s.migrations := rfl
@[simp] theorem State.modGroup_oldFrames (s : State) (r : GroupRef) (f : Group → Group) : (s.modGroup r f).oldFrames = s.oldFrames := rfl
@[simp] theorem State.modGroup_runs (s : State) (r : GroupRef) (f : Group → Group) : (s.modGroup r f).runs = s.runs := rfl
@[simp] theorem State.modGroup_stackCtls (s : State) (r : GroupRef) (f : Group → Group) : (s.modGroup r f).stackCtls = s.stackCtls := rfl
@[simp] theorem State.modGroup_heldWrites (s : State) (r : GroupRef) (f : Group → Group) : (s.modGroup r f).heldWrites = s.heldWrites := rfl
@[simp] theorem State.modGroup_engines (s : State) (r : GroupRef) (f : Group → Group) : (s.modGroup r f).engines = s.engines := rfl
@[simp] theorem State.modGroup_sysCopies (s : State) (r : GroupRef) (f : Group → Group) : (s.modGroup r f).sysCopies = s.sysCopies := rfl
@[simp] theorem State.modGroup_cinvs (s : State) (r : GroupRef) (f : Group → Group) : (s.modGroup r f).cinvs = s.cinvs := rfl
@[simp] theorem State.modGroup_agenda (s : State) (r : GroupRef) (f : Group → Group) : (s.modGroup r f).agenda = s.agenda := rfl
@[simp] theorem State.modGroup_operand (s : State) (r : GroupRef) (f : Group → Group) : (s.modGroup r f).operand = s.operand := rfl
@[simp] theorem State.modGroup_cur (s : State) (r : GroupRef) (f : Group → Group) : (s.modGroup r f).cur = s.cur := rfl
@[simp] theorem State.modGroup_curSill (s : State) (r : GroupRef) (f : Group → Group) : (s.modGroup r f).curSill = s.curSill := rfl
@[simp] theorem State.modGroup_free (s : State) (r : GroupRef) (f : Group → Group) : (s.modGroup r f).free = s.free := rfl
@[simp] theorem State.modGroup_residueMiss (s : State) (r : GroupRef) (f : Group → Group) : (s.modGroup r f).residueMiss = s.residueMiss := rfl

/-! State.modStrand -/
@[simp] theorem State.modStrand_time (s : State) (r : StrandRef) (f : Strand → Strand) : (s.modStrand r f).time = s.time := rfl
@[simp] theorem State.modStrand_frac (s : State) (r : StrandRef) (f : Strand → Strand) : (s.modStrand r f).frac = s.frac := rfl
@[simp] theorem State.modStrand_cycle (s : State) (r : StrandRef) (f : Strand → Strand) : (s.modStrand r f).cycle = s.cycle := rfl
@[simp] theorem State.modStrand_dieOff (s : State) (r : StrandRef) (f : Strand → Strand) : (s.modStrand r f).dieOff = s.dieOff := rfl
@[simp] theorem State.modStrand_timeHeld (s : State) (r : StrandRef) (f : Strand → Strand) : (s.modStrand r f).timeHeld = s.timeHeld := rfl
@[simp] theorem State.modStrand_throttled (s : State) (r : StrandRef) (f : Strand → Strand) : (s.modStrand r f).throttled = s.throttled := rfl
@[simp] theorem State.modStrand_root (s : State) (r : StrandRef) (f : Strand → Strand) : (s.modStrand r f).root = s.root := rfl
@[simp] theorem State.modStrand_sent (s : State) (r : StrandRef) (f : Strand → Strand) : (s.modStrand r f).sent = s.sent := rfl
@[simp] theorem State.modStrand_ports (s : State) (r : StrandRef) (f : Strand → Strand) : (s.modStrand r f).ports = s.ports := rfl
@[simp] theorem State.modStrand_dieLinks (s : State) (r : StrandRef) (f : Strand → Strand) : (s.modStrand r f).dieLinks = s.dieLinks := rfl
@[simp] theorem State.modStrand_outstanding (s : State) (r : StrandRef) (f : Strand → Strand) : (s.modStrand r f).outstanding = s.outstanding := rfl
@[simp] theorem State.modStrand_replies (s : State) (r : StrandRef) (f : Strand → Strand) : (s.modStrand r f).replies = s.replies := rfl
@[simp] theorem State.modStrand_waiting (s : State) (r : StrandRef) (f : Strand → Strand) : (s.modStrand r f).waiting = s.waiting := rfl
@[simp] theorem State.modStrand_ridgeErrors (s : State) (r : StrandRef) (f : Strand → Strand) : (s.modStrand r f).ridgeErrors = s.ridgeErrors := rfl
@[simp] theorem State.modStrand_ridgeDiscards (s : State) (r : StrandRef) (f : Strand → Strand) : (s.modStrand r f).ridgeDiscards = s.ridgeDiscards := rfl
@[simp] theorem State.modStrand_mem (s : State) (r : StrandRef) (f : Strand → Strand) : (s.modStrand r f).mem = s.mem := rfl
@[simp] theorem State.modStrand_poison (s : State) (r : StrandRef) (f : Strand → Strand) : (s.modStrand r f).poison = s.poison := rfl
@[simp] theorem State.modStrand_corrupt (s : State) (r : StrandRef) (f : Strand → Strand) : (s.modStrand r f).corrupt = s.corrupt := rfl
@[simp] theorem State.modStrand_ident (s : State) (r : StrandRef) (f : Strand → Strand) : (s.modStrand r f).ident = s.ident := rfl
@[simp] theorem State.modStrand_outbox (s : State) (r : StrandRef) (f : Strand → Strand) : (s.modStrand r f).outbox = s.outbox := rfl
@[simp] theorem State.modStrand_l2bad (s : State) (r : StrandRef) (f : Strand → Strand) : (s.modStrand r f).l2bad = s.l2bad := rfl
@[simp] theorem State.modStrand_flaws (s : State) (r : StrandRef) (f : Strand → Strand) : (s.modStrand r f).flaws = s.flaws := rfl
@[simp] theorem State.modStrand_dcb (s : State) (r : StrandRef) (f : Strand → Strand) : (s.modStrand r f).dcb = s.dcb := rfl
@[simp] theorem State.modStrand_preempt (s : State) (r : StrandRef) (f : Strand → Strand) : (s.modStrand r f).preempt = s.preempt := rfl
@[simp] theorem State.modStrand_mcb (s : State) (r : StrandRef) (f : Strand → Strand) : (s.modStrand r f).mcb = s.mcb := rfl
@[simp] theorem State.modStrand_ctxs (s : State) (r : StrandRef) (f : Strand → Strand) : (s.modStrand r f).ctxs = s.ctxs := rfl
@[simp] theorem State.modStrand_works (s : State) (r : StrandRef) (f : Strand → Strand) : (s.modStrand r f).works = s.works := rfl
@[simp] theorem State.modStrand_graphs (s : State) (r : StrandRef) (f : Strand → Strand) : (s.modStrand r f).graphs = s.graphs := rfl
@[simp] theorem State.modStrand_grids (s : State) (r : StrandRef) (f : Strand → Strand) : (s.modStrand r f).grids = s.grids := rfl
@[simp] theorem State.modStrand_bents (s : State) (r : StrandRef) (f : Strand → Strand) : (s.modStrand r f).bents = s.bents := rfl
@[simp] theorem State.modStrand_nextId (s : State) (r : StrandRef) (f : Strand → Strand) : (s.modStrand r f).nextId = s.nextId := rfl
@[simp] theorem State.modStrand_gridCount (s : State) (r : StrandRef) (f : Strand → Strand) : (s.modStrand r f).gridCount = s.gridCount := rfl
@[simp] theorem State.modStrand_dieHolds (s : State) (r : StrandRef) (f : Strand → Strand) : (s.modStrand r f).dieHolds = s.dieHolds := rfl
@[simp] theorem State.modStrand_preHolds (s : State) (r : StrandRef) (f : Strand → Strand) : (s.modStrand r f).preHolds = s.preHolds := rfl
@[simp] theorem State.modStrand_saveRuns (s : State) (r : StrandRef) (f : Strand → Strand) : (s.modStrand r f).saveRuns = s.saveRuns := rfl
@[simp] theorem State.modStrand_cores (s : State) (r : StrandRef) (f : Strand → Strand) : (s.modStrand r f).cores = s.cores := rfl
@[simp] theorem State.modStrand_l2 (s : State) (r : StrandRef) (f : Strand → Strand) : (s.modStrand r f).l2 = s.l2 := rfl
@[simp] theorem State.modStrand_l2es (s : State) (r : StrandRef) (f : Strand → Strand) : (s.modStrand r f).l2es = s.l2es := rfl
@[simp] theorem State.modStrand_l2tlb (s : State) (r : StrandRef) (f : Strand → Strand) : (s.modStrand r f).l2tlb = s.l2tlb := rfl
@[simp] theorem State.modStrand_walkCache (s : State) (r : StrandRef) (f : Strand → Strand) : (s.modStrand r f).walkCache = s.walkCache := rfl
@[simp] theorem State.modStrand_touches (s : State) (r : StrandRef) (f : Strand → Strand) : (s.modStrand r f).touches = s.touches := rfl
@[simp] theorem State.modStrand_hot (s : State) (r : StrandRef) (f : Strand → Strand) : (s.modStrand r f).hot = s.hot := rfl
@[simp] theorem State.modStrand_hotSeq (s : State) (r : StrandRef) (f : Strand → Strand) : (s.modStrand r f).hotSeq = s.hotSeq := rfl
@[simp] theorem State.modStrand_hotAt (s : State) (r : StrandRef) (f : Strand → Strand) : (s.modStrand r f).hotAt = s.hotAt := rfl
@[simp] theorem State.modStrand_prTold (s : State) (r : StrandRef) (f : Strand → Strand) : (s.modStrand r f).prTold = s.prTold := rfl
@[simp] theorem State.modStrand_migrations (s : State) (r : StrandRef) (f : Strand → Strand) : (s.modStrand r f).migrations = s.migrations := rfl
@[simp] theorem State.modStrand_oldFrames (s : State) (r : StrandRef) (f : Strand → Strand) : (s.modStrand r f).oldFrames = s.oldFrames := rfl
@[simp] theorem State.modStrand_runs (s : State) (r : StrandRef) (f : Strand → Strand) : (s.modStrand r f).runs = s.runs := rfl
@[simp] theorem State.modStrand_stackCtls (s : State) (r : StrandRef) (f : Strand → Strand) : (s.modStrand r f).stackCtls = s.stackCtls := rfl
@[simp] theorem State.modStrand_heldWrites (s : State) (r : StrandRef) (f : Strand → Strand) : (s.modStrand r f).heldWrites = s.heldWrites := rfl
@[simp] theorem State.modStrand_engines (s : State) (r : StrandRef) (f : Strand → Strand) : (s.modStrand r f).engines = s.engines := rfl
@[simp] theorem State.modStrand_sysCopies (s : State) (r : StrandRef) (f : Strand → Strand) : (s.modStrand r f).sysCopies = s.sysCopies := rfl
@[simp] theorem State.modStrand_cinvs (s : State) (r : StrandRef) (f : Strand → Strand) : (s.modStrand r f).cinvs = s.cinvs := rfl
@[simp] theorem State.modStrand_agenda (s : State) (r : StrandRef) (f : Strand → Strand) : (s.modStrand r f).agenda = s.agenda := rfl
@[simp] theorem State.modStrand_operand (s : State) (r : StrandRef) (f : Strand → Strand) : (s.modStrand r f).operand = s.operand := rfl
@[simp] theorem State.modStrand_cur (s : State) (r : StrandRef) (f : Strand → Strand) : (s.modStrand r f).cur = s.cur := rfl
@[simp] theorem State.modStrand_curSill (s : State) (r : StrandRef) (f : Strand → Strand) : (s.modStrand r f).curSill = s.curSill := rfl
@[simp] theorem State.modStrand_free (s : State) (r : StrandRef) (f : Strand → Strand) : (s.modStrand r f).free = s.free := rfl
@[simp] theorem State.modStrand_residueMiss (s : State) (r : StrandRef) (f : Strand → Strand) : (s.modStrand r f).residueMiss = s.residueMiss := rfl

/-! State.modCtx -/
@[simp] theorem State.modCtx_time (s : State) (c : BitVec 8) (f : Ctx → Ctx) : (s.modCtx c f).time = s.time := rfl
@[simp] theorem State.modCtx_frac (s : State) (c : BitVec 8) (f : Ctx → Ctx) : (s.modCtx c f).frac = s.frac := rfl
@[simp] theorem State.modCtx_cycle (s : State) (c : BitVec 8) (f : Ctx → Ctx) : (s.modCtx c f).cycle = s.cycle := rfl
@[simp] theorem State.modCtx_dieOff (s : State) (c : BitVec 8) (f : Ctx → Ctx) : (s.modCtx c f).dieOff = s.dieOff := rfl
@[simp] theorem State.modCtx_timeHeld (s : State) (c : BitVec 8) (f : Ctx → Ctx) : (s.modCtx c f).timeHeld = s.timeHeld := rfl
@[simp] theorem State.modCtx_throttled (s : State) (c : BitVec 8) (f : Ctx → Ctx) : (s.modCtx c f).throttled = s.throttled := rfl
@[simp] theorem State.modCtx_root (s : State) (c : BitVec 8) (f : Ctx → Ctx) : (s.modCtx c f).root = s.root := rfl
@[simp] theorem State.modCtx_sent (s : State) (c : BitVec 8) (f : Ctx → Ctx) : (s.modCtx c f).sent = s.sent := rfl
@[simp] theorem State.modCtx_ports (s : State) (c : BitVec 8) (f : Ctx → Ctx) : (s.modCtx c f).ports = s.ports := rfl
@[simp] theorem State.modCtx_dieLinks (s : State) (c : BitVec 8) (f : Ctx → Ctx) : (s.modCtx c f).dieLinks = s.dieLinks := rfl
@[simp] theorem State.modCtx_outstanding (s : State) (c : BitVec 8) (f : Ctx → Ctx) : (s.modCtx c f).outstanding = s.outstanding := rfl
@[simp] theorem State.modCtx_replies (s : State) (c : BitVec 8) (f : Ctx → Ctx) : (s.modCtx c f).replies = s.replies := rfl
@[simp] theorem State.modCtx_waiting (s : State) (c : BitVec 8) (f : Ctx → Ctx) : (s.modCtx c f).waiting = s.waiting := rfl
@[simp] theorem State.modCtx_ridgeErrors (s : State) (c : BitVec 8) (f : Ctx → Ctx) : (s.modCtx c f).ridgeErrors = s.ridgeErrors := rfl
@[simp] theorem State.modCtx_ridgeDiscards (s : State) (c : BitVec 8) (f : Ctx → Ctx) : (s.modCtx c f).ridgeDiscards = s.ridgeDiscards := rfl
@[simp] theorem State.modCtx_mem (s : State) (c : BitVec 8) (f : Ctx → Ctx) : (s.modCtx c f).mem = s.mem := rfl
@[simp] theorem State.modCtx_poison (s : State) (c : BitVec 8) (f : Ctx → Ctx) : (s.modCtx c f).poison = s.poison := rfl
@[simp] theorem State.modCtx_corrupt (s : State) (c : BitVec 8) (f : Ctx → Ctx) : (s.modCtx c f).corrupt = s.corrupt := rfl
@[simp] theorem State.modCtx_ident (s : State) (c : BitVec 8) (f : Ctx → Ctx) : (s.modCtx c f).ident = s.ident := rfl
@[simp] theorem State.modCtx_outbox (s : State) (c : BitVec 8) (f : Ctx → Ctx) : (s.modCtx c f).outbox = s.outbox := rfl
@[simp] theorem State.modCtx_l2bad (s : State) (c : BitVec 8) (f : Ctx → Ctx) : (s.modCtx c f).l2bad = s.l2bad := rfl
@[simp] theorem State.modCtx_flaws (s : State) (c : BitVec 8) (f : Ctx → Ctx) : (s.modCtx c f).flaws = s.flaws := rfl
@[simp] theorem State.modCtx_dcb (s : State) (c : BitVec 8) (f : Ctx → Ctx) : (s.modCtx c f).dcb = s.dcb := rfl
@[simp] theorem State.modCtx_preempt (s : State) (c : BitVec 8) (f : Ctx → Ctx) : (s.modCtx c f).preempt = s.preempt := rfl
@[simp] theorem State.modCtx_mcb (s : State) (c : BitVec 8) (f : Ctx → Ctx) : (s.modCtx c f).mcb = s.mcb := rfl
@[simp] theorem State.modCtx_works (s : State) (c : BitVec 8) (f : Ctx → Ctx) : (s.modCtx c f).works = s.works := rfl
@[simp] theorem State.modCtx_graphs (s : State) (c : BitVec 8) (f : Ctx → Ctx) : (s.modCtx c f).graphs = s.graphs := rfl
@[simp] theorem State.modCtx_grids (s : State) (c : BitVec 8) (f : Ctx → Ctx) : (s.modCtx c f).grids = s.grids := rfl
@[simp] theorem State.modCtx_bents (s : State) (c : BitVec 8) (f : Ctx → Ctx) : (s.modCtx c f).bents = s.bents := rfl
@[simp] theorem State.modCtx_nextId (s : State) (c : BitVec 8) (f : Ctx → Ctx) : (s.modCtx c f).nextId = s.nextId := rfl
@[simp] theorem State.modCtx_gridCount (s : State) (c : BitVec 8) (f : Ctx → Ctx) : (s.modCtx c f).gridCount = s.gridCount := rfl
@[simp] theorem State.modCtx_dieHolds (s : State) (c : BitVec 8) (f : Ctx → Ctx) : (s.modCtx c f).dieHolds = s.dieHolds := rfl
@[simp] theorem State.modCtx_preHolds (s : State) (c : BitVec 8) (f : Ctx → Ctx) : (s.modCtx c f).preHolds = s.preHolds := rfl
@[simp] theorem State.modCtx_saveRuns (s : State) (c : BitVec 8) (f : Ctx → Ctx) : (s.modCtx c f).saveRuns = s.saveRuns := rfl
@[simp] theorem State.modCtx_cores (s : State) (c : BitVec 8) (f : Ctx → Ctx) : (s.modCtx c f).cores = s.cores := rfl
@[simp] theorem State.modCtx_l2 (s : State) (c : BitVec 8) (f : Ctx → Ctx) : (s.modCtx c f).l2 = s.l2 := rfl
@[simp] theorem State.modCtx_l2es (s : State) (c : BitVec 8) (f : Ctx → Ctx) : (s.modCtx c f).l2es = s.l2es := rfl
@[simp] theorem State.modCtx_l2tlb (s : State) (c : BitVec 8) (f : Ctx → Ctx) : (s.modCtx c f).l2tlb = s.l2tlb := rfl
@[simp] theorem State.modCtx_walkCache (s : State) (c : BitVec 8) (f : Ctx → Ctx) : (s.modCtx c f).walkCache = s.walkCache := rfl
@[simp] theorem State.modCtx_touches (s : State) (c : BitVec 8) (f : Ctx → Ctx) : (s.modCtx c f).touches = s.touches := rfl
@[simp] theorem State.modCtx_hot (s : State) (c : BitVec 8) (f : Ctx → Ctx) : (s.modCtx c f).hot = s.hot := rfl
@[simp] theorem State.modCtx_hotSeq (s : State) (c : BitVec 8) (f : Ctx → Ctx) : (s.modCtx c f).hotSeq = s.hotSeq := rfl
@[simp] theorem State.modCtx_hotAt (s : State) (c : BitVec 8) (f : Ctx → Ctx) : (s.modCtx c f).hotAt = s.hotAt := rfl
@[simp] theorem State.modCtx_prTold (s : State) (c : BitVec 8) (f : Ctx → Ctx) : (s.modCtx c f).prTold = s.prTold := rfl
@[simp] theorem State.modCtx_migrations (s : State) (c : BitVec 8) (f : Ctx → Ctx) : (s.modCtx c f).migrations = s.migrations := rfl
@[simp] theorem State.modCtx_oldFrames (s : State) (c : BitVec 8) (f : Ctx → Ctx) : (s.modCtx c f).oldFrames = s.oldFrames := rfl
@[simp] theorem State.modCtx_runs (s : State) (c : BitVec 8) (f : Ctx → Ctx) : (s.modCtx c f).runs = s.runs := rfl
@[simp] theorem State.modCtx_stackCtls (s : State) (c : BitVec 8) (f : Ctx → Ctx) : (s.modCtx c f).stackCtls = s.stackCtls := rfl
@[simp] theorem State.modCtx_heldWrites (s : State) (c : BitVec 8) (f : Ctx → Ctx) : (s.modCtx c f).heldWrites = s.heldWrites := rfl
@[simp] theorem State.modCtx_engines (s : State) (c : BitVec 8) (f : Ctx → Ctx) : (s.modCtx c f).engines = s.engines := rfl
@[simp] theorem State.modCtx_sysCopies (s : State) (c : BitVec 8) (f : Ctx → Ctx) : (s.modCtx c f).sysCopies = s.sysCopies := rfl
@[simp] theorem State.modCtx_cinvs (s : State) (c : BitVec 8) (f : Ctx → Ctx) : (s.modCtx c f).cinvs = s.cinvs := rfl
@[simp] theorem State.modCtx_teams (s : State) (c : BitVec 8) (f : Ctx → Ctx) : (s.modCtx c f).teams = s.teams := rfl
@[simp] theorem State.modCtx_agenda (s : State) (c : BitVec 8) (f : Ctx → Ctx) : (s.modCtx c f).agenda = s.agenda := rfl
@[simp] theorem State.modCtx_operand (s : State) (c : BitVec 8) (f : Ctx → Ctx) : (s.modCtx c f).operand = s.operand := rfl
@[simp] theorem State.modCtx_cur (s : State) (c : BitVec 8) (f : Ctx → Ctx) : (s.modCtx c f).cur = s.cur := rfl
@[simp] theorem State.modCtx_curSill (s : State) (c : BitVec 8) (f : Ctx → Ctx) : (s.modCtx c f).curSill = s.curSill := rfl
@[simp] theorem State.modCtx_free (s : State) (c : BitVec 8) (f : Ctx → Ctx) : (s.modCtx c f).free = s.free := rfl
@[simp] theorem State.modCtx_residueMiss (s : State) (c : BitVec 8) (f : Ctx → Ctx) : (s.modCtx c f).residueMiss = s.residueMiss := rfl

/-! State.modBent -/
@[simp] theorem State.modBent_time (s : State) (n : Nat) (f : Bent → Bent) : (s.modBent n f).time = s.time := rfl
@[simp] theorem State.modBent_frac (s : State) (n : Nat) (f : Bent → Bent) : (s.modBent n f).frac = s.frac := rfl
@[simp] theorem State.modBent_cycle (s : State) (n : Nat) (f : Bent → Bent) : (s.modBent n f).cycle = s.cycle := rfl
@[simp] theorem State.modBent_dieOff (s : State) (n : Nat) (f : Bent → Bent) : (s.modBent n f).dieOff = s.dieOff := rfl
@[simp] theorem State.modBent_timeHeld (s : State) (n : Nat) (f : Bent → Bent) : (s.modBent n f).timeHeld = s.timeHeld := rfl
@[simp] theorem State.modBent_throttled (s : State) (n : Nat) (f : Bent → Bent) : (s.modBent n f).throttled = s.throttled := rfl
@[simp] theorem State.modBent_root (s : State) (n : Nat) (f : Bent → Bent) : (s.modBent n f).root = s.root := rfl
@[simp] theorem State.modBent_sent (s : State) (n : Nat) (f : Bent → Bent) : (s.modBent n f).sent = s.sent := rfl
@[simp] theorem State.modBent_ports (s : State) (n : Nat) (f : Bent → Bent) : (s.modBent n f).ports = s.ports := rfl
@[simp] theorem State.modBent_dieLinks (s : State) (n : Nat) (f : Bent → Bent) : (s.modBent n f).dieLinks = s.dieLinks := rfl
@[simp] theorem State.modBent_outstanding (s : State) (n : Nat) (f : Bent → Bent) : (s.modBent n f).outstanding = s.outstanding := rfl
@[simp] theorem State.modBent_replies (s : State) (n : Nat) (f : Bent → Bent) : (s.modBent n f).replies = s.replies := rfl
@[simp] theorem State.modBent_waiting (s : State) (n : Nat) (f : Bent → Bent) : (s.modBent n f).waiting = s.waiting := rfl
@[simp] theorem State.modBent_ridgeErrors (s : State) (n : Nat) (f : Bent → Bent) : (s.modBent n f).ridgeErrors = s.ridgeErrors := rfl
@[simp] theorem State.modBent_ridgeDiscards (s : State) (n : Nat) (f : Bent → Bent) : (s.modBent n f).ridgeDiscards = s.ridgeDiscards := rfl
@[simp] theorem State.modBent_mem (s : State) (n : Nat) (f : Bent → Bent) : (s.modBent n f).mem = s.mem := rfl
@[simp] theorem State.modBent_poison (s : State) (n : Nat) (f : Bent → Bent) : (s.modBent n f).poison = s.poison := rfl
@[simp] theorem State.modBent_corrupt (s : State) (n : Nat) (f : Bent → Bent) : (s.modBent n f).corrupt = s.corrupt := rfl
@[simp] theorem State.modBent_ident (s : State) (n : Nat) (f : Bent → Bent) : (s.modBent n f).ident = s.ident := rfl
@[simp] theorem State.modBent_outbox (s : State) (n : Nat) (f : Bent → Bent) : (s.modBent n f).outbox = s.outbox := rfl
@[simp] theorem State.modBent_l2bad (s : State) (n : Nat) (f : Bent → Bent) : (s.modBent n f).l2bad = s.l2bad := rfl
@[simp] theorem State.modBent_flaws (s : State) (n : Nat) (f : Bent → Bent) : (s.modBent n f).flaws = s.flaws := rfl
@[simp] theorem State.modBent_dcb (s : State) (n : Nat) (f : Bent → Bent) : (s.modBent n f).dcb = s.dcb := rfl
@[simp] theorem State.modBent_preempt (s : State) (n : Nat) (f : Bent → Bent) : (s.modBent n f).preempt = s.preempt := rfl
@[simp] theorem State.modBent_mcb (s : State) (n : Nat) (f : Bent → Bent) : (s.modBent n f).mcb = s.mcb := rfl
@[simp] theorem State.modBent_ctxs (s : State) (n : Nat) (f : Bent → Bent) : (s.modBent n f).ctxs = s.ctxs := rfl
@[simp] theorem State.modBent_works (s : State) (n : Nat) (f : Bent → Bent) : (s.modBent n f).works = s.works := rfl
@[simp] theorem State.modBent_graphs (s : State) (n : Nat) (f : Bent → Bent) : (s.modBent n f).graphs = s.graphs := rfl
@[simp] theorem State.modBent_grids (s : State) (n : Nat) (f : Bent → Bent) : (s.modBent n f).grids = s.grids := rfl
@[simp] theorem State.modBent_nextId (s : State) (n : Nat) (f : Bent → Bent) : (s.modBent n f).nextId = s.nextId := rfl
@[simp] theorem State.modBent_gridCount (s : State) (n : Nat) (f : Bent → Bent) : (s.modBent n f).gridCount = s.gridCount := rfl
@[simp] theorem State.modBent_dieHolds (s : State) (n : Nat) (f : Bent → Bent) : (s.modBent n f).dieHolds = s.dieHolds := rfl
@[simp] theorem State.modBent_preHolds (s : State) (n : Nat) (f : Bent → Bent) : (s.modBent n f).preHolds = s.preHolds := rfl
@[simp] theorem State.modBent_saveRuns (s : State) (n : Nat) (f : Bent → Bent) : (s.modBent n f).saveRuns = s.saveRuns := rfl
@[simp] theorem State.modBent_cores (s : State) (n : Nat) (f : Bent → Bent) : (s.modBent n f).cores = s.cores := rfl
@[simp] theorem State.modBent_l2 (s : State) (n : Nat) (f : Bent → Bent) : (s.modBent n f).l2 = s.l2 := rfl
@[simp] theorem State.modBent_l2es (s : State) (n : Nat) (f : Bent → Bent) : (s.modBent n f).l2es = s.l2es := rfl
@[simp] theorem State.modBent_l2tlb (s : State) (n : Nat) (f : Bent → Bent) : (s.modBent n f).l2tlb = s.l2tlb := rfl
@[simp] theorem State.modBent_walkCache (s : State) (n : Nat) (f : Bent → Bent) : (s.modBent n f).walkCache = s.walkCache := rfl
@[simp] theorem State.modBent_touches (s : State) (n : Nat) (f : Bent → Bent) : (s.modBent n f).touches = s.touches := rfl
@[simp] theorem State.modBent_hot (s : State) (n : Nat) (f : Bent → Bent) : (s.modBent n f).hot = s.hot := rfl
@[simp] theorem State.modBent_hotSeq (s : State) (n : Nat) (f : Bent → Bent) : (s.modBent n f).hotSeq = s.hotSeq := rfl
@[simp] theorem State.modBent_hotAt (s : State) (n : Nat) (f : Bent → Bent) : (s.modBent n f).hotAt = s.hotAt := rfl
@[simp] theorem State.modBent_prTold (s : State) (n : Nat) (f : Bent → Bent) : (s.modBent n f).prTold = s.prTold := rfl
@[simp] theorem State.modBent_migrations (s : State) (n : Nat) (f : Bent → Bent) : (s.modBent n f).migrations = s.migrations := rfl
@[simp] theorem State.modBent_oldFrames (s : State) (n : Nat) (f : Bent → Bent) : (s.modBent n f).oldFrames = s.oldFrames := rfl
@[simp] theorem State.modBent_runs (s : State) (n : Nat) (f : Bent → Bent) : (s.modBent n f).runs = s.runs := rfl
@[simp] theorem State.modBent_stackCtls (s : State) (n : Nat) (f : Bent → Bent) : (s.modBent n f).stackCtls = s.stackCtls := rfl
@[simp] theorem State.modBent_heldWrites (s : State) (n : Nat) (f : Bent → Bent) : (s.modBent n f).heldWrites = s.heldWrites := rfl
@[simp] theorem State.modBent_engines (s : State) (n : Nat) (f : Bent → Bent) : (s.modBent n f).engines = s.engines := rfl
@[simp] theorem State.modBent_sysCopies (s : State) (n : Nat) (f : Bent → Bent) : (s.modBent n f).sysCopies = s.sysCopies := rfl
@[simp] theorem State.modBent_cinvs (s : State) (n : Nat) (f : Bent → Bent) : (s.modBent n f).cinvs = s.cinvs := rfl
@[simp] theorem State.modBent_teams (s : State) (n : Nat) (f : Bent → Bent) : (s.modBent n f).teams = s.teams := rfl
@[simp] theorem State.modBent_agenda (s : State) (n : Nat) (f : Bent → Bent) : (s.modBent n f).agenda = s.agenda := rfl
@[simp] theorem State.modBent_operand (s : State) (n : Nat) (f : Bent → Bent) : (s.modBent n f).operand = s.operand := rfl
@[simp] theorem State.modBent_cur (s : State) (n : Nat) (f : Bent → Bent) : (s.modBent n f).cur = s.cur := rfl
@[simp] theorem State.modBent_curSill (s : State) (n : Nat) (f : Bent → Bent) : (s.modBent n f).curSill = s.curSill := rfl
@[simp] theorem State.modBent_free (s : State) (n : Nat) (f : Bent → Bent) : (s.modBent n f).free = s.free := rfl
@[simp] theorem State.modBent_residueMiss (s : State) (n : Nat) (f : Bent → Bent) : (s.modBent n f).residueMiss = s.residueMiss := rfl

/-! State.modGrid -/
@[simp] theorem State.modGrid_time (s : State) (n : Nat) (f : Grid → Grid) : (s.modGrid n f).time = s.time := rfl
@[simp] theorem State.modGrid_frac (s : State) (n : Nat) (f : Grid → Grid) : (s.modGrid n f).frac = s.frac := rfl
@[simp] theorem State.modGrid_cycle (s : State) (n : Nat) (f : Grid → Grid) : (s.modGrid n f).cycle = s.cycle := rfl
@[simp] theorem State.modGrid_dieOff (s : State) (n : Nat) (f : Grid → Grid) : (s.modGrid n f).dieOff = s.dieOff := rfl
@[simp] theorem State.modGrid_timeHeld (s : State) (n : Nat) (f : Grid → Grid) : (s.modGrid n f).timeHeld = s.timeHeld := rfl
@[simp] theorem State.modGrid_throttled (s : State) (n : Nat) (f : Grid → Grid) : (s.modGrid n f).throttled = s.throttled := rfl
@[simp] theorem State.modGrid_root (s : State) (n : Nat) (f : Grid → Grid) : (s.modGrid n f).root = s.root := rfl
@[simp] theorem State.modGrid_sent (s : State) (n : Nat) (f : Grid → Grid) : (s.modGrid n f).sent = s.sent := rfl
@[simp] theorem State.modGrid_ports (s : State) (n : Nat) (f : Grid → Grid) : (s.modGrid n f).ports = s.ports := rfl
@[simp] theorem State.modGrid_dieLinks (s : State) (n : Nat) (f : Grid → Grid) : (s.modGrid n f).dieLinks = s.dieLinks := rfl
@[simp] theorem State.modGrid_outstanding (s : State) (n : Nat) (f : Grid → Grid) : (s.modGrid n f).outstanding = s.outstanding := rfl
@[simp] theorem State.modGrid_replies (s : State) (n : Nat) (f : Grid → Grid) : (s.modGrid n f).replies = s.replies := rfl
@[simp] theorem State.modGrid_waiting (s : State) (n : Nat) (f : Grid → Grid) : (s.modGrid n f).waiting = s.waiting := rfl
@[simp] theorem State.modGrid_ridgeErrors (s : State) (n : Nat) (f : Grid → Grid) : (s.modGrid n f).ridgeErrors = s.ridgeErrors := rfl
@[simp] theorem State.modGrid_ridgeDiscards (s : State) (n : Nat) (f : Grid → Grid) : (s.modGrid n f).ridgeDiscards = s.ridgeDiscards := rfl
@[simp] theorem State.modGrid_mem (s : State) (n : Nat) (f : Grid → Grid) : (s.modGrid n f).mem = s.mem := rfl
@[simp] theorem State.modGrid_poison (s : State) (n : Nat) (f : Grid → Grid) : (s.modGrid n f).poison = s.poison := rfl
@[simp] theorem State.modGrid_corrupt (s : State) (n : Nat) (f : Grid → Grid) : (s.modGrid n f).corrupt = s.corrupt := rfl
@[simp] theorem State.modGrid_ident (s : State) (n : Nat) (f : Grid → Grid) : (s.modGrid n f).ident = s.ident := rfl
@[simp] theorem State.modGrid_outbox (s : State) (n : Nat) (f : Grid → Grid) : (s.modGrid n f).outbox = s.outbox := rfl
@[simp] theorem State.modGrid_l2bad (s : State) (n : Nat) (f : Grid → Grid) : (s.modGrid n f).l2bad = s.l2bad := rfl
@[simp] theorem State.modGrid_flaws (s : State) (n : Nat) (f : Grid → Grid) : (s.modGrid n f).flaws = s.flaws := rfl
@[simp] theorem State.modGrid_dcb (s : State) (n : Nat) (f : Grid → Grid) : (s.modGrid n f).dcb = s.dcb := rfl
@[simp] theorem State.modGrid_preempt (s : State) (n : Nat) (f : Grid → Grid) : (s.modGrid n f).preempt = s.preempt := rfl
@[simp] theorem State.modGrid_mcb (s : State) (n : Nat) (f : Grid → Grid) : (s.modGrid n f).mcb = s.mcb := rfl
@[simp] theorem State.modGrid_ctxs (s : State) (n : Nat) (f : Grid → Grid) : (s.modGrid n f).ctxs = s.ctxs := rfl
@[simp] theorem State.modGrid_works (s : State) (n : Nat) (f : Grid → Grid) : (s.modGrid n f).works = s.works := rfl
@[simp] theorem State.modGrid_graphs (s : State) (n : Nat) (f : Grid → Grid) : (s.modGrid n f).graphs = s.graphs := rfl
@[simp] theorem State.modGrid_bents (s : State) (n : Nat) (f : Grid → Grid) : (s.modGrid n f).bents = s.bents := rfl
@[simp] theorem State.modGrid_nextId (s : State) (n : Nat) (f : Grid → Grid) : (s.modGrid n f).nextId = s.nextId := rfl
@[simp] theorem State.modGrid_gridCount (s : State) (n : Nat) (f : Grid → Grid) : (s.modGrid n f).gridCount = s.gridCount := rfl
@[simp] theorem State.modGrid_dieHolds (s : State) (n : Nat) (f : Grid → Grid) : (s.modGrid n f).dieHolds = s.dieHolds := rfl
@[simp] theorem State.modGrid_preHolds (s : State) (n : Nat) (f : Grid → Grid) : (s.modGrid n f).preHolds = s.preHolds := rfl
@[simp] theorem State.modGrid_saveRuns (s : State) (n : Nat) (f : Grid → Grid) : (s.modGrid n f).saveRuns = s.saveRuns := rfl
@[simp] theorem State.modGrid_cores (s : State) (n : Nat) (f : Grid → Grid) : (s.modGrid n f).cores = s.cores := rfl
@[simp] theorem State.modGrid_l2 (s : State) (n : Nat) (f : Grid → Grid) : (s.modGrid n f).l2 = s.l2 := rfl
@[simp] theorem State.modGrid_l2es (s : State) (n : Nat) (f : Grid → Grid) : (s.modGrid n f).l2es = s.l2es := rfl
@[simp] theorem State.modGrid_l2tlb (s : State) (n : Nat) (f : Grid → Grid) : (s.modGrid n f).l2tlb = s.l2tlb := rfl
@[simp] theorem State.modGrid_walkCache (s : State) (n : Nat) (f : Grid → Grid) : (s.modGrid n f).walkCache = s.walkCache := rfl
@[simp] theorem State.modGrid_touches (s : State) (n : Nat) (f : Grid → Grid) : (s.modGrid n f).touches = s.touches := rfl
@[simp] theorem State.modGrid_hot (s : State) (n : Nat) (f : Grid → Grid) : (s.modGrid n f).hot = s.hot := rfl
@[simp] theorem State.modGrid_hotSeq (s : State) (n : Nat) (f : Grid → Grid) : (s.modGrid n f).hotSeq = s.hotSeq := rfl
@[simp] theorem State.modGrid_hotAt (s : State) (n : Nat) (f : Grid → Grid) : (s.modGrid n f).hotAt = s.hotAt := rfl
@[simp] theorem State.modGrid_prTold (s : State) (n : Nat) (f : Grid → Grid) : (s.modGrid n f).prTold = s.prTold := rfl
@[simp] theorem State.modGrid_migrations (s : State) (n : Nat) (f : Grid → Grid) : (s.modGrid n f).migrations = s.migrations := rfl
@[simp] theorem State.modGrid_oldFrames (s : State) (n : Nat) (f : Grid → Grid) : (s.modGrid n f).oldFrames = s.oldFrames := rfl
@[simp] theorem State.modGrid_runs (s : State) (n : Nat) (f : Grid → Grid) : (s.modGrid n f).runs = s.runs := rfl
@[simp] theorem State.modGrid_stackCtls (s : State) (n : Nat) (f : Grid → Grid) : (s.modGrid n f).stackCtls = s.stackCtls := rfl
@[simp] theorem State.modGrid_heldWrites (s : State) (n : Nat) (f : Grid → Grid) : (s.modGrid n f).heldWrites = s.heldWrites := rfl
@[simp] theorem State.modGrid_engines (s : State) (n : Nat) (f : Grid → Grid) : (s.modGrid n f).engines = s.engines := rfl
@[simp] theorem State.modGrid_sysCopies (s : State) (n : Nat) (f : Grid → Grid) : (s.modGrid n f).sysCopies = s.sysCopies := rfl
@[simp] theorem State.modGrid_cinvs (s : State) (n : Nat) (f : Grid → Grid) : (s.modGrid n f).cinvs = s.cinvs := rfl
@[simp] theorem State.modGrid_teams (s : State) (n : Nat) (f : Grid → Grid) : (s.modGrid n f).teams = s.teams := rfl
@[simp] theorem State.modGrid_agenda (s : State) (n : Nat) (f : Grid → Grid) : (s.modGrid n f).agenda = s.agenda := rfl
@[simp] theorem State.modGrid_operand (s : State) (n : Nat) (f : Grid → Grid) : (s.modGrid n f).operand = s.operand := rfl
@[simp] theorem State.modGrid_cur (s : State) (n : Nat) (f : Grid → Grid) : (s.modGrid n f).cur = s.cur := rfl
@[simp] theorem State.modGrid_curSill (s : State) (n : Nat) (f : Grid → Grid) : (s.modGrid n f).curSill = s.curSill := rfl
@[simp] theorem State.modGrid_free (s : State) (n : Nat) (f : Grid → Grid) : (s.modGrid n f).free = s.free := rfl
@[simp] theorem State.modGrid_residueMiss (s : State) (n : Nat) (f : Grid → Grid) : (s.modGrid n f).residueMiss = s.residueMiss := rfl

/-! State.useEnergy -/
@[simp] theorem State.useEnergy_time (s : State) (k : Nat) (c : BitVec 8) (cls n : Nat) : (s.useEnergy k c cls n).time = s.time := rfl
@[simp] theorem State.useEnergy_frac (s : State) (k : Nat) (c : BitVec 8) (cls n : Nat) : (s.useEnergy k c cls n).frac = s.frac := rfl
@[simp] theorem State.useEnergy_cycle (s : State) (k : Nat) (c : BitVec 8) (cls n : Nat) : (s.useEnergy k c cls n).cycle = s.cycle := rfl
@[simp] theorem State.useEnergy_dieOff (s : State) (k : Nat) (c : BitVec 8) (cls n : Nat) : (s.useEnergy k c cls n).dieOff = s.dieOff := rfl
@[simp] theorem State.useEnergy_timeHeld (s : State) (k : Nat) (c : BitVec 8) (cls n : Nat) : (s.useEnergy k c cls n).timeHeld = s.timeHeld := rfl
@[simp] theorem State.useEnergy_throttled (s : State) (k : Nat) (c : BitVec 8) (cls n : Nat) : (s.useEnergy k c cls n).throttled = s.throttled := rfl
@[simp] theorem State.useEnergy_root (s : State) (k : Nat) (c : BitVec 8) (cls n : Nat) : (s.useEnergy k c cls n).root = s.root := rfl
@[simp] theorem State.useEnergy_sent (s : State) (k : Nat) (c : BitVec 8) (cls n : Nat) : (s.useEnergy k c cls n).sent = s.sent := rfl
@[simp] theorem State.useEnergy_ports (s : State) (k : Nat) (c : BitVec 8) (cls n : Nat) : (s.useEnergy k c cls n).ports = s.ports := rfl
@[simp] theorem State.useEnergy_dieLinks (s : State) (k : Nat) (c : BitVec 8) (cls n : Nat) : (s.useEnergy k c cls n).dieLinks = s.dieLinks := rfl
@[simp] theorem State.useEnergy_outstanding (s : State) (k : Nat) (c : BitVec 8) (cls n : Nat) : (s.useEnergy k c cls n).outstanding = s.outstanding := rfl
@[simp] theorem State.useEnergy_replies (s : State) (k : Nat) (c : BitVec 8) (cls n : Nat) : (s.useEnergy k c cls n).replies = s.replies := rfl
@[simp] theorem State.useEnergy_waiting (s : State) (k : Nat) (c : BitVec 8) (cls n : Nat) : (s.useEnergy k c cls n).waiting = s.waiting := rfl
@[simp] theorem State.useEnergy_ridgeErrors (s : State) (k : Nat) (c : BitVec 8) (cls n : Nat) : (s.useEnergy k c cls n).ridgeErrors = s.ridgeErrors := rfl
@[simp] theorem State.useEnergy_ridgeDiscards (s : State) (k : Nat) (c : BitVec 8) (cls n : Nat) : (s.useEnergy k c cls n).ridgeDiscards = s.ridgeDiscards := rfl
@[simp] theorem State.useEnergy_mem (s : State) (k : Nat) (c : BitVec 8) (cls n : Nat) : (s.useEnergy k c cls n).mem = s.mem := rfl
@[simp] theorem State.useEnergy_poison (s : State) (k : Nat) (c : BitVec 8) (cls n : Nat) : (s.useEnergy k c cls n).poison = s.poison := rfl
@[simp] theorem State.useEnergy_corrupt (s : State) (k : Nat) (c : BitVec 8) (cls n : Nat) : (s.useEnergy k c cls n).corrupt = s.corrupt := rfl
@[simp] theorem State.useEnergy_ident (s : State) (k : Nat) (c : BitVec 8) (cls n : Nat) : (s.useEnergy k c cls n).ident = s.ident := rfl
@[simp] theorem State.useEnergy_outbox (s : State) (k : Nat) (c : BitVec 8) (cls n : Nat) : (s.useEnergy k c cls n).outbox = s.outbox := rfl
@[simp] theorem State.useEnergy_l2bad (s : State) (k : Nat) (c : BitVec 8) (cls n : Nat) : (s.useEnergy k c cls n).l2bad = s.l2bad := rfl
@[simp] theorem State.useEnergy_flaws (s : State) (k : Nat) (c : BitVec 8) (cls n : Nat) : (s.useEnergy k c cls n).flaws = s.flaws := rfl
@[simp] theorem State.useEnergy_dcb (s : State) (k : Nat) (c : BitVec 8) (cls n : Nat) : (s.useEnergy k c cls n).dcb = s.dcb := rfl
@[simp] theorem State.useEnergy_preempt (s : State) (k : Nat) (c : BitVec 8) (cls n : Nat) : (s.useEnergy k c cls n).preempt = s.preempt := rfl
@[simp] theorem State.useEnergy_mcb (s : State) (k : Nat) (c : BitVec 8) (cls n : Nat) : (s.useEnergy k c cls n).mcb = s.mcb := rfl
@[simp] theorem State.useEnergy_ctxs (s : State) (k : Nat) (c : BitVec 8) (cls n : Nat) : (s.useEnergy k c cls n).ctxs = s.ctxs := rfl
@[simp] theorem State.useEnergy_works (s : State) (k : Nat) (c : BitVec 8) (cls n : Nat) : (s.useEnergy k c cls n).works = s.works := rfl
@[simp] theorem State.useEnergy_graphs (s : State) (k : Nat) (c : BitVec 8) (cls n : Nat) : (s.useEnergy k c cls n).graphs = s.graphs := rfl
@[simp] theorem State.useEnergy_grids (s : State) (k : Nat) (c : BitVec 8) (cls n : Nat) : (s.useEnergy k c cls n).grids = s.grids := rfl
@[simp] theorem State.useEnergy_bents (s : State) (k : Nat) (c : BitVec 8) (cls n : Nat) : (s.useEnergy k c cls n).bents = s.bents := rfl
@[simp] theorem State.useEnergy_nextId (s : State) (k : Nat) (c : BitVec 8) (cls n : Nat) : (s.useEnergy k c cls n).nextId = s.nextId := rfl
@[simp] theorem State.useEnergy_gridCount (s : State) (k : Nat) (c : BitVec 8) (cls n : Nat) : (s.useEnergy k c cls n).gridCount = s.gridCount := rfl
@[simp] theorem State.useEnergy_dieHolds (s : State) (k : Nat) (c : BitVec 8) (cls n : Nat) : (s.useEnergy k c cls n).dieHolds = s.dieHolds := rfl
@[simp] theorem State.useEnergy_preHolds (s : State) (k : Nat) (c : BitVec 8) (cls n : Nat) : (s.useEnergy k c cls n).preHolds = s.preHolds := rfl
@[simp] theorem State.useEnergy_saveRuns (s : State) (k : Nat) (c : BitVec 8) (cls n : Nat) : (s.useEnergy k c cls n).saveRuns = s.saveRuns := rfl
@[simp] theorem State.useEnergy_l2 (s : State) (k : Nat) (c : BitVec 8) (cls n : Nat) : (s.useEnergy k c cls n).l2 = s.l2 := rfl
@[simp] theorem State.useEnergy_l2es (s : State) (k : Nat) (c : BitVec 8) (cls n : Nat) : (s.useEnergy k c cls n).l2es = s.l2es := rfl
@[simp] theorem State.useEnergy_l2tlb (s : State) (k : Nat) (c : BitVec 8) (cls n : Nat) : (s.useEnergy k c cls n).l2tlb = s.l2tlb := rfl
@[simp] theorem State.useEnergy_walkCache (s : State) (k : Nat) (c : BitVec 8) (cls n : Nat) : (s.useEnergy k c cls n).walkCache = s.walkCache := rfl
@[simp] theorem State.useEnergy_touches (s : State) (k : Nat) (c : BitVec 8) (cls n : Nat) : (s.useEnergy k c cls n).touches = s.touches := rfl
@[simp] theorem State.useEnergy_hot (s : State) (k : Nat) (c : BitVec 8) (cls n : Nat) : (s.useEnergy k c cls n).hot = s.hot := rfl
@[simp] theorem State.useEnergy_hotSeq (s : State) (k : Nat) (c : BitVec 8) (cls n : Nat) : (s.useEnergy k c cls n).hotSeq = s.hotSeq := rfl
@[simp] theorem State.useEnergy_hotAt (s : State) (k : Nat) (c : BitVec 8) (cls n : Nat) : (s.useEnergy k c cls n).hotAt = s.hotAt := rfl
@[simp] theorem State.useEnergy_prTold (s : State) (k : Nat) (c : BitVec 8) (cls n : Nat) : (s.useEnergy k c cls n).prTold = s.prTold := rfl
@[simp] theorem State.useEnergy_migrations (s : State) (k : Nat) (c : BitVec 8) (cls n : Nat) : (s.useEnergy k c cls n).migrations = s.migrations := rfl
@[simp] theorem State.useEnergy_oldFrames (s : State) (k : Nat) (c : BitVec 8) (cls n : Nat) : (s.useEnergy k c cls n).oldFrames = s.oldFrames := rfl
@[simp] theorem State.useEnergy_runs (s : State) (k : Nat) (c : BitVec 8) (cls n : Nat) : (s.useEnergy k c cls n).runs = s.runs := rfl
@[simp] theorem State.useEnergy_stackCtls (s : State) (k : Nat) (c : BitVec 8) (cls n : Nat) : (s.useEnergy k c cls n).stackCtls = s.stackCtls := rfl
@[simp] theorem State.useEnergy_heldWrites (s : State) (k : Nat) (c : BitVec 8) (cls n : Nat) : (s.useEnergy k c cls n).heldWrites = s.heldWrites := rfl
@[simp] theorem State.useEnergy_engines (s : State) (k : Nat) (c : BitVec 8) (cls n : Nat) : (s.useEnergy k c cls n).engines = s.engines := rfl
@[simp] theorem State.useEnergy_sysCopies (s : State) (k : Nat) (c : BitVec 8) (cls n : Nat) : (s.useEnergy k c cls n).sysCopies = s.sysCopies := rfl
@[simp] theorem State.useEnergy_cinvs (s : State) (k : Nat) (c : BitVec 8) (cls n : Nat) : (s.useEnergy k c cls n).cinvs = s.cinvs := rfl
@[simp] theorem State.useEnergy_teams (s : State) (k : Nat) (c : BitVec 8) (cls n : Nat) : (s.useEnergy k c cls n).teams = s.teams := rfl
@[simp] theorem State.useEnergy_agenda (s : State) (k : Nat) (c : BitVec 8) (cls n : Nat) : (s.useEnergy k c cls n).agenda = s.agenda := rfl
@[simp] theorem State.useEnergy_operand (s : State) (k : Nat) (c : BitVec 8) (cls n : Nat) : (s.useEnergy k c cls n).operand = s.operand := rfl
@[simp] theorem State.useEnergy_cur (s : State) (k : Nat) (c : BitVec 8) (cls n : Nat) : (s.useEnergy k c cls n).cur = s.cur := rfl
@[simp] theorem State.useEnergy_curSill (s : State) (k : Nat) (c : BitVec 8) (cls n : Nat) : (s.useEnergy k c cls n).curSill = s.curSill := rfl
@[simp] theorem State.useEnergy_free (s : State) (k : Nat) (c : BitVec 8) (cls n : Nat) : (s.useEnergy k c cls n).free = s.free := rfl
@[simp] theorem State.useEnergy_residueMiss (s : State) (k : Nat) (c : BitVec 8) (cls n : Nat) : (s.useEnergy k c cls n).residueMiss = s.residueMiss := rfl

/-! State.draw -/
@[simp] theorem State.draw_time (s : State) : (s.draw.1).time = s.time := rfl
@[simp] theorem State.draw_frac (s : State) : (s.draw.1).frac = s.frac := rfl
@[simp] theorem State.draw_cycle (s : State) : (s.draw.1).cycle = s.cycle := rfl
@[simp] theorem State.draw_dieOff (s : State) : (s.draw.1).dieOff = s.dieOff := rfl
@[simp] theorem State.draw_timeHeld (s : State) : (s.draw.1).timeHeld = s.timeHeld := rfl
@[simp] theorem State.draw_throttled (s : State) : (s.draw.1).throttled = s.throttled := rfl
@[simp] theorem State.draw_root (s : State) : (s.draw.1).root = s.root := rfl
@[simp] theorem State.draw_sent (s : State) : (s.draw.1).sent = s.sent := rfl
@[simp] theorem State.draw_ports (s : State) : (s.draw.1).ports = s.ports := rfl
@[simp] theorem State.draw_dieLinks (s : State) : (s.draw.1).dieLinks = s.dieLinks := rfl
@[simp] theorem State.draw_outstanding (s : State) : (s.draw.1).outstanding = s.outstanding := rfl
@[simp] theorem State.draw_replies (s : State) : (s.draw.1).replies = s.replies := rfl
@[simp] theorem State.draw_waiting (s : State) : (s.draw.1).waiting = s.waiting := rfl
@[simp] theorem State.draw_ridgeErrors (s : State) : (s.draw.1).ridgeErrors = s.ridgeErrors := rfl
@[simp] theorem State.draw_ridgeDiscards (s : State) : (s.draw.1).ridgeDiscards = s.ridgeDiscards := rfl
@[simp] theorem State.draw_mem (s : State) : (s.draw.1).mem = s.mem := rfl
@[simp] theorem State.draw_poison (s : State) : (s.draw.1).poison = s.poison := rfl
@[simp] theorem State.draw_corrupt (s : State) : (s.draw.1).corrupt = s.corrupt := rfl
@[simp] theorem State.draw_ident (s : State) : (s.draw.1).ident = s.ident := rfl
@[simp] theorem State.draw_outbox (s : State) : (s.draw.1).outbox = s.outbox := rfl
@[simp] theorem State.draw_l2bad (s : State) : (s.draw.1).l2bad = s.l2bad := rfl
@[simp] theorem State.draw_flaws (s : State) : (s.draw.1).flaws = s.flaws := rfl
@[simp] theorem State.draw_dcb (s : State) : (s.draw.1).dcb = s.dcb := rfl
@[simp] theorem State.draw_preempt (s : State) : (s.draw.1).preempt = s.preempt := rfl
@[simp] theorem State.draw_mcb (s : State) : (s.draw.1).mcb = s.mcb := rfl
@[simp] theorem State.draw_ctxs (s : State) : (s.draw.1).ctxs = s.ctxs := rfl
@[simp] theorem State.draw_works (s : State) : (s.draw.1).works = s.works := rfl
@[simp] theorem State.draw_graphs (s : State) : (s.draw.1).graphs = s.graphs := rfl
@[simp] theorem State.draw_grids (s : State) : (s.draw.1).grids = s.grids := rfl
@[simp] theorem State.draw_bents (s : State) : (s.draw.1).bents = s.bents := rfl
@[simp] theorem State.draw_nextId (s : State) : (s.draw.1).nextId = s.nextId := rfl
@[simp] theorem State.draw_gridCount (s : State) : (s.draw.1).gridCount = s.gridCount := rfl
@[simp] theorem State.draw_dieHolds (s : State) : (s.draw.1).dieHolds = s.dieHolds := rfl
@[simp] theorem State.draw_preHolds (s : State) : (s.draw.1).preHolds = s.preHolds := rfl
@[simp] theorem State.draw_saveRuns (s : State) : (s.draw.1).saveRuns = s.saveRuns := rfl
@[simp] theorem State.draw_cores (s : State) : (s.draw.1).cores = s.cores := rfl
@[simp] theorem State.draw_l2 (s : State) : (s.draw.1).l2 = s.l2 := rfl
@[simp] theorem State.draw_l2es (s : State) : (s.draw.1).l2es = s.l2es := rfl
@[simp] theorem State.draw_l2tlb (s : State) : (s.draw.1).l2tlb = s.l2tlb := rfl
@[simp] theorem State.draw_walkCache (s : State) : (s.draw.1).walkCache = s.walkCache := rfl
@[simp] theorem State.draw_touches (s : State) : (s.draw.1).touches = s.touches := rfl
@[simp] theorem State.draw_hot (s : State) : (s.draw.1).hot = s.hot := rfl
@[simp] theorem State.draw_hotSeq (s : State) : (s.draw.1).hotSeq = s.hotSeq := rfl
@[simp] theorem State.draw_hotAt (s : State) : (s.draw.1).hotAt = s.hotAt := rfl
@[simp] theorem State.draw_prTold (s : State) : (s.draw.1).prTold = s.prTold := rfl
@[simp] theorem State.draw_migrations (s : State) : (s.draw.1).migrations = s.migrations := rfl
@[simp] theorem State.draw_oldFrames (s : State) : (s.draw.1).oldFrames = s.oldFrames := rfl
@[simp] theorem State.draw_runs (s : State) : (s.draw.1).runs = s.runs := rfl
@[simp] theorem State.draw_stackCtls (s : State) : (s.draw.1).stackCtls = s.stackCtls := rfl
@[simp] theorem State.draw_heldWrites (s : State) : (s.draw.1).heldWrites = s.heldWrites := rfl
@[simp] theorem State.draw_engines (s : State) : (s.draw.1).engines = s.engines := rfl
@[simp] theorem State.draw_sysCopies (s : State) : (s.draw.1).sysCopies = s.sysCopies := rfl
@[simp] theorem State.draw_cinvs (s : State) : (s.draw.1).cinvs = s.cinvs := rfl
@[simp] theorem State.draw_teams (s : State) : (s.draw.1).teams = s.teams := rfl
@[simp] theorem State.draw_agenda (s : State) : (s.draw.1).agenda = s.agenda := rfl
@[simp] theorem State.draw_operand (s : State) : (s.draw.1).operand = s.operand := rfl
@[simp] theorem State.draw_cur (s : State) : (s.draw.1).cur = s.cur := rfl
@[simp] theorem State.draw_curSill (s : State) : (s.draw.1).curSill = s.curSill := rfl
@[simp] theorem State.draw_residueMiss (s : State) : (s.draw.1).residueMiss = s.residueMiss := rfl

/-! State.fresh -/
@[simp] theorem State.fresh_time (s : State) : (s.fresh.1).time = s.time := rfl
@[simp] theorem State.fresh_frac (s : State) : (s.fresh.1).frac = s.frac := rfl
@[simp] theorem State.fresh_cycle (s : State) : (s.fresh.1).cycle = s.cycle := rfl
@[simp] theorem State.fresh_dieOff (s : State) : (s.fresh.1).dieOff = s.dieOff := rfl
@[simp] theorem State.fresh_timeHeld (s : State) : (s.fresh.1).timeHeld = s.timeHeld := rfl
@[simp] theorem State.fresh_throttled (s : State) : (s.fresh.1).throttled = s.throttled := rfl
@[simp] theorem State.fresh_root (s : State) : (s.fresh.1).root = s.root := rfl
@[simp] theorem State.fresh_sent (s : State) : (s.fresh.1).sent = s.sent := rfl
@[simp] theorem State.fresh_ports (s : State) : (s.fresh.1).ports = s.ports := rfl
@[simp] theorem State.fresh_dieLinks (s : State) : (s.fresh.1).dieLinks = s.dieLinks := rfl
@[simp] theorem State.fresh_outstanding (s : State) : (s.fresh.1).outstanding = s.outstanding := rfl
@[simp] theorem State.fresh_replies (s : State) : (s.fresh.1).replies = s.replies := rfl
@[simp] theorem State.fresh_waiting (s : State) : (s.fresh.1).waiting = s.waiting := rfl
@[simp] theorem State.fresh_ridgeErrors (s : State) : (s.fresh.1).ridgeErrors = s.ridgeErrors := rfl
@[simp] theorem State.fresh_ridgeDiscards (s : State) : (s.fresh.1).ridgeDiscards = s.ridgeDiscards := rfl
@[simp] theorem State.fresh_mem (s : State) : (s.fresh.1).mem = s.mem := rfl
@[simp] theorem State.fresh_poison (s : State) : (s.fresh.1).poison = s.poison := rfl
@[simp] theorem State.fresh_corrupt (s : State) : (s.fresh.1).corrupt = s.corrupt := rfl
@[simp] theorem State.fresh_ident (s : State) : (s.fresh.1).ident = s.ident := rfl
@[simp] theorem State.fresh_outbox (s : State) : (s.fresh.1).outbox = s.outbox := rfl
@[simp] theorem State.fresh_l2bad (s : State) : (s.fresh.1).l2bad = s.l2bad := rfl
@[simp] theorem State.fresh_flaws (s : State) : (s.fresh.1).flaws = s.flaws := rfl
@[simp] theorem State.fresh_dcb (s : State) : (s.fresh.1).dcb = s.dcb := rfl
@[simp] theorem State.fresh_preempt (s : State) : (s.fresh.1).preempt = s.preempt := rfl
@[simp] theorem State.fresh_mcb (s : State) : (s.fresh.1).mcb = s.mcb := rfl
@[simp] theorem State.fresh_ctxs (s : State) : (s.fresh.1).ctxs = s.ctxs := rfl
@[simp] theorem State.fresh_works (s : State) : (s.fresh.1).works = s.works := rfl
@[simp] theorem State.fresh_graphs (s : State) : (s.fresh.1).graphs = s.graphs := rfl
@[simp] theorem State.fresh_grids (s : State) : (s.fresh.1).grids = s.grids := rfl
@[simp] theorem State.fresh_bents (s : State) : (s.fresh.1).bents = s.bents := rfl
@[simp] theorem State.fresh_gridCount (s : State) : (s.fresh.1).gridCount = s.gridCount := rfl
@[simp] theorem State.fresh_dieHolds (s : State) : (s.fresh.1).dieHolds = s.dieHolds := rfl
@[simp] theorem State.fresh_preHolds (s : State) : (s.fresh.1).preHolds = s.preHolds := rfl
@[simp] theorem State.fresh_saveRuns (s : State) : (s.fresh.1).saveRuns = s.saveRuns := rfl
@[simp] theorem State.fresh_cores (s : State) : (s.fresh.1).cores = s.cores := rfl
@[simp] theorem State.fresh_l2 (s : State) : (s.fresh.1).l2 = s.l2 := rfl
@[simp] theorem State.fresh_l2es (s : State) : (s.fresh.1).l2es = s.l2es := rfl
@[simp] theorem State.fresh_l2tlb (s : State) : (s.fresh.1).l2tlb = s.l2tlb := rfl
@[simp] theorem State.fresh_walkCache (s : State) : (s.fresh.1).walkCache = s.walkCache := rfl
@[simp] theorem State.fresh_touches (s : State) : (s.fresh.1).touches = s.touches := rfl
@[simp] theorem State.fresh_hot (s : State) : (s.fresh.1).hot = s.hot := rfl
@[simp] theorem State.fresh_hotSeq (s : State) : (s.fresh.1).hotSeq = s.hotSeq := rfl
@[simp] theorem State.fresh_hotAt (s : State) : (s.fresh.1).hotAt = s.hotAt := rfl
@[simp] theorem State.fresh_prTold (s : State) : (s.fresh.1).prTold = s.prTold := rfl
@[simp] theorem State.fresh_migrations (s : State) : (s.fresh.1).migrations = s.migrations := rfl
@[simp] theorem State.fresh_oldFrames (s : State) : (s.fresh.1).oldFrames = s.oldFrames := rfl
@[simp] theorem State.fresh_runs (s : State) : (s.fresh.1).runs = s.runs := rfl
@[simp] theorem State.fresh_stackCtls (s : State) : (s.fresh.1).stackCtls = s.stackCtls := rfl
@[simp] theorem State.fresh_heldWrites (s : State) : (s.fresh.1).heldWrites = s.heldWrites := rfl
@[simp] theorem State.fresh_engines (s : State) : (s.fresh.1).engines = s.engines := rfl
@[simp] theorem State.fresh_sysCopies (s : State) : (s.fresh.1).sysCopies = s.sysCopies := rfl
@[simp] theorem State.fresh_cinvs (s : State) : (s.fresh.1).cinvs = s.cinvs := rfl
@[simp] theorem State.fresh_teams (s : State) : (s.fresh.1).teams = s.teams := rfl
@[simp] theorem State.fresh_agenda (s : State) : (s.fresh.1).agenda = s.agenda := rfl
@[simp] theorem State.fresh_operand (s : State) : (s.fresh.1).operand = s.operand := rfl
@[simp] theorem State.fresh_cur (s : State) : (s.fresh.1).cur = s.cur := rfl
@[simp] theorem State.fresh_curSill (s : State) : (s.fresh.1).curSill = s.curSill := rfl
@[simp] theorem State.fresh_free (s : State) : (s.fresh.1).free = s.free := rfl
@[simp] theorem State.fresh_residueMiss (s : State) : (s.fresh.1).residueMiss = s.residueMiss := rfl

/-! Team.modGroup -/
@[simp] theorem Team.modGroup_ctx (t : Team) (n : Nat) (f : Group → Group) : (t.modGroup n f).ctx = t.ctx := rfl
@[simp] theorem Team.modGroup_vteam (t : Team) (n : Nat) (f : Group → Group) : (t.modGroup n f).vteam = t.vteam := rfl
@[simp] theorem Team.modGroup_bent (t : Team) (n : Nat) (f : Group → Group) : (t.modGroup n f).bent = t.bent := rfl
@[simp] theorem Team.modGroup_bpos (t : Team) (n : Nat) (f : Group → Group) : (t.modGroup n f).bpos = t.bpos := rfl
@[simp] theorem Team.modGroup_core (t : Team) (n : Nat) (f : Group → Group) : (t.modGroup n f).core = t.core := rfl
@[simp] theorem Team.modGroup_members (t : Team) (n : Nat) (f : Group → Group) : (t.modGroup n f).members = t.members := rfl
@[simp] theorem Team.modGroup_bx (t : Team) (n : Nat) (f : Group → Group) : (t.modGroup n f).bx = t.bx := rfl
@[simp] theorem Team.modGroup_bY (t : Team) (n : Nat) (f : Group → Group) : (t.modGroup n f).bY = t.bY := rfl
@[simp] theorem Team.modGroup_leftMax (t : Team) (n : Nat) (f : Group → Group) : (t.modGroup n f).leftMax = t.leftMax := rfl
@[simp] theorem Team.modGroup_bz (t : Team) (n : Nat) (f : Group → Group) : (t.modGroup n f).bz = t.bz := rfl
@[simp] theorem Team.modGroup_gx (t : Team) (n : Nat) (f : Group → Group) : (t.modGroup n f).gx = t.gx := rfl
@[simp] theorem Team.modGroup_gy (t : Team) (n : Nat) (f : Group → Group) : (t.modGroup n f).gy = t.gy := rfl
@[simp] theorem Team.modGroup_gz (t : Team) (n : Nat) (f : Group → Group) : (t.modGroup n f).gz = t.gz := rfl
@[simp] theorem Team.modGroup_fused (t : Team) (n : Nat) (f : Group → Group) : (t.modGroup n f).fused = t.fused := rfl
@[simp] theorem Team.modGroup_legacy (t : Team) (n : Nat) (f : Group → Group) : (t.modGroup n f).legacy = t.legacy := rfl
@[simp] theorem Team.modGroup_streamer (t : Team) (n : Nat) (f : Group → Group) : (t.modGroup n f).streamer = t.streamer := rfl
@[simp] theorem Team.modGroup_materr (t : Team) (n : Nat) (f : Group → Group) : (t.modGroup n f).materr = t.materr := rfl
@[simp] theorem Team.modGroup_prio (t : Team) (n : Nat) (f : Group → Group) : (t.modGroup n f).prio = t.prio := rfl
@[simp] theorem Team.modGroup_roles (t : Team) (n : Nat) (f : Group → Group) : (t.modGroup n f).roles = t.roles := rfl
@[simp] theorem Team.modGroup_nroles (t : Team) (n : Nat) (f : Group → Group) : (t.modGroup n f).nroles = t.nroles := rfl
@[simp] theorem Team.modGroup_windows (t : Team) (n : Nat) (f : Group → Group) : (t.modGroup n f).windows = t.windows := rfl
@[simp] theorem Team.modGroup_base (t : Team) (n : Nat) (f : Group → Group) : (t.modGroup n f).base = t.base := rfl
@[simp] theorem Team.modGroup_size (t : Team) (n : Nat) (f : Group → Group) : (t.modGroup n f).size = t.size := rfl
@[simp] theorem Team.modGroup_units (t : Team) (n : Nat) (f : Group → Group) : (t.modGroup n f).units = t.units := rfl
@[simp] theorem Team.modGroup_scratch (t : Team) (n : Nat) (f : Group → Group) : (t.modGroup n f).scratch = t.scratch := rfl
@[simp] theorem Team.modGroup_full (t : Team) (n : Nat) (f : Group → Group) : (t.modGroup n f).full = t.full := rfl
@[simp] theorem Team.modGroup_poison (t : Team) (n : Nat) (f : Group → Group) : (t.modGroup n f).poison = t.poison := rfl
@[simp] theorem Team.modGroup_mbs (t : Team) (n : Nat) (f : Group → Group) : (t.modGroup n f).mbs = t.mbs := rfl
@[simp] theorem Team.modGroup_waiters (t : Team) (n : Nat) (f : Group → Group) : (t.modGroup n f).waiters = t.waiters := rfl
@[simp] theorem Team.modGroup_tokens (t : Team) (n : Nat) (f : Group → Group) : (t.modGroup n f).tokens = t.tokens := rfl
@[simp] theorem Team.modGroup_spillbase (t : Team) (n : Nat) (f : Group → Group) : (t.modGroup n f).spillbase = t.spillbase := rfl
@[simp] theorem Team.modGroup_stackIdx (t : Team) (n : Nat) (f : Group → Group) : (t.modGroup n f).stackIdx = t.stackIdx := rfl
@[simp] theorem Team.modGroup_inited (t : Team) (n : Nat) (f : Group → Group) : (t.modGroup n f).inited = t.inited := rfl
@[simp] theorem Team.modGroup_home (t : Team) (n : Nat) (f : Group → Group) : (t.modGroup n f).home = t.home := rfl
@[simp] theorem Team.modGroup_keptBins (t : Team) (n : Nat) (f : Group → Group) : (t.modGroup n f).keptBins = t.keptBins := rfl
@[simp] theorem Team.modGroup_keptConvs (t : Team) (n : Nat) (f : Group → Group) : (t.modGroup n f).keptConvs = t.keptConvs := rfl
@[simp] theorem Team.modGroup_keptRun (t : Team) (n : Nat) (f : Group → Group) : (t.modGroup n f).keptRun = t.keptRun := rfl
@[simp] theorem Team.modGroup_keptPasses (t : Team) (n : Nat) (f : Group → Group) : (t.modGroup n f).keptPasses = t.keptPasses := rfl
@[simp] theorem Team.modGroup_children (t : Team) (n : Nat) (f : Group → Group) : (t.modGroup n f).children = t.children := rfl
@[simp] theorem Team.modGroup_frozen (t : Team) (n : Nat) (f : Group → Group) : (t.modGroup n f).frozen = t.frozen := rfl

/-! Group.setV -/
@[simp] theorem Group.setV_gidx (g : Group) (d : Nat) (m : Mask) (x : Lanes) : (g.setV d m x).gidx = g.gidx := rfl
@[simp] theorem Group.setV_role (g : Group) (d : Nat) (m : Mask) (x : Lanes) : (g.setV d m x).role = g.role := rfl
@[simp] theorem Group.setV_vregs (g : Group) (d : Nat) (m : Mask) (x : Lanes) : (g.setV d m x).vregs = g.vregs := rfl
@[simp] theorem Group.setV_stackIdx (g : Group) (d : Nat) (m : Mask) (x : Lanes) : (g.setV d m x).stackIdx = g.stackIdx := rfl
@[simp] theorem Group.setV_born (g : Group) (d : Nat) (m : Mask) (x : Lanes) : (g.setV d m x).born = g.born := rfl
@[simp] theorem Group.setV_seed (g : Group) (d : Nat) (m : Mask) (x : Lanes) : (g.setV d m x).seed = g.seed := rfl
@[simp] theorem Group.setV_s (g : Group) (d : Nat) (m : Mask) (x : Lanes) : (g.setV d m x).s = g.s := rfl
@[simp] theorem Group.setV_p (g : Group) (d : Nat) (m : Mask) (x : Lanes) : (g.setV d m x).p = g.p := rfl
@[simp] theorem Group.setV_strands (g : Group) (d : Nat) (m : Mask) (x : Lanes) : (g.setV d m x).strands = g.strands := rfl
@[simp] theorem Group.setV_folds (g : Group) (d : Nat) (m : Mask) (x : Lanes) : (g.setV d m x).folds = g.folds := rfl
@[simp] theorem Group.setV_slides (g : Group) (d : Nat) (m : Mask) (x : Lanes) : (g.setV d m x).slides = g.slides := rfl
@[simp] theorem Group.setV_events (g : Group) (d : Nat) (m : Mask) (x : Lanes) : (g.setV d m x).events = g.events := rfl
@[simp] theorem Group.setV_pe (g : Group) (d : Nat) (m : Mask) (x : Lanes) : (g.setV d m x).pe = g.pe := rfl
@[simp] theorem Group.setV_offers (g : Group) (d : Nat) (m : Mask) (x : Lanes) : (g.setV d m x).offers = g.offers := rfl
@[simp] theorem Group.setV_fairLast (g : Group) (d : Nat) (m : Mask) (x : Lanes) : (g.setV d m x).fairLast = g.fairLast := rfl
@[simp] theorem Group.setV_em (g : Group) (d : Nat) (m : Mask) (x : Lanes) : (g.setV d m x).em = g.em := rfl
@[simp] theorem Group.setV_sb (g : Group) (d : Nat) (m : Mask) (x : Lanes) : (g.setV d m x).sb = g.sb := rfl
@[simp] theorem Group.setV_acks (g : Group) (d : Nat) (m : Mask) (x : Lanes) : (g.setV d m x).acks = g.acks := rfl
@[simp] theorem Group.setV_wmax (g : Group) (d : Nat) (m : Mask) (x : Lanes) : (g.setV d m x).wmax = g.wmax := rfl
@[simp] theorem Group.setV_rt (g : Group) (d : Nat) (m : Mask) (x : Lanes) : (g.setV d m x).rt = g.rt := rfl
@[simp] theorem Group.setV_omax (g : Group) (d : Nat) (m : Mask) (x : Lanes) : (g.setV d m x).omax = g.omax := rfl
@[simp] theorem Group.setV_ovf (g : Group) (d : Nat) (m : Mask) (x : Lanes) : (g.setV d m x).ovf = g.ovf := rfl
@[simp] theorem Group.setV_loads (g : Group) (d : Nat) (m : Mask) (x : Lanes) : (g.setV d m x).loads = g.loads := rfl
@[simp] theorem Group.setV_longs (g : Group) (d : Nat) (m : Mask) (x : Lanes) : (g.setV d m x).longs = g.longs := rfl
@[simp] theorem Group.setV_failing (g : Group) (d : Nat) (m : Mask) (x : Lanes) : (g.setV d m x).failing = g.failing := rfl
@[simp] theorem Group.setV_marks (g : Group) (d : Nat) (m : Mask) (x : Lanes) : (g.setV d m x).marks = g.marks := rfl
@[simp] theorem Group.setV_nextId (g : Group) (d : Nat) (m : Mask) (x : Lanes) : (g.setV d m x).nextId = g.nextId := rfl
@[simp] theorem Group.setV_record (g : Group) (d : Nat) (m : Mask) (x : Lanes) : (g.setV d m x).record = g.record := rfl
@[simp] theorem Group.setV_trap (g : Group) (d : Nat) (m : Mask) (x : Lanes) : (g.setV d m x).trap = g.trap := rfl
@[simp] theorem Group.setV_trapAt (g : Group) (d : Nat) (m : Mask) (x : Lanes) : (g.setV d m x).trapAt = g.trapAt := rfl
@[simp] theorem Group.setV_repc (g : Group) (d : Nat) (m : Mask) (x : Lanes) : (g.setV d m x).repc = g.repc := rfl
@[simp] theorem Group.setV_handler (g : Group) (d : Nat) (m : Mask) (x : Lanes) : (g.setV d m x).handler = g.handler := rfl
@[simp] theorem Group.setV_sup (g : Group) (d : Nat) (m : Mask) (x : Lanes) : (g.setV d m x).sup = g.sup := rfl
@[simp] theorem Group.setV_hbase (g : Group) (d : Nat) (m : Mask) (x : Lanes) : (g.setV d m x).hbase = g.hbase := rfl
@[simp] theorem Group.setV_hsize (g : Group) (d : Nat) (m : Mask) (x : Lanes) : (g.setV d m x).hsize = g.hsize := rfl
@[simp] theorem Group.setV_gone (g : Group) (d : Nat) (m : Mask) (x : Lanes) : (g.setV d m x).gone = g.gone := rfl
@[simp] theorem Group.setV_fair (g : Group) (d : Nat) (m : Mask) (x : Lanes) : (g.setV d m x).fair = g.fair := rfl
@[simp] theorem Group.setV_fairFor (g : Group) (d : Nat) (m : Mask) (x : Lanes) : (g.setV d m x).fairFor = g.fairFor := rfl
@[simp] theorem Group.setV_fairSid (g : Group) (d : Nat) (m : Mask) (x : Lanes) : (g.setV d m x).fairSid = g.fairSid := rfl
@[simp] theorem Group.setV_watch (g : Group) (d : Nat) (m : Mask) (x : Lanes) : (g.setV d m x).watch = g.watch := rfl
@[simp] theorem Group.setV_dbg (g : Group) (d : Nat) (m : Mask) (x : Lanes) : (g.setV d m x).dbg = g.dbg := rfl
@[simp] theorem Group.setV_ended (g : Group) (d : Nat) (m : Mask) (x : Lanes) : (g.setV d m x).ended = g.ended := rfl

/-- The fields that Group.modStrand may change. -/
theorem Group.modStrand_changes (g : Group) (n : Nat) (f : Strand → Strand) : ∃ xstrands xhandler, g.modStrand n f = { g with strands := xstrands, handler := xhandler } := by
  unfold Group.modStrand
  split
  · exact ⟨g.strands, _, rfl⟩
  · exact ⟨_, g.handler, rfl⟩

/-! Group.modStrand -/
@[simp] theorem Group.modStrand_gidx (g : Group) (n : Nat) (f : Strand → Strand) : (g.modStrand n f).gidx = g.gidx := by obtain ⟨_, _, h⟩ := Group.modStrand_changes g n f; rw [h]
@[simp] theorem Group.modStrand_role (g : Group) (n : Nat) (f : Strand → Strand) : (g.modStrand n f).role = g.role := by obtain ⟨_, _, h⟩ := Group.modStrand_changes g n f; rw [h]
@[simp] theorem Group.modStrand_vregs (g : Group) (n : Nat) (f : Strand → Strand) : (g.modStrand n f).vregs = g.vregs := by obtain ⟨_, _, h⟩ := Group.modStrand_changes g n f; rw [h]
@[simp] theorem Group.modStrand_stackIdx (g : Group) (n : Nat) (f : Strand → Strand) : (g.modStrand n f).stackIdx = g.stackIdx := by obtain ⟨_, _, h⟩ := Group.modStrand_changes g n f; rw [h]
@[simp] theorem Group.modStrand_born (g : Group) (n : Nat) (f : Strand → Strand) : (g.modStrand n f).born = g.born := by obtain ⟨_, _, h⟩ := Group.modStrand_changes g n f; rw [h]
@[simp] theorem Group.modStrand_v (g : Group) (n : Nat) (f : Strand → Strand) : (g.modStrand n f).v = g.v := by obtain ⟨_, _, h⟩ := Group.modStrand_changes g n f; rw [h]
@[simp] theorem Group.modStrand_seed (g : Group) (n : Nat) (f : Strand → Strand) : (g.modStrand n f).seed = g.seed := by obtain ⟨_, _, h⟩ := Group.modStrand_changes g n f; rw [h]
@[simp] theorem Group.modStrand_s (g : Group) (n : Nat) (f : Strand → Strand) : (g.modStrand n f).s = g.s := by obtain ⟨_, _, h⟩ := Group.modStrand_changes g n f; rw [h]
@[simp] theorem Group.modStrand_p (g : Group) (n : Nat) (f : Strand → Strand) : (g.modStrand n f).p = g.p := by obtain ⟨_, _, h⟩ := Group.modStrand_changes g n f; rw [h]
@[simp] theorem Group.modStrand_folds (g : Group) (n : Nat) (f : Strand → Strand) : (g.modStrand n f).folds = g.folds := by obtain ⟨_, _, h⟩ := Group.modStrand_changes g n f; rw [h]
@[simp] theorem Group.modStrand_slides (g : Group) (n : Nat) (f : Strand → Strand) : (g.modStrand n f).slides = g.slides := by obtain ⟨_, _, h⟩ := Group.modStrand_changes g n f; rw [h]
@[simp] theorem Group.modStrand_events (g : Group) (n : Nat) (f : Strand → Strand) : (g.modStrand n f).events = g.events := by obtain ⟨_, _, h⟩ := Group.modStrand_changes g n f; rw [h]
@[simp] theorem Group.modStrand_pe (g : Group) (n : Nat) (f : Strand → Strand) : (g.modStrand n f).pe = g.pe := by obtain ⟨_, _, h⟩ := Group.modStrand_changes g n f; rw [h]
@[simp] theorem Group.modStrand_offers (g : Group) (n : Nat) (f : Strand → Strand) : (g.modStrand n f).offers = g.offers := by obtain ⟨_, _, h⟩ := Group.modStrand_changes g n f; rw [h]
@[simp] theorem Group.modStrand_fairLast (g : Group) (n : Nat) (f : Strand → Strand) : (g.modStrand n f).fairLast = g.fairLast := by obtain ⟨_, _, h⟩ := Group.modStrand_changes g n f; rw [h]
@[simp] theorem Group.modStrand_em (g : Group) (n : Nat) (f : Strand → Strand) : (g.modStrand n f).em = g.em := by obtain ⟨_, _, h⟩ := Group.modStrand_changes g n f; rw [h]
@[simp] theorem Group.modStrand_sb (g : Group) (n : Nat) (f : Strand → Strand) : (g.modStrand n f).sb = g.sb := by obtain ⟨_, _, h⟩ := Group.modStrand_changes g n f; rw [h]
@[simp] theorem Group.modStrand_acks (g : Group) (n : Nat) (f : Strand → Strand) : (g.modStrand n f).acks = g.acks := by obtain ⟨_, _, h⟩ := Group.modStrand_changes g n f; rw [h]
@[simp] theorem Group.modStrand_wmax (g : Group) (n : Nat) (f : Strand → Strand) : (g.modStrand n f).wmax = g.wmax := by obtain ⟨_, _, h⟩ := Group.modStrand_changes g n f; rw [h]
@[simp] theorem Group.modStrand_rt (g : Group) (n : Nat) (f : Strand → Strand) : (g.modStrand n f).rt = g.rt := by obtain ⟨_, _, h⟩ := Group.modStrand_changes g n f; rw [h]
@[simp] theorem Group.modStrand_omax (g : Group) (n : Nat) (f : Strand → Strand) : (g.modStrand n f).omax = g.omax := by obtain ⟨_, _, h⟩ := Group.modStrand_changes g n f; rw [h]
@[simp] theorem Group.modStrand_ovf (g : Group) (n : Nat) (f : Strand → Strand) : (g.modStrand n f).ovf = g.ovf := by obtain ⟨_, _, h⟩ := Group.modStrand_changes g n f; rw [h]
@[simp] theorem Group.modStrand_loads (g : Group) (n : Nat) (f : Strand → Strand) : (g.modStrand n f).loads = g.loads := by obtain ⟨_, _, h⟩ := Group.modStrand_changes g n f; rw [h]
@[simp] theorem Group.modStrand_longs (g : Group) (n : Nat) (f : Strand → Strand) : (g.modStrand n f).longs = g.longs := by obtain ⟨_, _, h⟩ := Group.modStrand_changes g n f; rw [h]
@[simp] theorem Group.modStrand_failing (g : Group) (n : Nat) (f : Strand → Strand) : (g.modStrand n f).failing = g.failing := by obtain ⟨_, _, h⟩ := Group.modStrand_changes g n f; rw [h]
@[simp] theorem Group.modStrand_marks (g : Group) (n : Nat) (f : Strand → Strand) : (g.modStrand n f).marks = g.marks := by obtain ⟨_, _, h⟩ := Group.modStrand_changes g n f; rw [h]
@[simp] theorem Group.modStrand_nextId (g : Group) (n : Nat) (f : Strand → Strand) : (g.modStrand n f).nextId = g.nextId := by obtain ⟨_, _, h⟩ := Group.modStrand_changes g n f; rw [h]
@[simp] theorem Group.modStrand_record (g : Group) (n : Nat) (f : Strand → Strand) : (g.modStrand n f).record = g.record := by obtain ⟨_, _, h⟩ := Group.modStrand_changes g n f; rw [h]
@[simp] theorem Group.modStrand_trap (g : Group) (n : Nat) (f : Strand → Strand) : (g.modStrand n f).trap = g.trap := by obtain ⟨_, _, h⟩ := Group.modStrand_changes g n f; rw [h]
@[simp] theorem Group.modStrand_trapAt (g : Group) (n : Nat) (f : Strand → Strand) : (g.modStrand n f).trapAt = g.trapAt := by obtain ⟨_, _, h⟩ := Group.modStrand_changes g n f; rw [h]
@[simp] theorem Group.modStrand_repc (g : Group) (n : Nat) (f : Strand → Strand) : (g.modStrand n f).repc = g.repc := by obtain ⟨_, _, h⟩ := Group.modStrand_changes g n f; rw [h]
@[simp] theorem Group.modStrand_sup (g : Group) (n : Nat) (f : Strand → Strand) : (g.modStrand n f).sup = g.sup := by obtain ⟨_, _, h⟩ := Group.modStrand_changes g n f; rw [h]
@[simp] theorem Group.modStrand_hbase (g : Group) (n : Nat) (f : Strand → Strand) : (g.modStrand n f).hbase = g.hbase := by obtain ⟨_, _, h⟩ := Group.modStrand_changes g n f; rw [h]
@[simp] theorem Group.modStrand_hsize (g : Group) (n : Nat) (f : Strand → Strand) : (g.modStrand n f).hsize = g.hsize := by obtain ⟨_, _, h⟩ := Group.modStrand_changes g n f; rw [h]
@[simp] theorem Group.modStrand_gone (g : Group) (n : Nat) (f : Strand → Strand) : (g.modStrand n f).gone = g.gone := by obtain ⟨_, _, h⟩ := Group.modStrand_changes g n f; rw [h]
@[simp] theorem Group.modStrand_fair (g : Group) (n : Nat) (f : Strand → Strand) : (g.modStrand n f).fair = g.fair := by obtain ⟨_, _, h⟩ := Group.modStrand_changes g n f; rw [h]
@[simp] theorem Group.modStrand_fairFor (g : Group) (n : Nat) (f : Strand → Strand) : (g.modStrand n f).fairFor = g.fairFor := by obtain ⟨_, _, h⟩ := Group.modStrand_changes g n f; rw [h]
@[simp] theorem Group.modStrand_fairSid (g : Group) (n : Nat) (f : Strand → Strand) : (g.modStrand n f).fairSid = g.fairSid := by obtain ⟨_, _, h⟩ := Group.modStrand_changes g n f; rw [h]
@[simp] theorem Group.modStrand_watch (g : Group) (n : Nat) (f : Strand → Strand) : (g.modStrand n f).watch = g.watch := by obtain ⟨_, _, h⟩ := Group.modStrand_changes g n f; rw [h]
@[simp] theorem Group.modStrand_dbg (g : Group) (n : Nat) (f : Strand → Strand) : (g.modStrand n f).dbg = g.dbg := by obtain ⟨_, _, h⟩ := Group.modStrand_changes g n f; rw [h]
@[simp] theorem Group.modStrand_ended (g : Group) (n : Nat) (f : Strand → Strand) : (g.modStrand n f).ended = g.ended := by obtain ⟨_, _, h⟩ := Group.modStrand_changes g n f; rw [h]

/-- The fields that Group.setP may change. -/
theorem Group.setP_changes (g : Group) (d : Nat) (m x : Mask) : ∃ xp, g.setP d m x = { g with p := xp } := by
  unfold Group.setP; split; · exact ⟨g.p, rfl⟩
  · exact ⟨_, rfl⟩

/-! Group.setP -/
@[simp] theorem Group.setP_gidx (g : Group) (d : Nat) (m x : Mask) : (g.setP d m x).gidx = g.gidx := by obtain ⟨_, h⟩ := Group.setP_changes g d m x; rw [h]
@[simp] theorem Group.setP_role (g : Group) (d : Nat) (m x : Mask) : (g.setP d m x).role = g.role := by obtain ⟨_, h⟩ := Group.setP_changes g d m x; rw [h]
@[simp] theorem Group.setP_vregs (g : Group) (d : Nat) (m x : Mask) : (g.setP d m x).vregs = g.vregs := by obtain ⟨_, h⟩ := Group.setP_changes g d m x; rw [h]
@[simp] theorem Group.setP_stackIdx (g : Group) (d : Nat) (m x : Mask) : (g.setP d m x).stackIdx = g.stackIdx := by obtain ⟨_, h⟩ := Group.setP_changes g d m x; rw [h]
@[simp] theorem Group.setP_born (g : Group) (d : Nat) (m x : Mask) : (g.setP d m x).born = g.born := by obtain ⟨_, h⟩ := Group.setP_changes g d m x; rw [h]
@[simp] theorem Group.setP_v (g : Group) (d : Nat) (m x : Mask) : (g.setP d m x).v = g.v := by obtain ⟨_, h⟩ := Group.setP_changes g d m x; rw [h]
@[simp] theorem Group.setP_seed (g : Group) (d : Nat) (m x : Mask) : (g.setP d m x).seed = g.seed := by obtain ⟨_, h⟩ := Group.setP_changes g d m x; rw [h]
@[simp] theorem Group.setP_s (g : Group) (d : Nat) (m x : Mask) : (g.setP d m x).s = g.s := by obtain ⟨_, h⟩ := Group.setP_changes g d m x; rw [h]
@[simp] theorem Group.setP_strands (g : Group) (d : Nat) (m x : Mask) : (g.setP d m x).strands = g.strands := by obtain ⟨_, h⟩ := Group.setP_changes g d m x; rw [h]
@[simp] theorem Group.setP_folds (g : Group) (d : Nat) (m x : Mask) : (g.setP d m x).folds = g.folds := by obtain ⟨_, h⟩ := Group.setP_changes g d m x; rw [h]
@[simp] theorem Group.setP_slides (g : Group) (d : Nat) (m x : Mask) : (g.setP d m x).slides = g.slides := by obtain ⟨_, h⟩ := Group.setP_changes g d m x; rw [h]
@[simp] theorem Group.setP_events (g : Group) (d : Nat) (m x : Mask) : (g.setP d m x).events = g.events := by obtain ⟨_, h⟩ := Group.setP_changes g d m x; rw [h]
@[simp] theorem Group.setP_pe (g : Group) (d : Nat) (m x : Mask) : (g.setP d m x).pe = g.pe := by obtain ⟨_, h⟩ := Group.setP_changes g d m x; rw [h]
@[simp] theorem Group.setP_offers (g : Group) (d : Nat) (m x : Mask) : (g.setP d m x).offers = g.offers := by obtain ⟨_, h⟩ := Group.setP_changes g d m x; rw [h]
@[simp] theorem Group.setP_fairLast (g : Group) (d : Nat) (m x : Mask) : (g.setP d m x).fairLast = g.fairLast := by obtain ⟨_, h⟩ := Group.setP_changes g d m x; rw [h]
@[simp] theorem Group.setP_em (g : Group) (d : Nat) (m x : Mask) : (g.setP d m x).em = g.em := by obtain ⟨_, h⟩ := Group.setP_changes g d m x; rw [h]
@[simp] theorem Group.setP_sb (g : Group) (d : Nat) (m x : Mask) : (g.setP d m x).sb = g.sb := by obtain ⟨_, h⟩ := Group.setP_changes g d m x; rw [h]
@[simp] theorem Group.setP_acks (g : Group) (d : Nat) (m x : Mask) : (g.setP d m x).acks = g.acks := by obtain ⟨_, h⟩ := Group.setP_changes g d m x; rw [h]
@[simp] theorem Group.setP_wmax (g : Group) (d : Nat) (m x : Mask) : (g.setP d m x).wmax = g.wmax := by obtain ⟨_, h⟩ := Group.setP_changes g d m x; rw [h]
@[simp] theorem Group.setP_rt (g : Group) (d : Nat) (m x : Mask) : (g.setP d m x).rt = g.rt := by obtain ⟨_, h⟩ := Group.setP_changes g d m x; rw [h]
@[simp] theorem Group.setP_omax (g : Group) (d : Nat) (m x : Mask) : (g.setP d m x).omax = g.omax := by obtain ⟨_, h⟩ := Group.setP_changes g d m x; rw [h]
@[simp] theorem Group.setP_ovf (g : Group) (d : Nat) (m x : Mask) : (g.setP d m x).ovf = g.ovf := by obtain ⟨_, h⟩ := Group.setP_changes g d m x; rw [h]
@[simp] theorem Group.setP_loads (g : Group) (d : Nat) (m x : Mask) : (g.setP d m x).loads = g.loads := by obtain ⟨_, h⟩ := Group.setP_changes g d m x; rw [h]
@[simp] theorem Group.setP_longs (g : Group) (d : Nat) (m x : Mask) : (g.setP d m x).longs = g.longs := by obtain ⟨_, h⟩ := Group.setP_changes g d m x; rw [h]
@[simp] theorem Group.setP_failing (g : Group) (d : Nat) (m x : Mask) : (g.setP d m x).failing = g.failing := by obtain ⟨_, h⟩ := Group.setP_changes g d m x; rw [h]
@[simp] theorem Group.setP_marks (g : Group) (d : Nat) (m x : Mask) : (g.setP d m x).marks = g.marks := by obtain ⟨_, h⟩ := Group.setP_changes g d m x; rw [h]
@[simp] theorem Group.setP_nextId (g : Group) (d : Nat) (m x : Mask) : (g.setP d m x).nextId = g.nextId := by obtain ⟨_, h⟩ := Group.setP_changes g d m x; rw [h]
@[simp] theorem Group.setP_record (g : Group) (d : Nat) (m x : Mask) : (g.setP d m x).record = g.record := by obtain ⟨_, h⟩ := Group.setP_changes g d m x; rw [h]
@[simp] theorem Group.setP_trap (g : Group) (d : Nat) (m x : Mask) : (g.setP d m x).trap = g.trap := by obtain ⟨_, h⟩ := Group.setP_changes g d m x; rw [h]
@[simp] theorem Group.setP_trapAt (g : Group) (d : Nat) (m x : Mask) : (g.setP d m x).trapAt = g.trapAt := by obtain ⟨_, h⟩ := Group.setP_changes g d m x; rw [h]
@[simp] theorem Group.setP_repc (g : Group) (d : Nat) (m x : Mask) : (g.setP d m x).repc = g.repc := by obtain ⟨_, h⟩ := Group.setP_changes g d m x; rw [h]
@[simp] theorem Group.setP_handler (g : Group) (d : Nat) (m x : Mask) : (g.setP d m x).handler = g.handler := by obtain ⟨_, h⟩ := Group.setP_changes g d m x; rw [h]
@[simp] theorem Group.setP_sup (g : Group) (d : Nat) (m x : Mask) : (g.setP d m x).sup = g.sup := by obtain ⟨_, h⟩ := Group.setP_changes g d m x; rw [h]
@[simp] theorem Group.setP_hbase (g : Group) (d : Nat) (m x : Mask) : (g.setP d m x).hbase = g.hbase := by obtain ⟨_, h⟩ := Group.setP_changes g d m x; rw [h]
@[simp] theorem Group.setP_hsize (g : Group) (d : Nat) (m x : Mask) : (g.setP d m x).hsize = g.hsize := by obtain ⟨_, h⟩ := Group.setP_changes g d m x; rw [h]
@[simp] theorem Group.setP_gone (g : Group) (d : Nat) (m x : Mask) : (g.setP d m x).gone = g.gone := by obtain ⟨_, h⟩ := Group.setP_changes g d m x; rw [h]
@[simp] theorem Group.setP_fair (g : Group) (d : Nat) (m x : Mask) : (g.setP d m x).fair = g.fair := by obtain ⟨_, h⟩ := Group.setP_changes g d m x; rw [h]
@[simp] theorem Group.setP_fairFor (g : Group) (d : Nat) (m x : Mask) : (g.setP d m x).fairFor = g.fairFor := by obtain ⟨_, h⟩ := Group.setP_changes g d m x; rw [h]
@[simp] theorem Group.setP_fairSid (g : Group) (d : Nat) (m x : Mask) : (g.setP d m x).fairSid = g.fairSid := by obtain ⟨_, h⟩ := Group.setP_changes g d m x; rw [h]
@[simp] theorem Group.setP_watch (g : Group) (d : Nat) (m x : Mask) : (g.setP d m x).watch = g.watch := by obtain ⟨_, h⟩ := Group.setP_changes g d m x; rw [h]
@[simp] theorem Group.setP_dbg (g : Group) (d : Nat) (m x : Mask) : (g.setP d m x).dbg = g.dbg := by obtain ⟨_, h⟩ := Group.setP_changes g d m x; rw [h]
@[simp] theorem Group.setP_ended (g : Group) (d : Nat) (m x : Mask) : (g.setP d m x).ended = g.ended := by obtain ⟨_, h⟩ := Group.setP_changes g d m x; rw [h]

/-- The fields that Group.setScalar may change. -/
theorem Group.setScalar_changes (g : Group) (n d : Nat) (x : DWord) : ∃ xs xsup xstrands xhandler, g.setScalar n d x = { g with s := xs, sup := xsup, strands := xstrands, handler := xhandler } := by
  unfold Group.setScalar
  split; · exact ⟨g.s, g.sup, g.strands, g.handler, rfl⟩
  split; · exact ⟨g.s, _, g.strands, g.handler, rfl⟩
  split; · exact ⟨_, g.sup, g.strands, g.handler, rfl⟩
  unfold Group.modStrand; split
  · exact ⟨g.s, g.sup, g.strands, _, rfl⟩
  · exact ⟨g.s, g.sup, _, g.handler, rfl⟩

/-! Group.setScalar -/
@[simp] theorem Group.setScalar_gidx (g : Group) (n d : Nat) (x : DWord) : (g.setScalar n d x).gidx = g.gidx := by obtain ⟨_, _, _, _, h⟩ := Group.setScalar_changes g n d x; rw [h]
@[simp] theorem Group.setScalar_role (g : Group) (n d : Nat) (x : DWord) : (g.setScalar n d x).role = g.role := by obtain ⟨_, _, _, _, h⟩ := Group.setScalar_changes g n d x; rw [h]
@[simp] theorem Group.setScalar_vregs (g : Group) (n d : Nat) (x : DWord) : (g.setScalar n d x).vregs = g.vregs := by obtain ⟨_, _, _, _, h⟩ := Group.setScalar_changes g n d x; rw [h]
@[simp] theorem Group.setScalar_stackIdx (g : Group) (n d : Nat) (x : DWord) : (g.setScalar n d x).stackIdx = g.stackIdx := by obtain ⟨_, _, _, _, h⟩ := Group.setScalar_changes g n d x; rw [h]
@[simp] theorem Group.setScalar_born (g : Group) (n d : Nat) (x : DWord) : (g.setScalar n d x).born = g.born := by obtain ⟨_, _, _, _, h⟩ := Group.setScalar_changes g n d x; rw [h]
@[simp] theorem Group.setScalar_v (g : Group) (n d : Nat) (x : DWord) : (g.setScalar n d x).v = g.v := by obtain ⟨_, _, _, _, h⟩ := Group.setScalar_changes g n d x; rw [h]
@[simp] theorem Group.setScalar_seed (g : Group) (n d : Nat) (x : DWord) : (g.setScalar n d x).seed = g.seed := by obtain ⟨_, _, _, _, h⟩ := Group.setScalar_changes g n d x; rw [h]
@[simp] theorem Group.setScalar_p (g : Group) (n d : Nat) (x : DWord) : (g.setScalar n d x).p = g.p := by obtain ⟨_, _, _, _, h⟩ := Group.setScalar_changes g n d x; rw [h]
@[simp] theorem Group.setScalar_folds (g : Group) (n d : Nat) (x : DWord) : (g.setScalar n d x).folds = g.folds := by obtain ⟨_, _, _, _, h⟩ := Group.setScalar_changes g n d x; rw [h]
@[simp] theorem Group.setScalar_slides (g : Group) (n d : Nat) (x : DWord) : (g.setScalar n d x).slides = g.slides := by obtain ⟨_, _, _, _, h⟩ := Group.setScalar_changes g n d x; rw [h]
@[simp] theorem Group.setScalar_events (g : Group) (n d : Nat) (x : DWord) : (g.setScalar n d x).events = g.events := by obtain ⟨_, _, _, _, h⟩ := Group.setScalar_changes g n d x; rw [h]
@[simp] theorem Group.setScalar_pe (g : Group) (n d : Nat) (x : DWord) : (g.setScalar n d x).pe = g.pe := by obtain ⟨_, _, _, _, h⟩ := Group.setScalar_changes g n d x; rw [h]
@[simp] theorem Group.setScalar_offers (g : Group) (n d : Nat) (x : DWord) : (g.setScalar n d x).offers = g.offers := by obtain ⟨_, _, _, _, h⟩ := Group.setScalar_changes g n d x; rw [h]
@[simp] theorem Group.setScalar_fairLast (g : Group) (n d : Nat) (x : DWord) : (g.setScalar n d x).fairLast = g.fairLast := by obtain ⟨_, _, _, _, h⟩ := Group.setScalar_changes g n d x; rw [h]
@[simp] theorem Group.setScalar_em (g : Group) (n d : Nat) (x : DWord) : (g.setScalar n d x).em = g.em := by obtain ⟨_, _, _, _, h⟩ := Group.setScalar_changes g n d x; rw [h]
@[simp] theorem Group.setScalar_sb (g : Group) (n d : Nat) (x : DWord) : (g.setScalar n d x).sb = g.sb := by obtain ⟨_, _, _, _, h⟩ := Group.setScalar_changes g n d x; rw [h]
@[simp] theorem Group.setScalar_acks (g : Group) (n d : Nat) (x : DWord) : (g.setScalar n d x).acks = g.acks := by obtain ⟨_, _, _, _, h⟩ := Group.setScalar_changes g n d x; rw [h]
@[simp] theorem Group.setScalar_wmax (g : Group) (n d : Nat) (x : DWord) : (g.setScalar n d x).wmax = g.wmax := by obtain ⟨_, _, _, _, h⟩ := Group.setScalar_changes g n d x; rw [h]
@[simp] theorem Group.setScalar_rt (g : Group) (n d : Nat) (x : DWord) : (g.setScalar n d x).rt = g.rt := by obtain ⟨_, _, _, _, h⟩ := Group.setScalar_changes g n d x; rw [h]
@[simp] theorem Group.setScalar_omax (g : Group) (n d : Nat) (x : DWord) : (g.setScalar n d x).omax = g.omax := by obtain ⟨_, _, _, _, h⟩ := Group.setScalar_changes g n d x; rw [h]
@[simp] theorem Group.setScalar_ovf (g : Group) (n d : Nat) (x : DWord) : (g.setScalar n d x).ovf = g.ovf := by obtain ⟨_, _, _, _, h⟩ := Group.setScalar_changes g n d x; rw [h]
@[simp] theorem Group.setScalar_loads (g : Group) (n d : Nat) (x : DWord) : (g.setScalar n d x).loads = g.loads := by obtain ⟨_, _, _, _, h⟩ := Group.setScalar_changes g n d x; rw [h]
@[simp] theorem Group.setScalar_longs (g : Group) (n d : Nat) (x : DWord) : (g.setScalar n d x).longs = g.longs := by obtain ⟨_, _, _, _, h⟩ := Group.setScalar_changes g n d x; rw [h]
@[simp] theorem Group.setScalar_failing (g : Group) (n d : Nat) (x : DWord) : (g.setScalar n d x).failing = g.failing := by obtain ⟨_, _, _, _, h⟩ := Group.setScalar_changes g n d x; rw [h]
@[simp] theorem Group.setScalar_marks (g : Group) (n d : Nat) (x : DWord) : (g.setScalar n d x).marks = g.marks := by obtain ⟨_, _, _, _, h⟩ := Group.setScalar_changes g n d x; rw [h]
@[simp] theorem Group.setScalar_nextId (g : Group) (n d : Nat) (x : DWord) : (g.setScalar n d x).nextId = g.nextId := by obtain ⟨_, _, _, _, h⟩ := Group.setScalar_changes g n d x; rw [h]
@[simp] theorem Group.setScalar_record (g : Group) (n d : Nat) (x : DWord) : (g.setScalar n d x).record = g.record := by obtain ⟨_, _, _, _, h⟩ := Group.setScalar_changes g n d x; rw [h]
@[simp] theorem Group.setScalar_trap (g : Group) (n d : Nat) (x : DWord) : (g.setScalar n d x).trap = g.trap := by obtain ⟨_, _, _, _, h⟩ := Group.setScalar_changes g n d x; rw [h]
@[simp] theorem Group.setScalar_trapAt (g : Group) (n d : Nat) (x : DWord) : (g.setScalar n d x).trapAt = g.trapAt := by obtain ⟨_, _, _, _, h⟩ := Group.setScalar_changes g n d x; rw [h]
@[simp] theorem Group.setScalar_repc (g : Group) (n d : Nat) (x : DWord) : (g.setScalar n d x).repc = g.repc := by obtain ⟨_, _, _, _, h⟩ := Group.setScalar_changes g n d x; rw [h]
@[simp] theorem Group.setScalar_hbase (g : Group) (n d : Nat) (x : DWord) : (g.setScalar n d x).hbase = g.hbase := by obtain ⟨_, _, _, _, h⟩ := Group.setScalar_changes g n d x; rw [h]
@[simp] theorem Group.setScalar_hsize (g : Group) (n d : Nat) (x : DWord) : (g.setScalar n d x).hsize = g.hsize := by obtain ⟨_, _, _, _, h⟩ := Group.setScalar_changes g n d x; rw [h]
@[simp] theorem Group.setScalar_gone (g : Group) (n d : Nat) (x : DWord) : (g.setScalar n d x).gone = g.gone := by obtain ⟨_, _, _, _, h⟩ := Group.setScalar_changes g n d x; rw [h]
@[simp] theorem Group.setScalar_fair (g : Group) (n d : Nat) (x : DWord) : (g.setScalar n d x).fair = g.fair := by obtain ⟨_, _, _, _, h⟩ := Group.setScalar_changes g n d x; rw [h]
@[simp] theorem Group.setScalar_fairFor (g : Group) (n d : Nat) (x : DWord) : (g.setScalar n d x).fairFor = g.fairFor := by obtain ⟨_, _, _, _, h⟩ := Group.setScalar_changes g n d x; rw [h]
@[simp] theorem Group.setScalar_fairSid (g : Group) (n d : Nat) (x : DWord) : (g.setScalar n d x).fairSid = g.fairSid := by obtain ⟨_, _, _, _, h⟩ := Group.setScalar_changes g n d x; rw [h]
@[simp] theorem Group.setScalar_watch (g : Group) (n d : Nat) (x : DWord) : (g.setScalar n d x).watch = g.watch := by obtain ⟨_, _, _, _, h⟩ := Group.setScalar_changes g n d x; rw [h]
@[simp] theorem Group.setScalar_dbg (g : Group) (n d : Nat) (x : DWord) : (g.setScalar n d x).dbg = g.dbg := by obtain ⟨_, _, _, _, h⟩ := Group.setScalar_changes g n d x; rw [h]
@[simp] theorem Group.setScalar_ended (g : Group) (n d : Nat) (x : DWord) : (g.setScalar n d x).ended = g.ended := by obtain ⟨_, _, _, _, h⟩ := Group.setScalar_changes g n d x; rw [h]

/-- The fields that Group.wake may change. -/
theorem Group.wake_changes (g : Group) : ∃ xstrands, g.wake = { g with strands := xstrands } := by
  exact ⟨_, rfl⟩

/-! Group.wake -/
@[simp] theorem Group.wake_gidx (g : Group) : (g.wake).gidx = g.gidx := by obtain ⟨_, h⟩ := Group.wake_changes g; rw [h]
@[simp] theorem Group.wake_role (g : Group) : (g.wake).role = g.role := by obtain ⟨_, h⟩ := Group.wake_changes g; rw [h]
@[simp] theorem Group.wake_vregs (g : Group) : (g.wake).vregs = g.vregs := by obtain ⟨_, h⟩ := Group.wake_changes g; rw [h]
@[simp] theorem Group.wake_stackIdx (g : Group) : (g.wake).stackIdx = g.stackIdx := by obtain ⟨_, h⟩ := Group.wake_changes g; rw [h]
@[simp] theorem Group.wake_born (g : Group) : (g.wake).born = g.born := by obtain ⟨_, h⟩ := Group.wake_changes g; rw [h]
@[simp] theorem Group.wake_v (g : Group) : (g.wake).v = g.v := by obtain ⟨_, h⟩ := Group.wake_changes g; rw [h]
@[simp] theorem Group.wake_seed (g : Group) : (g.wake).seed = g.seed := by obtain ⟨_, h⟩ := Group.wake_changes g; rw [h]
@[simp] theorem Group.wake_s (g : Group) : (g.wake).s = g.s := by obtain ⟨_, h⟩ := Group.wake_changes g; rw [h]
@[simp] theorem Group.wake_p (g : Group) : (g.wake).p = g.p := by obtain ⟨_, h⟩ := Group.wake_changes g; rw [h]
@[simp] theorem Group.wake_folds (g : Group) : (g.wake).folds = g.folds := by obtain ⟨_, h⟩ := Group.wake_changes g; rw [h]
@[simp] theorem Group.wake_slides (g : Group) : (g.wake).slides = g.slides := by obtain ⟨_, h⟩ := Group.wake_changes g; rw [h]
@[simp] theorem Group.wake_events (g : Group) : (g.wake).events = g.events := by obtain ⟨_, h⟩ := Group.wake_changes g; rw [h]
@[simp] theorem Group.wake_pe (g : Group) : (g.wake).pe = g.pe := by obtain ⟨_, h⟩ := Group.wake_changes g; rw [h]
@[simp] theorem Group.wake_offers (g : Group) : (g.wake).offers = g.offers := by obtain ⟨_, h⟩ := Group.wake_changes g; rw [h]
@[simp] theorem Group.wake_fairLast (g : Group) : (g.wake).fairLast = g.fairLast := by obtain ⟨_, h⟩ := Group.wake_changes g; rw [h]
@[simp] theorem Group.wake_em (g : Group) : (g.wake).em = g.em := by obtain ⟨_, h⟩ := Group.wake_changes g; rw [h]
@[simp] theorem Group.wake_sb (g : Group) : (g.wake).sb = g.sb := by obtain ⟨_, h⟩ := Group.wake_changes g; rw [h]
@[simp] theorem Group.wake_acks (g : Group) : (g.wake).acks = g.acks := by obtain ⟨_, h⟩ := Group.wake_changes g; rw [h]
@[simp] theorem Group.wake_wmax (g : Group) : (g.wake).wmax = g.wmax := by obtain ⟨_, h⟩ := Group.wake_changes g; rw [h]
@[simp] theorem Group.wake_rt (g : Group) : (g.wake).rt = g.rt := by obtain ⟨_, h⟩ := Group.wake_changes g; rw [h]
@[simp] theorem Group.wake_omax (g : Group) : (g.wake).omax = g.omax := by obtain ⟨_, h⟩ := Group.wake_changes g; rw [h]
@[simp] theorem Group.wake_ovf (g : Group) : (g.wake).ovf = g.ovf := by obtain ⟨_, h⟩ := Group.wake_changes g; rw [h]
@[simp] theorem Group.wake_loads (g : Group) : (g.wake).loads = g.loads := by obtain ⟨_, h⟩ := Group.wake_changes g; rw [h]
@[simp] theorem Group.wake_longs (g : Group) : (g.wake).longs = g.longs := by obtain ⟨_, h⟩ := Group.wake_changes g; rw [h]
@[simp] theorem Group.wake_failing (g : Group) : (g.wake).failing = g.failing := by obtain ⟨_, h⟩ := Group.wake_changes g; rw [h]
@[simp] theorem Group.wake_marks (g : Group) : (g.wake).marks = g.marks := by obtain ⟨_, h⟩ := Group.wake_changes g; rw [h]
@[simp] theorem Group.wake_nextId (g : Group) : (g.wake).nextId = g.nextId := by obtain ⟨_, h⟩ := Group.wake_changes g; rw [h]
@[simp] theorem Group.wake_record (g : Group) : (g.wake).record = g.record := by obtain ⟨_, h⟩ := Group.wake_changes g; rw [h]
@[simp] theorem Group.wake_trap (g : Group) : (g.wake).trap = g.trap := by obtain ⟨_, h⟩ := Group.wake_changes g; rw [h]
@[simp] theorem Group.wake_trapAt (g : Group) : (g.wake).trapAt = g.trapAt := by obtain ⟨_, h⟩ := Group.wake_changes g; rw [h]
@[simp] theorem Group.wake_repc (g : Group) : (g.wake).repc = g.repc := by obtain ⟨_, h⟩ := Group.wake_changes g; rw [h]
@[simp] theorem Group.wake_handler (g : Group) : (g.wake).handler = g.handler := by obtain ⟨_, h⟩ := Group.wake_changes g; rw [h]
@[simp] theorem Group.wake_sup (g : Group) : (g.wake).sup = g.sup := by obtain ⟨_, h⟩ := Group.wake_changes g; rw [h]
@[simp] theorem Group.wake_hbase (g : Group) : (g.wake).hbase = g.hbase := by obtain ⟨_, h⟩ := Group.wake_changes g; rw [h]
@[simp] theorem Group.wake_hsize (g : Group) : (g.wake).hsize = g.hsize := by obtain ⟨_, h⟩ := Group.wake_changes g; rw [h]
@[simp] theorem Group.wake_gone (g : Group) : (g.wake).gone = g.gone := by obtain ⟨_, h⟩ := Group.wake_changes g; rw [h]
@[simp] theorem Group.wake_fair (g : Group) : (g.wake).fair = g.fair := by obtain ⟨_, h⟩ := Group.wake_changes g; rw [h]
@[simp] theorem Group.wake_fairFor (g : Group) : (g.wake).fairFor = g.fairFor := by obtain ⟨_, h⟩ := Group.wake_changes g; rw [h]
@[simp] theorem Group.wake_fairSid (g : Group) : (g.wake).fairSid = g.fairSid := by obtain ⟨_, h⟩ := Group.wake_changes g; rw [h]
@[simp] theorem Group.wake_watch (g : Group) : (g.wake).watch = g.watch := by obtain ⟨_, h⟩ := Group.wake_changes g; rw [h]
@[simp] theorem Group.wake_dbg (g : Group) : (g.wake).dbg = g.dbg := by obtain ⟨_, h⟩ := Group.wake_changes g; rw [h]
@[simp] theorem Group.wake_ended (g : Group) : (g.wake).ended = g.ended := by obtain ⟨_, h⟩ := Group.wake_changes g; rw [h]

/-- The fields that Group.countIssue may change. -/
theorem Group.countIssue_changes (g : Group) (n : Nat) : ∃ xstrands xfair xlast xfairFor, g.countIssue n = { g with strands := xstrands, fair := xfair, fairLast := xlast, fairFor := xfairFor } := by
  exact ⟨_, _, _, _, rfl⟩

/-! Group.countIssue -/
@[simp] theorem Group.countIssue_gidx (g : Group) (n : Nat) : (g.countIssue n).gidx = g.gidx := by obtain ⟨_, _, _, _, h⟩ := Group.countIssue_changes g n; rw [h]
@[simp] theorem Group.countIssue_role (g : Group) (n : Nat) : (g.countIssue n).role = g.role := by obtain ⟨_, _, _, _, h⟩ := Group.countIssue_changes g n; rw [h]
@[simp] theorem Group.countIssue_vregs (g : Group) (n : Nat) : (g.countIssue n).vregs = g.vregs := by obtain ⟨_, _, _, _, h⟩ := Group.countIssue_changes g n; rw [h]
@[simp] theorem Group.countIssue_stackIdx (g : Group) (n : Nat) : (g.countIssue n).stackIdx = g.stackIdx := by obtain ⟨_, _, _, _, h⟩ := Group.countIssue_changes g n; rw [h]
@[simp] theorem Group.countIssue_born (g : Group) (n : Nat) : (g.countIssue n).born = g.born := by obtain ⟨_, _, _, _, h⟩ := Group.countIssue_changes g n; rw [h]
@[simp] theorem Group.countIssue_v (g : Group) (n : Nat) : (g.countIssue n).v = g.v := by obtain ⟨_, _, _, _, h⟩ := Group.countIssue_changes g n; rw [h]
@[simp] theorem Group.countIssue_seed (g : Group) (n : Nat) : (g.countIssue n).seed = g.seed := by obtain ⟨_, _, _, _, h⟩ := Group.countIssue_changes g n; rw [h]
@[simp] theorem Group.countIssue_s (g : Group) (n : Nat) : (g.countIssue n).s = g.s := by obtain ⟨_, _, _, _, h⟩ := Group.countIssue_changes g n; rw [h]
@[simp] theorem Group.countIssue_p (g : Group) (n : Nat) : (g.countIssue n).p = g.p := by obtain ⟨_, _, _, _, h⟩ := Group.countIssue_changes g n; rw [h]
@[simp] theorem Group.countIssue_folds (g : Group) (n : Nat) : (g.countIssue n).folds = g.folds := by obtain ⟨_, _, _, _, h⟩ := Group.countIssue_changes g n; rw [h]
@[simp] theorem Group.countIssue_slides (g : Group) (n : Nat) : (g.countIssue n).slides = g.slides := by obtain ⟨_, _, _, _, h⟩ := Group.countIssue_changes g n; rw [h]
@[simp] theorem Group.countIssue_events (g : Group) (n : Nat) : (g.countIssue n).events = g.events := by obtain ⟨_, _, _, _, h⟩ := Group.countIssue_changes g n; rw [h]
@[simp] theorem Group.countIssue_pe (g : Group) (n : Nat) : (g.countIssue n).pe = g.pe := by obtain ⟨_, _, _, _, h⟩ := Group.countIssue_changes g n; rw [h]
@[simp] theorem Group.countIssue_offers (g : Group) (n : Nat) : (g.countIssue n).offers = g.offers := by obtain ⟨_, _, _, _, h⟩ := Group.countIssue_changes g n; rw [h]
@[simp] theorem Group.countIssue_em (g : Group) (n : Nat) : (g.countIssue n).em = g.em := by obtain ⟨_, _, _, _, h⟩ := Group.countIssue_changes g n; rw [h]
@[simp] theorem Group.countIssue_sb (g : Group) (n : Nat) : (g.countIssue n).sb = g.sb := by obtain ⟨_, _, _, _, h⟩ := Group.countIssue_changes g n; rw [h]
@[simp] theorem Group.countIssue_acks (g : Group) (n : Nat) : (g.countIssue n).acks = g.acks := by obtain ⟨_, _, _, _, h⟩ := Group.countIssue_changes g n; rw [h]
@[simp] theorem Group.countIssue_wmax (g : Group) (n : Nat) : (g.countIssue n).wmax = g.wmax := by obtain ⟨_, _, _, _, h⟩ := Group.countIssue_changes g n; rw [h]
@[simp] theorem Group.countIssue_rt (g : Group) (n : Nat) : (g.countIssue n).rt = g.rt := by obtain ⟨_, _, _, _, h⟩ := Group.countIssue_changes g n; rw [h]
@[simp] theorem Group.countIssue_omax (g : Group) (n : Nat) : (g.countIssue n).omax = g.omax := by obtain ⟨_, _, _, _, h⟩ := Group.countIssue_changes g n; rw [h]
@[simp] theorem Group.countIssue_ovf (g : Group) (n : Nat) : (g.countIssue n).ovf = g.ovf := by obtain ⟨_, _, _, _, h⟩ := Group.countIssue_changes g n; rw [h]
@[simp] theorem Group.countIssue_loads (g : Group) (n : Nat) : (g.countIssue n).loads = g.loads := by obtain ⟨_, _, _, _, h⟩ := Group.countIssue_changes g n; rw [h]
@[simp] theorem Group.countIssue_longs (g : Group) (n : Nat) : (g.countIssue n).longs = g.longs := by obtain ⟨_, _, _, _, h⟩ := Group.countIssue_changes g n; rw [h]
@[simp] theorem Group.countIssue_failing (g : Group) (n : Nat) : (g.countIssue n).failing = g.failing := by obtain ⟨_, _, _, _, h⟩ := Group.countIssue_changes g n; rw [h]
@[simp] theorem Group.countIssue_marks (g : Group) (n : Nat) : (g.countIssue n).marks = g.marks := by obtain ⟨_, _, _, _, h⟩ := Group.countIssue_changes g n; rw [h]
@[simp] theorem Group.countIssue_nextId (g : Group) (n : Nat) : (g.countIssue n).nextId = g.nextId := by obtain ⟨_, _, _, _, h⟩ := Group.countIssue_changes g n; rw [h]
@[simp] theorem Group.countIssue_record (g : Group) (n : Nat) : (g.countIssue n).record = g.record := by obtain ⟨_, _, _, _, h⟩ := Group.countIssue_changes g n; rw [h]
@[simp] theorem Group.countIssue_trap (g : Group) (n : Nat) : (g.countIssue n).trap = g.trap := by obtain ⟨_, _, _, _, h⟩ := Group.countIssue_changes g n; rw [h]
@[simp] theorem Group.countIssue_trapAt (g : Group) (n : Nat) : (g.countIssue n).trapAt = g.trapAt := by obtain ⟨_, _, _, _, h⟩ := Group.countIssue_changes g n; rw [h]
@[simp] theorem Group.countIssue_repc (g : Group) (n : Nat) : (g.countIssue n).repc = g.repc := by obtain ⟨_, _, _, _, h⟩ := Group.countIssue_changes g n; rw [h]
@[simp] theorem Group.countIssue_handler (g : Group) (n : Nat) : (g.countIssue n).handler = g.handler := by obtain ⟨_, _, _, _, h⟩ := Group.countIssue_changes g n; rw [h]
@[simp] theorem Group.countIssue_sup (g : Group) (n : Nat) : (g.countIssue n).sup = g.sup := by obtain ⟨_, _, _, _, h⟩ := Group.countIssue_changes g n; rw [h]
@[simp] theorem Group.countIssue_hbase (g : Group) (n : Nat) : (g.countIssue n).hbase = g.hbase := by obtain ⟨_, _, _, _, h⟩ := Group.countIssue_changes g n; rw [h]
@[simp] theorem Group.countIssue_hsize (g : Group) (n : Nat) : (g.countIssue n).hsize = g.hsize := by obtain ⟨_, _, _, _, h⟩ := Group.countIssue_changes g n; rw [h]
@[simp] theorem Group.countIssue_gone (g : Group) (n : Nat) : (g.countIssue n).gone = g.gone := by obtain ⟨_, _, _, _, h⟩ := Group.countIssue_changes g n; rw [h]
@[simp] theorem Group.countIssue_fairSid (g : Group) (n : Nat) : (g.countIssue n).fairSid = g.fairSid := by obtain ⟨_, _, _, _, h⟩ := Group.countIssue_changes g n; rw [h]
@[simp] theorem Group.countIssue_watch (g : Group) (n : Nat) : (g.countIssue n).watch = g.watch := by obtain ⟨_, _, _, _, h⟩ := Group.countIssue_changes g n; rw [h]
@[simp] theorem Group.countIssue_dbg (g : Group) (n : Nat) : (g.countIssue n).dbg = g.dbg := by obtain ⟨_, _, _, _, h⟩ := Group.countIssue_changes g n; rw [h]
@[simp] theorem Group.countIssue_ended (g : Group) (n : Nat) : (g.countIssue n).ended = g.ended := by obtain ⟨_, _, _, _, h⟩ := Group.countIssue_changes g n; rw [h]

/-- The fields that Group.passRelease may change. -/
theorem Group.passRelease_changes (g : Group) (w : RelWait) : ∃ xovf, g.passRelease w = { g with ovf := xovf } := by
  unfold Group.passRelease
  split
  · split
    · exact ⟨_, rfl⟩
    · exact ⟨g.ovf, rfl⟩
  · exact ⟨g.ovf, rfl⟩

/-! Group.passRelease -/
@[simp] theorem Group.passRelease_gidx (g : Group) (w : RelWait) : (g.passRelease w).gidx = g.gidx := by obtain ⟨_, h⟩ := Group.passRelease_changes g w; rw [h]
@[simp] theorem Group.passRelease_role (g : Group) (w : RelWait) : (g.passRelease w).role = g.role := by obtain ⟨_, h⟩ := Group.passRelease_changes g w; rw [h]
@[simp] theorem Group.passRelease_vregs (g : Group) (w : RelWait) : (g.passRelease w).vregs = g.vregs := by obtain ⟨_, h⟩ := Group.passRelease_changes g w; rw [h]
@[simp] theorem Group.passRelease_stackIdx (g : Group) (w : RelWait) : (g.passRelease w).stackIdx = g.stackIdx := by obtain ⟨_, h⟩ := Group.passRelease_changes g w; rw [h]
@[simp] theorem Group.passRelease_born (g : Group) (w : RelWait) : (g.passRelease w).born = g.born := by obtain ⟨_, h⟩ := Group.passRelease_changes g w; rw [h]
@[simp] theorem Group.passRelease_v (g : Group) (w : RelWait) : (g.passRelease w).v = g.v := by obtain ⟨_, h⟩ := Group.passRelease_changes g w; rw [h]
@[simp] theorem Group.passRelease_seed (g : Group) (w : RelWait) : (g.passRelease w).seed = g.seed := by obtain ⟨_, h⟩ := Group.passRelease_changes g w; rw [h]
@[simp] theorem Group.passRelease_s (g : Group) (w : RelWait) : (g.passRelease w).s = g.s := by obtain ⟨_, h⟩ := Group.passRelease_changes g w; rw [h]
@[simp] theorem Group.passRelease_p (g : Group) (w : RelWait) : (g.passRelease w).p = g.p := by obtain ⟨_, h⟩ := Group.passRelease_changes g w; rw [h]
@[simp] theorem Group.passRelease_strands (g : Group) (w : RelWait) : (g.passRelease w).strands = g.strands := by obtain ⟨_, h⟩ := Group.passRelease_changes g w; rw [h]
@[simp] theorem Group.passRelease_folds (g : Group) (w : RelWait) : (g.passRelease w).folds = g.folds := by obtain ⟨_, h⟩ := Group.passRelease_changes g w; rw [h]
@[simp] theorem Group.passRelease_slides (g : Group) (w : RelWait) : (g.passRelease w).slides = g.slides := by obtain ⟨_, h⟩ := Group.passRelease_changes g w; rw [h]
@[simp] theorem Group.passRelease_events (g : Group) (w : RelWait) : (g.passRelease w).events = g.events := by obtain ⟨_, h⟩ := Group.passRelease_changes g w; rw [h]
@[simp] theorem Group.passRelease_pe (g : Group) (w : RelWait) : (g.passRelease w).pe = g.pe := by obtain ⟨_, h⟩ := Group.passRelease_changes g w; rw [h]
@[simp] theorem Group.passRelease_offers (g : Group) (w : RelWait) : (g.passRelease w).offers = g.offers := by obtain ⟨_, h⟩ := Group.passRelease_changes g w; rw [h]
@[simp] theorem Group.passRelease_fairLast (g : Group) (w : RelWait) : (g.passRelease w).fairLast = g.fairLast := by obtain ⟨_, h⟩ := Group.passRelease_changes g w; rw [h]
@[simp] theorem Group.passRelease_em (g : Group) (w : RelWait) : (g.passRelease w).em = g.em := by obtain ⟨_, h⟩ := Group.passRelease_changes g w; rw [h]
@[simp] theorem Group.passRelease_sb (g : Group) (w : RelWait) : (g.passRelease w).sb = g.sb := by obtain ⟨_, h⟩ := Group.passRelease_changes g w; rw [h]
@[simp] theorem Group.passRelease_acks (g : Group) (w : RelWait) : (g.passRelease w).acks = g.acks := by obtain ⟨_, h⟩ := Group.passRelease_changes g w; rw [h]
@[simp] theorem Group.passRelease_wmax (g : Group) (w : RelWait) : (g.passRelease w).wmax = g.wmax := by obtain ⟨_, h⟩ := Group.passRelease_changes g w; rw [h]
@[simp] theorem Group.passRelease_rt (g : Group) (w : RelWait) : (g.passRelease w).rt = g.rt := by obtain ⟨_, h⟩ := Group.passRelease_changes g w; rw [h]
@[simp] theorem Group.passRelease_omax (g : Group) (w : RelWait) : (g.passRelease w).omax = g.omax := by obtain ⟨_, h⟩ := Group.passRelease_changes g w; rw [h]
@[simp] theorem Group.passRelease_loads (g : Group) (w : RelWait) : (g.passRelease w).loads = g.loads := by obtain ⟨_, h⟩ := Group.passRelease_changes g w; rw [h]
@[simp] theorem Group.passRelease_longs (g : Group) (w : RelWait) : (g.passRelease w).longs = g.longs := by obtain ⟨_, h⟩ := Group.passRelease_changes g w; rw [h]
@[simp] theorem Group.passRelease_failing (g : Group) (w : RelWait) : (g.passRelease w).failing = g.failing := by obtain ⟨_, h⟩ := Group.passRelease_changes g w; rw [h]
@[simp] theorem Group.passRelease_marks (g : Group) (w : RelWait) : (g.passRelease w).marks = g.marks := by obtain ⟨_, h⟩ := Group.passRelease_changes g w; rw [h]
@[simp] theorem Group.passRelease_nextId (g : Group) (w : RelWait) : (g.passRelease w).nextId = g.nextId := by obtain ⟨_, h⟩ := Group.passRelease_changes g w; rw [h]
@[simp] theorem Group.passRelease_record (g : Group) (w : RelWait) : (g.passRelease w).record = g.record := by obtain ⟨_, h⟩ := Group.passRelease_changes g w; rw [h]
@[simp] theorem Group.passRelease_trap (g : Group) (w : RelWait) : (g.passRelease w).trap = g.trap := by obtain ⟨_, h⟩ := Group.passRelease_changes g w; rw [h]
@[simp] theorem Group.passRelease_trapAt (g : Group) (w : RelWait) : (g.passRelease w).trapAt = g.trapAt := by obtain ⟨_, h⟩ := Group.passRelease_changes g w; rw [h]
@[simp] theorem Group.passRelease_repc (g : Group) (w : RelWait) : (g.passRelease w).repc = g.repc := by obtain ⟨_, h⟩ := Group.passRelease_changes g w; rw [h]
@[simp] theorem Group.passRelease_handler (g : Group) (w : RelWait) : (g.passRelease w).handler = g.handler := by obtain ⟨_, h⟩ := Group.passRelease_changes g w; rw [h]
@[simp] theorem Group.passRelease_sup (g : Group) (w : RelWait) : (g.passRelease w).sup = g.sup := by obtain ⟨_, h⟩ := Group.passRelease_changes g w; rw [h]
@[simp] theorem Group.passRelease_hbase (g : Group) (w : RelWait) : (g.passRelease w).hbase = g.hbase := by obtain ⟨_, h⟩ := Group.passRelease_changes g w; rw [h]
@[simp] theorem Group.passRelease_hsize (g : Group) (w : RelWait) : (g.passRelease w).hsize = g.hsize := by obtain ⟨_, h⟩ := Group.passRelease_changes g w; rw [h]
@[simp] theorem Group.passRelease_gone (g : Group) (w : RelWait) : (g.passRelease w).gone = g.gone := by obtain ⟨_, h⟩ := Group.passRelease_changes g w; rw [h]
@[simp] theorem Group.passRelease_fair (g : Group) (w : RelWait) : (g.passRelease w).fair = g.fair := by obtain ⟨_, h⟩ := Group.passRelease_changes g w; rw [h]
@[simp] theorem Group.passRelease_fairFor (g : Group) (w : RelWait) : (g.passRelease w).fairFor = g.fairFor := by obtain ⟨_, h⟩ := Group.passRelease_changes g w; rw [h]
@[simp] theorem Group.passRelease_fairSid (g : Group) (w : RelWait) : (g.passRelease w).fairSid = g.fairSid := by obtain ⟨_, h⟩ := Group.passRelease_changes g w; rw [h]
@[simp] theorem Group.passRelease_watch (g : Group) (w : RelWait) : (g.passRelease w).watch = g.watch := by obtain ⟨_, h⟩ := Group.passRelease_changes g w; rw [h]
@[simp] theorem Group.passRelease_dbg (g : Group) (w : RelWait) : (g.passRelease w).dbg = g.dbg := by obtain ⟨_, h⟩ := Group.passRelease_changes g w; rw [h]
@[simp] theorem Group.passRelease_ended (g : Group) (w : RelWait) : (g.passRelease w).ended = g.ended := by obtain ⟨_, h⟩ := Group.passRelease_changes g w; rw [h]

/-- The fields that State.interrupt may change. -/
theorem State.interrupt_changes (s : State) (k d : Nat) (c e : BitVec 8) (n : Nat) : ∃ xsent xroot xout, s.interrupt k d c e n = { s with sent := xsent, root := xroot, outbox := xout } := by
  unfold State.interrupt; dsimp only; split
  · exact ⟨s.sent, s.root, s.outbox, rfl⟩
  · exact ⟨_, _, _, rfl⟩

/-! State.interrupt -/
@[simp] theorem State.interrupt_time (s : State) (k d : Nat) (c e : BitVec 8) (n : Nat) : (s.interrupt k d c e n).time = s.time := by obtain ⟨_, _, _, h⟩ := State.interrupt_changes s k d c e n; rw [h]
@[simp] theorem State.interrupt_frac (s : State) (k d : Nat) (c e : BitVec 8) (n : Nat) : (s.interrupt k d c e n).frac = s.frac := by obtain ⟨_, _, _, h⟩ := State.interrupt_changes s k d c e n; rw [h]
@[simp] theorem State.interrupt_cycle (s : State) (k d : Nat) (c e : BitVec 8) (n : Nat) : (s.interrupt k d c e n).cycle = s.cycle := by obtain ⟨_, _, _, h⟩ := State.interrupt_changes s k d c e n; rw [h]
@[simp] theorem State.interrupt_dieOff (s : State) (k d : Nat) (c e : BitVec 8) (n : Nat) : (s.interrupt k d c e n).dieOff = s.dieOff := by obtain ⟨_, _, _, h⟩ := State.interrupt_changes s k d c e n; rw [h]
@[simp] theorem State.interrupt_timeHeld (s : State) (k d : Nat) (c e : BitVec 8) (n : Nat) : (s.interrupt k d c e n).timeHeld = s.timeHeld := by obtain ⟨_, _, _, h⟩ := State.interrupt_changes s k d c e n; rw [h]
@[simp] theorem State.interrupt_throttled (s : State) (k d : Nat) (c e : BitVec 8) (n : Nat) : (s.interrupt k d c e n).throttled = s.throttled := by obtain ⟨_, _, _, h⟩ := State.interrupt_changes s k d c e n; rw [h]
@[simp] theorem State.interrupt_ports (s : State) (k d : Nat) (c e : BitVec 8) (n : Nat) : (s.interrupt k d c e n).ports = s.ports := by obtain ⟨_, _, _, h⟩ := State.interrupt_changes s k d c e n; rw [h]
@[simp] theorem State.interrupt_dieLinks (s : State) (k d : Nat) (c e : BitVec 8) (n : Nat) : (s.interrupt k d c e n).dieLinks = s.dieLinks := by obtain ⟨_, _, _, h⟩ := State.interrupt_changes s k d c e n; rw [h]
@[simp] theorem State.interrupt_outstanding (s : State) (k d : Nat) (c e : BitVec 8) (n : Nat) : (s.interrupt k d c e n).outstanding = s.outstanding := by obtain ⟨_, _, _, h⟩ := State.interrupt_changes s k d c e n; rw [h]
@[simp] theorem State.interrupt_replies (s : State) (k d : Nat) (c e : BitVec 8) (n : Nat) : (s.interrupt k d c e n).replies = s.replies := by obtain ⟨_, _, _, h⟩ := State.interrupt_changes s k d c e n; rw [h]
@[simp] theorem State.interrupt_waiting (s : State) (k d : Nat) (c e : BitVec 8) (n : Nat) : (s.interrupt k d c e n).waiting = s.waiting := by obtain ⟨_, _, _, h⟩ := State.interrupt_changes s k d c e n; rw [h]
@[simp] theorem State.interrupt_ridgeErrors (s : State) (k d : Nat) (c e : BitVec 8) (n : Nat) : (s.interrupt k d c e n).ridgeErrors = s.ridgeErrors := by obtain ⟨_, _, _, h⟩ := State.interrupt_changes s k d c e n; rw [h]
@[simp] theorem State.interrupt_ridgeDiscards (s : State) (k d : Nat) (c e : BitVec 8) (n : Nat) : (s.interrupt k d c e n).ridgeDiscards = s.ridgeDiscards := by obtain ⟨_, _, _, h⟩ := State.interrupt_changes s k d c e n; rw [h]
@[simp] theorem State.interrupt_mem (s : State) (k d : Nat) (c e : BitVec 8) (n : Nat) : (s.interrupt k d c e n).mem = s.mem := by obtain ⟨_, _, _, h⟩ := State.interrupt_changes s k d c e n; rw [h]
@[simp] theorem State.interrupt_poison (s : State) (k d : Nat) (c e : BitVec 8) (n : Nat) : (s.interrupt k d c e n).poison = s.poison := by obtain ⟨_, _, _, h⟩ := State.interrupt_changes s k d c e n; rw [h]
@[simp] theorem State.interrupt_corrupt (s : State) (k d : Nat) (c e : BitVec 8) (n : Nat) : (s.interrupt k d c e n).corrupt = s.corrupt := by obtain ⟨_, _, _, h⟩ := State.interrupt_changes s k d c e n; rw [h]
@[simp] theorem State.interrupt_ident (s : State) (k d : Nat) (c e : BitVec 8) (n : Nat) : (s.interrupt k d c e n).ident = s.ident := by obtain ⟨_, _, _, h⟩ := State.interrupt_changes s k d c e n; rw [h]
@[simp] theorem State.interrupt_l2bad (s : State) (k d : Nat) (c e : BitVec 8) (n : Nat) : (s.interrupt k d c e n).l2bad = s.l2bad := by obtain ⟨_, _, _, h⟩ := State.interrupt_changes s k d c e n; rw [h]
@[simp] theorem State.interrupt_flaws (s : State) (k d : Nat) (c e : BitVec 8) (n : Nat) : (s.interrupt k d c e n).flaws = s.flaws := by obtain ⟨_, _, _, h⟩ := State.interrupt_changes s k d c e n; rw [h]
@[simp] theorem State.interrupt_dcb (s : State) (k d : Nat) (c e : BitVec 8) (n : Nat) : (s.interrupt k d c e n).dcb = s.dcb := by obtain ⟨_, _, _, h⟩ := State.interrupt_changes s k d c e n; rw [h]
@[simp] theorem State.interrupt_preempt (s : State) (k d : Nat) (c e : BitVec 8) (n : Nat) : (s.interrupt k d c e n).preempt = s.preempt := by obtain ⟨_, _, _, h⟩ := State.interrupt_changes s k d c e n; rw [h]
@[simp] theorem State.interrupt_mcb (s : State) (k d : Nat) (c e : BitVec 8) (n : Nat) : (s.interrupt k d c e n).mcb = s.mcb := by obtain ⟨_, _, _, h⟩ := State.interrupt_changes s k d c e n; rw [h]
@[simp] theorem State.interrupt_ctxs (s : State) (k d : Nat) (c e : BitVec 8) (n : Nat) : (s.interrupt k d c e n).ctxs = s.ctxs := by obtain ⟨_, _, _, h⟩ := State.interrupt_changes s k d c e n; rw [h]
@[simp] theorem State.interrupt_works (s : State) (k d : Nat) (c e : BitVec 8) (n : Nat) : (s.interrupt k d c e n).works = s.works := by obtain ⟨_, _, _, h⟩ := State.interrupt_changes s k d c e n; rw [h]
@[simp] theorem State.interrupt_graphs (s : State) (k d : Nat) (c e : BitVec 8) (n : Nat) : (s.interrupt k d c e n).graphs = s.graphs := by obtain ⟨_, _, _, h⟩ := State.interrupt_changes s k d c e n; rw [h]
@[simp] theorem State.interrupt_grids (s : State) (k d : Nat) (c e : BitVec 8) (n : Nat) : (s.interrupt k d c e n).grids = s.grids := by obtain ⟨_, _, _, h⟩ := State.interrupt_changes s k d c e n; rw [h]
@[simp] theorem State.interrupt_bents (s : State) (k d : Nat) (c e : BitVec 8) (n : Nat) : (s.interrupt k d c e n).bents = s.bents := by obtain ⟨_, _, _, h⟩ := State.interrupt_changes s k d c e n; rw [h]
@[simp] theorem State.interrupt_nextId (s : State) (k d : Nat) (c e : BitVec 8) (n : Nat) : (s.interrupt k d c e n).nextId = s.nextId := by obtain ⟨_, _, _, h⟩ := State.interrupt_changes s k d c e n; rw [h]
@[simp] theorem State.interrupt_gridCount (s : State) (k d : Nat) (c e : BitVec 8) (n : Nat) : (s.interrupt k d c e n).gridCount = s.gridCount := by obtain ⟨_, _, _, h⟩ := State.interrupt_changes s k d c e n; rw [h]
@[simp] theorem State.interrupt_dieHolds (s : State) (k d : Nat) (c e : BitVec 8) (n : Nat) : (s.interrupt k d c e n).dieHolds = s.dieHolds := by obtain ⟨_, _, _, h⟩ := State.interrupt_changes s k d c e n; rw [h]
@[simp] theorem State.interrupt_preHolds (s : State) (k d : Nat) (c e : BitVec 8) (n : Nat) : (s.interrupt k d c e n).preHolds = s.preHolds := by obtain ⟨_, _, _, h⟩ := State.interrupt_changes s k d c e n; rw [h]
@[simp] theorem State.interrupt_saveRuns (s : State) (k d : Nat) (c e : BitVec 8) (n : Nat) : (s.interrupt k d c e n).saveRuns = s.saveRuns := by obtain ⟨_, _, _, h⟩ := State.interrupt_changes s k d c e n; rw [h]
@[simp] theorem State.interrupt_cores (s : State) (k d : Nat) (c e : BitVec 8) (n : Nat) : (s.interrupt k d c e n).cores = s.cores := by obtain ⟨_, _, _, h⟩ := State.interrupt_changes s k d c e n; rw [h]
@[simp] theorem State.interrupt_l2 (s : State) (k d : Nat) (c e : BitVec 8) (n : Nat) : (s.interrupt k d c e n).l2 = s.l2 := by obtain ⟨_, _, _, h⟩ := State.interrupt_changes s k d c e n; rw [h]
@[simp] theorem State.interrupt_l2es (s : State) (k d : Nat) (c e : BitVec 8) (n : Nat) : (s.interrupt k d c e n).l2es = s.l2es := by obtain ⟨_, _, _, h⟩ := State.interrupt_changes s k d c e n; rw [h]
@[simp] theorem State.interrupt_l2tlb (s : State) (k d : Nat) (c e : BitVec 8) (n : Nat) : (s.interrupt k d c e n).l2tlb = s.l2tlb := by obtain ⟨_, _, _, h⟩ := State.interrupt_changes s k d c e n; rw [h]
@[simp] theorem State.interrupt_walkCache (s : State) (k d : Nat) (c e : BitVec 8) (n : Nat) : (s.interrupt k d c e n).walkCache = s.walkCache := by obtain ⟨_, _, _, h⟩ := State.interrupt_changes s k d c e n; rw [h]
@[simp] theorem State.interrupt_touches (s : State) (k d : Nat) (c e : BitVec 8) (n : Nat) : (s.interrupt k d c e n).touches = s.touches := by obtain ⟨_, _, _, h⟩ := State.interrupt_changes s k d c e n; rw [h]
@[simp] theorem State.interrupt_hot (s : State) (k d : Nat) (c e : BitVec 8) (n : Nat) : (s.interrupt k d c e n).hot = s.hot := by obtain ⟨_, _, _, h⟩ := State.interrupt_changes s k d c e n; rw [h]
@[simp] theorem State.interrupt_hotSeq (s : State) (k d : Nat) (c e : BitVec 8) (n : Nat) : (s.interrupt k d c e n).hotSeq = s.hotSeq := by obtain ⟨_, _, _, h⟩ := State.interrupt_changes s k d c e n; rw [h]
@[simp] theorem State.interrupt_hotAt (s : State) (k d : Nat) (c e : BitVec 8) (n : Nat) : (s.interrupt k d c e n).hotAt = s.hotAt := by obtain ⟨_, _, _, h⟩ := State.interrupt_changes s k d c e n; rw [h]
@[simp] theorem State.interrupt_prTold (s : State) (k d : Nat) (c e : BitVec 8) (n : Nat) : (s.interrupt k d c e n).prTold = s.prTold := by obtain ⟨_, _, _, h⟩ := State.interrupt_changes s k d c e n; rw [h]
@[simp] theorem State.interrupt_migrations (s : State) (k d : Nat) (c e : BitVec 8) (n : Nat) : (s.interrupt k d c e n).migrations = s.migrations := by obtain ⟨_, _, _, h⟩ := State.interrupt_changes s k d c e n; rw [h]
@[simp] theorem State.interrupt_oldFrames (s : State) (k d : Nat) (c e : BitVec 8) (n : Nat) : (s.interrupt k d c e n).oldFrames = s.oldFrames := by obtain ⟨_, _, _, h⟩ := State.interrupt_changes s k d c e n; rw [h]
@[simp] theorem State.interrupt_runs (s : State) (k d : Nat) (c e : BitVec 8) (n : Nat) : (s.interrupt k d c e n).runs = s.runs := by obtain ⟨_, _, _, h⟩ := State.interrupt_changes s k d c e n; rw [h]
@[simp] theorem State.interrupt_stackCtls (s : State) (k d : Nat) (c e : BitVec 8) (n : Nat) : (s.interrupt k d c e n).stackCtls = s.stackCtls := by obtain ⟨_, _, _, h⟩ := State.interrupt_changes s k d c e n; rw [h]
@[simp] theorem State.interrupt_heldWrites (s : State) (k d : Nat) (c e : BitVec 8) (n : Nat) : (s.interrupt k d c e n).heldWrites = s.heldWrites := by obtain ⟨_, _, _, h⟩ := State.interrupt_changes s k d c e n; rw [h]
@[simp] theorem State.interrupt_engines (s : State) (k d : Nat) (c e : BitVec 8) (n : Nat) : (s.interrupt k d c e n).engines = s.engines := by obtain ⟨_, _, _, h⟩ := State.interrupt_changes s k d c e n; rw [h]
@[simp] theorem State.interrupt_sysCopies (s : State) (k d : Nat) (c e : BitVec 8) (n : Nat) : (s.interrupt k d c e n).sysCopies = s.sysCopies := by obtain ⟨_, _, _, h⟩ := State.interrupt_changes s k d c e n; rw [h]
@[simp] theorem State.interrupt_cinvs (s : State) (k d : Nat) (c e : BitVec 8) (n : Nat) : (s.interrupt k d c e n).cinvs = s.cinvs := by obtain ⟨_, _, _, h⟩ := State.interrupt_changes s k d c e n; rw [h]
@[simp] theorem State.interrupt_teams (s : State) (k d : Nat) (c e : BitVec 8) (n : Nat) : (s.interrupt k d c e n).teams = s.teams := by obtain ⟨_, _, _, h⟩ := State.interrupt_changes s k d c e n; rw [h]
@[simp] theorem State.interrupt_agenda (s : State) (k d : Nat) (c e : BitVec 8) (n : Nat) : (s.interrupt k d c e n).agenda = s.agenda := by obtain ⟨_, _, _, h⟩ := State.interrupt_changes s k d c e n; rw [h]
@[simp] theorem State.interrupt_operand (s : State) (k d : Nat) (c e : BitVec 8) (n : Nat) : (s.interrupt k d c e n).operand = s.operand := by obtain ⟨_, _, _, h⟩ := State.interrupt_changes s k d c e n; rw [h]
@[simp] theorem State.interrupt_cur (s : State) (k d : Nat) (c e : BitVec 8) (n : Nat) : (s.interrupt k d c e n).cur = s.cur := by obtain ⟨_, _, _, h⟩ := State.interrupt_changes s k d c e n; rw [h]
@[simp] theorem State.interrupt_curSill (s : State) (k d : Nat) (c e : BitVec 8) (n : Nat) : (s.interrupt k d c e n).curSill = s.curSill := by obtain ⟨_, _, _, h⟩ := State.interrupt_changes s k d c e n; rw [h]
@[simp] theorem State.interrupt_free (s : State) (k d : Nat) (c e : BitVec 8) (n : Nat) : (s.interrupt k d c e n).free = s.free := by obtain ⟨_, _, _, h⟩ := State.interrupt_changes s k d c e n; rw [h]
@[simp] theorem State.interrupt_residueMiss (s : State) (k d : Nat) (c e : BitVec 8) (n : Nat) : (s.interrupt k d c e n).residueMiss = s.residueMiss := by obtain ⟨_, _, _, h⟩ := State.interrupt_changes s k d c e n; rw [h]

/-- The fields that State.logErr may change. -/
theorem State.logErr_changes (s : State) (a b c d : Nat) (x y : BitVec 8) (l : Nat) (w : DWord) : ∃ xsent xroot xout, s.logErr a b c d x y l w = { s with sent := xsent, root := xroot, outbox := xout } := by
  have key : ∀ (rt : Root) (b : Bool), ∃ xsent xroot xout,
      (if b then ({ s with root := rt } : State).interrupt 2 d x y 0 else { s with root := rt }) = { s with sent := xsent, root := xroot, outbox := xout } := by
    intro rt b
    split
    · exact State.interrupt_changes { s with root := rt } 2 d x y 0
    · exact ⟨s.sent, rt, s.outbox, rfl⟩
  exact key _ _

/-! State.logErr -/
@[simp] theorem State.logErr_time (s : State) (a b c d : Nat) (x y : BitVec 8) (l : Nat) (w : DWord) : (s.logErr a b c d x y l w).time = s.time := by obtain ⟨_, _, _, h⟩ := State.logErr_changes s a b c d x y l w; rw [h]
@[simp] theorem State.logErr_frac (s : State) (a b c d : Nat) (x y : BitVec 8) (l : Nat) (w : DWord) : (s.logErr a b c d x y l w).frac = s.frac := by obtain ⟨_, _, _, h⟩ := State.logErr_changes s a b c d x y l w; rw [h]
@[simp] theorem State.logErr_cycle (s : State) (a b c d : Nat) (x y : BitVec 8) (l : Nat) (w : DWord) : (s.logErr a b c d x y l w).cycle = s.cycle := by obtain ⟨_, _, _, h⟩ := State.logErr_changes s a b c d x y l w; rw [h]
@[simp] theorem State.logErr_dieOff (s : State) (a b c d : Nat) (x y : BitVec 8) (l : Nat) (w : DWord) : (s.logErr a b c d x y l w).dieOff = s.dieOff := by obtain ⟨_, _, _, h⟩ := State.logErr_changes s a b c d x y l w; rw [h]
@[simp] theorem State.logErr_timeHeld (s : State) (a b c d : Nat) (x y : BitVec 8) (l : Nat) (w : DWord) : (s.logErr a b c d x y l w).timeHeld = s.timeHeld := by obtain ⟨_, _, _, h⟩ := State.logErr_changes s a b c d x y l w; rw [h]
@[simp] theorem State.logErr_throttled (s : State) (a b c d : Nat) (x y : BitVec 8) (l : Nat) (w : DWord) : (s.logErr a b c d x y l w).throttled = s.throttled := by obtain ⟨_, _, _, h⟩ := State.logErr_changes s a b c d x y l w; rw [h]
@[simp] theorem State.logErr_ports (s : State) (a b c d : Nat) (x y : BitVec 8) (l : Nat) (w : DWord) : (s.logErr a b c d x y l w).ports = s.ports := by obtain ⟨_, _, _, h⟩ := State.logErr_changes s a b c d x y l w; rw [h]
@[simp] theorem State.logErr_dieLinks (s : State) (a b c d : Nat) (x y : BitVec 8) (l : Nat) (w : DWord) : (s.logErr a b c d x y l w).dieLinks = s.dieLinks := by obtain ⟨_, _, _, h⟩ := State.logErr_changes s a b c d x y l w; rw [h]
@[simp] theorem State.logErr_outstanding (s : State) (a b c d : Nat) (x y : BitVec 8) (l : Nat) (w : DWord) : (s.logErr a b c d x y l w).outstanding = s.outstanding := by obtain ⟨_, _, _, h⟩ := State.logErr_changes s a b c d x y l w; rw [h]
@[simp] theorem State.logErr_replies (s : State) (a b c d : Nat) (x y : BitVec 8) (l : Nat) (w : DWord) : (s.logErr a b c d x y l w).replies = s.replies := by obtain ⟨_, _, _, h⟩ := State.logErr_changes s a b c d x y l w; rw [h]
@[simp] theorem State.logErr_waiting (s : State) (a b c d : Nat) (x y : BitVec 8) (l : Nat) (w : DWord) : (s.logErr a b c d x y l w).waiting = s.waiting := by obtain ⟨_, _, _, h⟩ := State.logErr_changes s a b c d x y l w; rw [h]
@[simp] theorem State.logErr_ridgeErrors (s : State) (a b c d : Nat) (x y : BitVec 8) (l : Nat) (w : DWord) : (s.logErr a b c d x y l w).ridgeErrors = s.ridgeErrors := by obtain ⟨_, _, _, h⟩ := State.logErr_changes s a b c d x y l w; rw [h]
@[simp] theorem State.logErr_ridgeDiscards (s : State) (a b c d : Nat) (x y : BitVec 8) (l : Nat) (w : DWord) : (s.logErr a b c d x y l w).ridgeDiscards = s.ridgeDiscards := by obtain ⟨_, _, _, h⟩ := State.logErr_changes s a b c d x y l w; rw [h]
@[simp] theorem State.logErr_mem (s : State) (a b c d : Nat) (x y : BitVec 8) (l : Nat) (w : DWord) : (s.logErr a b c d x y l w).mem = s.mem := by obtain ⟨_, _, _, h⟩ := State.logErr_changes s a b c d x y l w; rw [h]
@[simp] theorem State.logErr_poison (s : State) (a b c d : Nat) (x y : BitVec 8) (l : Nat) (w : DWord) : (s.logErr a b c d x y l w).poison = s.poison := by obtain ⟨_, _, _, h⟩ := State.logErr_changes s a b c d x y l w; rw [h]
@[simp] theorem State.logErr_corrupt (s : State) (a b c d : Nat) (x y : BitVec 8) (l : Nat) (w : DWord) : (s.logErr a b c d x y l w).corrupt = s.corrupt := by obtain ⟨_, _, _, h⟩ := State.logErr_changes s a b c d x y l w; rw [h]
@[simp] theorem State.logErr_ident (s : State) (a b c d : Nat) (x y : BitVec 8) (l : Nat) (w : DWord) : (s.logErr a b c d x y l w).ident = s.ident := by obtain ⟨_, _, _, h⟩ := State.logErr_changes s a b c d x y l w; rw [h]
@[simp] theorem State.logErr_l2bad (s : State) (a b c d : Nat) (x y : BitVec 8) (l : Nat) (w : DWord) : (s.logErr a b c d x y l w).l2bad = s.l2bad := by obtain ⟨_, _, _, h⟩ := State.logErr_changes s a b c d x y l w; rw [h]
@[simp] theorem State.logErr_flaws (s : State) (a b c d : Nat) (x y : BitVec 8) (l : Nat) (w : DWord) : (s.logErr a b c d x y l w).flaws = s.flaws := by obtain ⟨_, _, _, h⟩ := State.logErr_changes s a b c d x y l w; rw [h]
@[simp] theorem State.logErr_dcb (s : State) (a b c d : Nat) (x y : BitVec 8) (l : Nat) (w : DWord) : (s.logErr a b c d x y l w).dcb = s.dcb := by obtain ⟨_, _, _, h⟩ := State.logErr_changes s a b c d x y l w; rw [h]
@[simp] theorem State.logErr_preempt (s : State) (a b c d : Nat) (x y : BitVec 8) (l : Nat) (w : DWord) : (s.logErr a b c d x y l w).preempt = s.preempt := by obtain ⟨_, _, _, h⟩ := State.logErr_changes s a b c d x y l w; rw [h]
@[simp] theorem State.logErr_mcb (s : State) (a b c d : Nat) (x y : BitVec 8) (l : Nat) (w : DWord) : (s.logErr a b c d x y l w).mcb = s.mcb := by obtain ⟨_, _, _, h⟩ := State.logErr_changes s a b c d x y l w; rw [h]
@[simp] theorem State.logErr_ctxs (s : State) (a b c d : Nat) (x y : BitVec 8) (l : Nat) (w : DWord) : (s.logErr a b c d x y l w).ctxs = s.ctxs := by obtain ⟨_, _, _, h⟩ := State.logErr_changes s a b c d x y l w; rw [h]
@[simp] theorem State.logErr_works (s : State) (a b c d : Nat) (x y : BitVec 8) (l : Nat) (w : DWord) : (s.logErr a b c d x y l w).works = s.works := by obtain ⟨_, _, _, h⟩ := State.logErr_changes s a b c d x y l w; rw [h]
@[simp] theorem State.logErr_graphs (s : State) (a b c d : Nat) (x y : BitVec 8) (l : Nat) (w : DWord) : (s.logErr a b c d x y l w).graphs = s.graphs := by obtain ⟨_, _, _, h⟩ := State.logErr_changes s a b c d x y l w; rw [h]
@[simp] theorem State.logErr_grids (s : State) (a b c d : Nat) (x y : BitVec 8) (l : Nat) (w : DWord) : (s.logErr a b c d x y l w).grids = s.grids := by obtain ⟨_, _, _, h⟩ := State.logErr_changes s a b c d x y l w; rw [h]
@[simp] theorem State.logErr_bents (s : State) (a b c d : Nat) (x y : BitVec 8) (l : Nat) (w : DWord) : (s.logErr a b c d x y l w).bents = s.bents := by obtain ⟨_, _, _, h⟩ := State.logErr_changes s a b c d x y l w; rw [h]
@[simp] theorem State.logErr_nextId (s : State) (a b c d : Nat) (x y : BitVec 8) (l : Nat) (w : DWord) : (s.logErr a b c d x y l w).nextId = s.nextId := by obtain ⟨_, _, _, h⟩ := State.logErr_changes s a b c d x y l w; rw [h]
@[simp] theorem State.logErr_gridCount (s : State) (a b c d : Nat) (x y : BitVec 8) (l : Nat) (w : DWord) : (s.logErr a b c d x y l w).gridCount = s.gridCount := by obtain ⟨_, _, _, h⟩ := State.logErr_changes s a b c d x y l w; rw [h]
@[simp] theorem State.logErr_dieHolds (s : State) (a b c d : Nat) (x y : BitVec 8) (l : Nat) (w : DWord) : (s.logErr a b c d x y l w).dieHolds = s.dieHolds := by obtain ⟨_, _, _, h⟩ := State.logErr_changes s a b c d x y l w; rw [h]
@[simp] theorem State.logErr_preHolds (s : State) (a b c d : Nat) (x y : BitVec 8) (l : Nat) (w : DWord) : (s.logErr a b c d x y l w).preHolds = s.preHolds := by obtain ⟨_, _, _, h⟩ := State.logErr_changes s a b c d x y l w; rw [h]
@[simp] theorem State.logErr_saveRuns (s : State) (a b c d : Nat) (x y : BitVec 8) (l : Nat) (w : DWord) : (s.logErr a b c d x y l w).saveRuns = s.saveRuns := by obtain ⟨_, _, _, h⟩ := State.logErr_changes s a b c d x y l w; rw [h]
@[simp] theorem State.logErr_cores (s : State) (a b c d : Nat) (x y : BitVec 8) (l : Nat) (w : DWord) : (s.logErr a b c d x y l w).cores = s.cores := by obtain ⟨_, _, _, h⟩ := State.logErr_changes s a b c d x y l w; rw [h]
@[simp] theorem State.logErr_l2 (s : State) (a b c d : Nat) (x y : BitVec 8) (l : Nat) (w : DWord) : (s.logErr a b c d x y l w).l2 = s.l2 := by obtain ⟨_, _, _, h⟩ := State.logErr_changes s a b c d x y l w; rw [h]
@[simp] theorem State.logErr_l2es (s : State) (a b c d : Nat) (x y : BitVec 8) (l : Nat) (w : DWord) : (s.logErr a b c d x y l w).l2es = s.l2es := by obtain ⟨_, _, _, h⟩ := State.logErr_changes s a b c d x y l w; rw [h]
@[simp] theorem State.logErr_l2tlb (s : State) (a b c d : Nat) (x y : BitVec 8) (l : Nat) (w : DWord) : (s.logErr a b c d x y l w).l2tlb = s.l2tlb := by obtain ⟨_, _, _, h⟩ := State.logErr_changes s a b c d x y l w; rw [h]
@[simp] theorem State.logErr_walkCache (s : State) (a b c d : Nat) (x y : BitVec 8) (l : Nat) (w : DWord) : (s.logErr a b c d x y l w).walkCache = s.walkCache := by obtain ⟨_, _, _, h⟩ := State.logErr_changes s a b c d x y l w; rw [h]
@[simp] theorem State.logErr_touches (s : State) (a b c d : Nat) (x y : BitVec 8) (l : Nat) (w : DWord) : (s.logErr a b c d x y l w).touches = s.touches := by obtain ⟨_, _, _, h⟩ := State.logErr_changes s a b c d x y l w; rw [h]
@[simp] theorem State.logErr_hot (s : State) (a b c d : Nat) (x y : BitVec 8) (l : Nat) (w : DWord) : (s.logErr a b c d x y l w).hot = s.hot := by obtain ⟨_, _, _, h⟩ := State.logErr_changes s a b c d x y l w; rw [h]
@[simp] theorem State.logErr_hotSeq (s : State) (a b c d : Nat) (x y : BitVec 8) (l : Nat) (w : DWord) : (s.logErr a b c d x y l w).hotSeq = s.hotSeq := by obtain ⟨_, _, _, h⟩ := State.logErr_changes s a b c d x y l w; rw [h]
@[simp] theorem State.logErr_hotAt (s : State) (a b c d : Nat) (x y : BitVec 8) (l : Nat) (w : DWord) : (s.logErr a b c d x y l w).hotAt = s.hotAt := by obtain ⟨_, _, _, h⟩ := State.logErr_changes s a b c d x y l w; rw [h]
@[simp] theorem State.logErr_prTold (s : State) (a b c d : Nat) (x y : BitVec 8) (l : Nat) (w : DWord) : (s.logErr a b c d x y l w).prTold = s.prTold := by obtain ⟨_, _, _, h⟩ := State.logErr_changes s a b c d x y l w; rw [h]
@[simp] theorem State.logErr_migrations (s : State) (a b c d : Nat) (x y : BitVec 8) (l : Nat) (w : DWord) : (s.logErr a b c d x y l w).migrations = s.migrations := by obtain ⟨_, _, _, h⟩ := State.logErr_changes s a b c d x y l w; rw [h]
@[simp] theorem State.logErr_oldFrames (s : State) (a b c d : Nat) (x y : BitVec 8) (l : Nat) (w : DWord) : (s.logErr a b c d x y l w).oldFrames = s.oldFrames := by obtain ⟨_, _, _, h⟩ := State.logErr_changes s a b c d x y l w; rw [h]
@[simp] theorem State.logErr_runs (s : State) (a b c d : Nat) (x y : BitVec 8) (l : Nat) (w : DWord) : (s.logErr a b c d x y l w).runs = s.runs := by obtain ⟨_, _, _, h⟩ := State.logErr_changes s a b c d x y l w; rw [h]
@[simp] theorem State.logErr_stackCtls (s : State) (a b c d : Nat) (x y : BitVec 8) (l : Nat) (w : DWord) : (s.logErr a b c d x y l w).stackCtls = s.stackCtls := by obtain ⟨_, _, _, h⟩ := State.logErr_changes s a b c d x y l w; rw [h]
@[simp] theorem State.logErr_heldWrites (s : State) (a b c d : Nat) (x y : BitVec 8) (l : Nat) (w : DWord) : (s.logErr a b c d x y l w).heldWrites = s.heldWrites := by obtain ⟨_, _, _, h⟩ := State.logErr_changes s a b c d x y l w; rw [h]
@[simp] theorem State.logErr_engines (s : State) (a b c d : Nat) (x y : BitVec 8) (l : Nat) (w : DWord) : (s.logErr a b c d x y l w).engines = s.engines := by obtain ⟨_, _, _, h⟩ := State.logErr_changes s a b c d x y l w; rw [h]
@[simp] theorem State.logErr_sysCopies (s : State) (a b c d : Nat) (x y : BitVec 8) (l : Nat) (w : DWord) : (s.logErr a b c d x y l w).sysCopies = s.sysCopies := by obtain ⟨_, _, _, h⟩ := State.logErr_changes s a b c d x y l w; rw [h]
@[simp] theorem State.logErr_cinvs (s : State) (a b c d : Nat) (x y : BitVec 8) (l : Nat) (w : DWord) : (s.logErr a b c d x y l w).cinvs = s.cinvs := by obtain ⟨_, _, _, h⟩ := State.logErr_changes s a b c d x y l w; rw [h]
@[simp] theorem State.logErr_teams (s : State) (a b c d : Nat) (x y : BitVec 8) (l : Nat) (w : DWord) : (s.logErr a b c d x y l w).teams = s.teams := by obtain ⟨_, _, _, h⟩ := State.logErr_changes s a b c d x y l w; rw [h]
@[simp] theorem State.logErr_agenda (s : State) (a b c d : Nat) (x y : BitVec 8) (l : Nat) (w : DWord) : (s.logErr a b c d x y l w).agenda = s.agenda := by obtain ⟨_, _, _, h⟩ := State.logErr_changes s a b c d x y l w; rw [h]
@[simp] theorem State.logErr_operand (s : State) (a b c d : Nat) (x y : BitVec 8) (l : Nat) (w : DWord) : (s.logErr a b c d x y l w).operand = s.operand := by obtain ⟨_, _, _, h⟩ := State.logErr_changes s a b c d x y l w; rw [h]
@[simp] theorem State.logErr_cur (s : State) (a b c d : Nat) (x y : BitVec 8) (l : Nat) (w : DWord) : (s.logErr a b c d x y l w).cur = s.cur := by obtain ⟨_, _, _, h⟩ := State.logErr_changes s a b c d x y l w; rw [h]
@[simp] theorem State.logErr_curSill (s : State) (a b c d : Nat) (x y : BitVec 8) (l : Nat) (w : DWord) : (s.logErr a b c d x y l w).curSill = s.curSill := by obtain ⟨_, _, _, h⟩ := State.logErr_changes s a b c d x y l w; rw [h]
@[simp] theorem State.logErr_free (s : State) (a b c d : Nat) (x y : BitVec 8) (l : Nat) (w : DWord) : (s.logErr a b c d x y l w).free = s.free := by obtain ⟨_, _, _, h⟩ := State.logErr_changes s a b c d x y l w; rw [h]
@[simp] theorem State.logErr_residueMiss (s : State) (a b c d : Nat) (x y : BitVec 8) (l : Nat) (w : DWord) : (s.logErr a b c d x y l w).residueMiss = s.residueMiss := by obtain ⟨_, _, _, h⟩ := State.logErr_changes s a b c d x y l w; rw [h]

end Sys2Proof.Machine
end

