-- ==== Sys2Proof/Laws/Registers.lean ====
section
/-! SUPPORT. Registers read after registers are written. -/
namespace Sys2Proof
open Machine

theorem vector_getD {α : Type} {n : Nat} (v : Vector α n) (k : Nat) (d : α) : v.getD k d = if h : k < n then v[k] else d := by
  obtain ⟨a, rfl⟩ := v
  rfl

theorem vmod_getD {α : Type} {n : Nat} (v : Vector α n) (i k : Nat) (f : α → α) (d : α) :
    (vmod v i f).getD k d = if k = i ∧ i < n then f (v.getD k d) else v.getD k d := by
  unfold vmod
  split
  · rename_i h
    simp only [vector_getD]
    by_cases hk : k < n
    · rw [dif_pos hk, dif_pos hk, Vector.getElem_set]
      by_cases e : i = k
      · subst e; simp [h]
      · have : ¬ k = i := fun q => e q.symm
        simp [e, this]
    · have : ¬ (k = i ∧ i < n) := by omega
      simp [hk, this]
  · rename_i h
    simp [h]

theorem lanesMerge_getD (a b : Lanes) (m : Mask) (l : Nat) (h : l < 32) :
    (lanesMerge a m b).toArray.getD l 0 = if m.getLsbD l then b.toArray.getD l 0 else a.toArray.getD l 0 := by
  have h' : l < numLanes := h
  simp [lanesMerge, Array.getD, h']

theorem lanesFn_getD (f : Nat → Word) (l : Nat) (h : l < 32) : (lanesFn f).toArray.getD l 0 = f l := by
  have h' : l < numLanes := h
  simp [lanesFn, Array.getD, h']

/-- A vector register read after lanes are written (R120). -/
theorem vlane_setV (g : Group) (d k l : Nat) (m : Mask) (x : Lanes) (hk : k < 256) (hl : l < 32) :
    vlane (g.setV d m x) k l = if k = d ∧ m.getLsbD l then x.toArray.getD l 0 else vlane g k l := by
  simp only [vlane, Group.setV, vmod_getD]
  by_cases e : k = d
  · subst e
    simp only [true_and, hk, if_true, lanesMerge_getD _ _ _ _ hl]
  · simp [e]

/-- A predicate read after lanes are written: p0 discards (R124). -/
theorem plane_setP (g : Group) (d k l : Nat) (m x : Mask) (hk : k < 8) (hl : l < 32) :
    plane (g.setP d m x) k l = if k = d ∧ k ≠ 0 ∧ m.getLsbD l then x.getLsbD l else plane g k l := by
  simp only [plane, Group.setP]
  split
  · rename_i h
    by_cases e : k = d
    · simp [h, e]
    · simp [e]
  · rename_i h
    rw [vmod_getD]
    by_cases e : k = d
    · subst e
      have hl' : l < 32 := hl
      simp only [true_and, hk, if_true, ne_eq, h, not_false_eq_true]
      rw [BitVec.getLsbD_or, BitVec.getLsbD_and, BitVec.getLsbD_and, BitVec.getLsbD_not]
      cases m.getLsbD l <;> simp [hl']
    · simp [e]

theorem strand_modStrand (g : Group) (n k : Nat) (f : Strand → Strand) (h : n = handlerSid → g.handler.isSome)
    (hn : n ≤ handlerSid) : (g.modStrand n f).strand k = if k = n then f (g.strand n) else g.strand k := by
  unfold Group.modStrand Group.strand
  by_cases hh : n = handlerSid
  · simp only [hh, if_true]
    by_cases hk : k = handlerSid
    · obtain ⟨x, hx⟩ := Option.isSome_iff_exists.1 (h hh)
      simp [hk, hx]
    · simp [hk]
  · simp only [hh, if_false]
    by_cases hk : k = handlerSid
    · have : ¬ handlerSid = n := fun e => hh e.symm
      simp [hk, this]
    · have h16 : n < 16 := by simp only [handlerSid] at *; omega
      simp only [hk, if_false, vmod_getD, h16, and_true]
      by_cases e : k = n
      · simp [e]
      · simp [e]

theorem strand_setScalar_fields (g : Group) (n d : Nat) (x : DWord) (k : Nat) :
    ∃ p, (g.setScalar n d x).strand k = { g.strand k with priv := p } := by
  unfold Group.setScalar
  split
  · exact ⟨_, rfl⟩
  split
  · exact ⟨_, rfl⟩
  split
  · exact ⟨_, rfl⟩
  unfold Group.modStrand
  split
  · simp only [Group.strand]
    split
    · cases g.handler with
      | none => exact ⟨_, rfl⟩
      | some st => exact ⟨_, rfl⟩
    · exact ⟨_, rfl⟩
  · simp only [Group.strand]
    split
    · exact ⟨_, rfl⟩
    · rw [vmod_getD]
      split
      · exact ⟨_, rfl⟩
      · exact ⟨_, rfl⟩

theorem strand_congr (g g' : Group) (k : Nat) (h1 : g'.strands = g.strands) (h2 : g'.handler = g.handler) : g'.strand k = g.strand k := by
  unfold Group.strand; rw [h1, h2]

theorem scalarOf_sup (g : Group) (n k : Nat) (h0 : ¬k = 0) (h : n = handlerSid ∧ 144 ≤ k ∧ k < 156) : scalarOf g n k = g.sup.getD (k - 144) 0 := by
  rw [scalarOf, if_neg h0, if_pos h]

theorem scalarOf_s (g : Group) (n k : Nat) (h0 : ¬k = 0) (h : ¬(n = handlerSid ∧ 144 ≤ k ∧ k < 156)) (h1 : k < 156) : scalarOf g n k = g.s.getD k 0 := by
  rw [scalarOf, if_neg h0, if_neg h, if_pos h1]

theorem scalarOf_priv (g : Group) (n k : Nat) (h1 : ¬k < 156) : scalarOf g n k = (g.strand n).priv.getD (k - 156) 0 := by
  have h0 : ¬k = 0 := by omega
  have h : ¬(n = handlerSid ∧ 144 ≤ k ∧ k < 156) := by omega
  rw [scalarOf, if_neg h0, if_neg h, if_neg h1]

/-- A scalar read after one is written: s0 discards, and the handler strand has its own 144 to 155 (R122, R273). -/
theorem scalarOf_setScalar (g : Group) (n d k : Nat) (x : DWord) (hk : k < 160) (hn : n ≤ handlerSid)
    (hh : n = handlerSid → g.handler.isSome) :
    scalarOf (g.setScalar n d x) n k = if k = d ∧ k ≠ 0 then x else scalarOf g n k := by
  by_cases h0 : d = 0
  · have : ¬ (k = d ∧ k ≠ 0) := by omega
    rw [Group.setScalar, if_pos h0, if_neg this]
  by_cases k0 : k = 0
  · have : ¬ (k = d ∧ k ≠ 0) := by omega
    rw [if_neg this, scalarOf, scalarOf, if_pos k0, if_pos k0]
  have kd : (k = d ∧ k ≠ 0) ↔ (k = d) := ⟨fun e => e.1, fun e => ⟨e, k0⟩⟩
  simp only [kd]
  by_cases hs : n = handlerSid ∧ 144 ≤ d ∧ d < 156
  · rw [Group.setScalar, if_neg h0, if_pos hs]
    by_cases hk2 : n = handlerSid ∧ 144 ≤ k ∧ k < 156
    · have e : (k - 144 = d - 144 ∧ d - 144 < 12) ↔ (k = d) := by constructor <;> intro q <;> omega
      rw [scalarOf_sup _ _ _ k0 hk2, scalarOf_sup _ _ _ k0 hk2, vmod_getD]
      simp only [e]
    · have q : ¬ k = d := by intro e; subst e; exact hk2 hs
      rw [if_neg q]
      by_cases h1 : k < 156
      · rw [scalarOf_s _ _ _ k0 hk2 h1, scalarOf_s _ _ _ k0 hk2 h1]
      · rw [scalarOf_priv _ _ _ h1, scalarOf_priv _ _ _ h1, strand_congr g { g with sup := vmod g.sup (d - 144) fun _ => x } n rfl rfl]
  by_cases h156 : d < 156
  · rw [Group.setScalar, if_neg h0, if_neg hs, if_pos h156]
    by_cases hk2 : n = handlerSid ∧ 144 ≤ k ∧ k < 156
    · have q : ¬ k = d := by intro e; subst e; exact hs hk2
      rw [scalarOf_sup _ _ _ k0 hk2, scalarOf_sup _ _ _ k0 hk2, if_neg q]
    · by_cases h1 : k < 156
      · rw [scalarOf_s _ _ _ k0 hk2 h1, scalarOf_s _ _ _ k0 hk2 h1, vmod_getD]
        simp only [h156, and_true]
      · have q : ¬ k = d := by omega
        rw [scalarOf_priv _ _ _ h1, scalarOf_priv _ _ _ h1, if_neg q, strand_congr g { g with s := vmod g.s d fun _ => x } n rfl rfl]
  · rw [Group.setScalar, if_neg h0, if_neg hs, if_neg h156]
    by_cases h1 : k < 156
    · have q : ¬ k = d := by omega
      rw [if_neg q]
      by_cases hk2 : n = handlerSid ∧ 144 ≤ k ∧ k < 156
      · rw [scalarOf_sup _ _ _ k0 hk2, scalarOf_sup _ _ _ k0 hk2, Group.modStrand_sup]
      · rw [scalarOf_s _ _ _ k0 hk2 h1, scalarOf_s _ _ _ k0 hk2 h1, Group.modStrand_s]
    · have e : (k - 156 = d - 156 ∧ d - 156 < 4) ↔ (k = d) := by constructor <;> intro q <;> omega
      rw [scalarOf_priv _ _ _ h1, scalarOf_priv _ _ _ h1, strand_modStrand _ _ _ _ hh hn, if_pos rfl, vmod_getD]
      simp only [e]

/-! ### Lists of writes -/

/-- A value that each write of a list replaces at its own place holds what the list leaves there; ok is what the writes keep. -/
theorem lastOf_foldl {α β γ : Type} (k : Nat) (get : β → γ) (val : α → γ) (step : β → Nat × α → β) (ok : β → Prop)
    (hok : ∀ b x, ok b → ok (step b x)) (h : ∀ b x, ok b → get (step b x) = if x.1 = k then val x.2 else get b) (xs : List (Nat × α)) (b : β) (hb : ok b) :
    get (xs.foldl step b) = ((lastOf xs k).map val).getD (get b) := by
  have gen : ∀ (ys : List (Nat × α)) (c : β) (o : Option α), ok c → get c = (o.map val).getD (get b) →
      get (ys.foldl step c) = ((ys.foldl (fun r x => if x.1 = k then some x.2 else r) o).map val).getD (get b) := by
    intro ys
    induction ys with
    | nil => intro c o _ e; exact e
    | cons x r ih =>
      intro c o hc e
      simp only [List.foldl_cons]
      apply ih _ _ (hok c x hc)
      rw [h c x hc]
      by_cases q : x.1 = k
      · simp [q]
      · simp [q, e]
  exact gen xs b none hb rfl

end Sys2Proof
end

