-- ==== Sys2Proof/Laws/Windows.lean ====
section
/-! SUPPORT. What a translation, a cached read and a read of a constant window leave: the teams, the bents, the contexts, time. -/
namespace Sys2Proof
open Machine

/-- What translations and cached reads leave. -/
structure Kept (s t : State) : Prop where
  teams : t.teams = s.teams
  bents : t.bents = s.bents
  ctxs : t.ctxs = s.ctxs
  time : t.time = s.time
  dieOff : t.dieOff = s.dieOff
  cycle : t.cycle = s.cycle
  residueMiss : t.residueMiss = s.residueMiss
  cur : t.cur = s.cur

theorem Kept.rfl_ (s : State) : Kept s s := ⟨rfl, rfl, rfl, rfl, rfl, rfl, rfl, rfl⟩

theorem Kept.trans {a b c : State} (h : Kept a b) (k : Kept b c) : Kept a c :=
  ⟨k.teams.trans h.teams, k.bents.trans h.bents, k.ctxs.trans h.ctxs, k.time.trans h.time, k.dieOff.trans h.dieOff, k.cycle.trans h.cycle,
    k.residueMiss.trans h.residueMiss, k.cur.trans h.cur⟩

theorem kept_modCore (s : State) (c : Nat) (f : Core → Core) : Kept s (s.modCore c f) := ⟨rfl, rfl, rfl, rfl, rfl, rfl, rfl, rfl⟩

theorem kept_interrupt (s : State) (k d : Nat) (c e : BitVec 8) (n : Nat) : Kept s (s.interrupt k d c e n) := by
  constructor <;> simp

theorem kept_logErr (s : State) (a b c d : Nat) (x y : BitVec 8) (l : Nat) (w : DWord) : Kept s (s.logErr a b c d x y l w) := by
  constructor <;> simp

theorem kept_sto (s : State) (pa : Nat) (bs : List Byte) : Kept s (s.sto pa bs) := by
  unfold State.sto
  split
  · exact ⟨rfl, rfl, rfl, rfl, rfl, rfl, rfl, rfl⟩
  · exact ⟨rfl, rfl, rfl, rfl, rfl, rfl, rfl, rfl⟩

theorem kept_consumed (s : State) (c : BitVec 8) (pa n : Nat) : Kept s (s.consumed c pa n) := (kept_logErr ..).trans (kept_interrupt ..)

/-- A choice between two states leaves what both leave. -/
theorem kept_ite {s a b : State} {c : Prop} [Decidable c] (ha : Kept s a) (hb : Kept s b) : Kept s (if c then a else b) := by
  split
  · exact ha
  · exact hb

theorem kept_zeroFrame (s : State) (f : Nat) : Kept s (zeroFrame s f) :=
  kept_ite (Kept.trans (b := { s with cores := s.cores.map (Core.dropFrame f) }) ⟨rfl, rfl, rfl, rfl, rfl, rfl, rfl, rfl⟩ (kept_sto ..))
    ⟨rfl, rfl, rfl, rfl, rfl, rfl, rfl, rfl⟩

theorem kept_takeFrame (die : Nat) (ctx : BitVec 8) : ∀ (n : Nat) (s : State), Kept s (State.takeFrame die ctx n s).1
  | 0, s => Kept.rfl_ s
  | n + 1, s => by
    unfold State.takeFrame
    dsimp only
    have h0 (m : Mcb) : Kept s { s with mcb := m } := ⟨rfl, rfl, rfl, rfl, rfl, rfl, rfl, rfl⟩
    have h1 (m : Mcb) (b : Prop) [Decidable b] : Kept s (if b then ({ s with mcb := m } : State).interrupt 1 die ctx 0 0 else { s with mcb := m }) :=
      kept_ite ((h0 m).trans (kept_interrupt ..)) (h0 m)
    split
    · exact kept_ite (kept_interrupt ..) (Kept.rfl_ s)
    split
    · exact (h1 _ _).trans ((kept_consumed ..).trans (kept_takeFrame die ctx n _))
    split
    · exact h1 _ _
    · exact (h1 _ _).trans ((kept_logErr ..).trans (kept_takeFrame die ctx n _))

theorem kept_backPage (s : State) (die : Nat) (ctx : BitVec 8) (ea e : Nat) : Kept s (s.backPage die ctx ea e).1 := by
  unfold State.backPage
  split
  · exact Kept.rfl_ s
  · dsimp only
    have h := kept_takeFrame die ctx ((((s.mcb.ft.getD die Ring.absent).tail - (s.mcb.ft.getD die Ring.absent).head).toNat) + 1) s
    revert h
    split
    · rename_i h1; intro h; rw [h1] at h; exact h
    · rename_i h1; intro h; rw [h1] at h
      exact h.trans ((kept_zeroFrame ..).trans (kept_sto ..))

theorem kept_leafEntry (s : State) (w : Who) (va ea e size level die : Nat) : Kept s (s.leafEntry w va ea e size level die).1 := by
  unfold State.leafEntry
  dsimp only
  split
  · split <;> exact Kept.rfl_ s
  · exact Kept.rfl_ s
  · split
    · exact Kept.rfl_ s
    · have h := kept_backPage s die w.ctx ea e
      revert h
      split <;> (rename_i h1; intro h; rw [h1] at h; exact h)
  · split
    · exact Kept.rfl_ s
    · split
      · exact Kept.rfl_ s
      · exact kept_logErr s 7 0x0A 4 (dieOfPa ea) w.ctx 0x06#8 va 0
  · exact Kept.rfl_ s

theorem kept_keepTable (s : State) (w : Who) (l va t : Nat) : Kept s (s.keepTable w l va t) := by
  unfold State.keepTable
  split
  · exact Kept.rfl_ s
  · exact ⟨rfl, rfl, rfl, rfl, rfl, rfl, rfl, rfl⟩

/-! ### The L2 -/

theorem kept_stackRequest (s : State) (c : BitVec 8) (p d a : Nat) (r : Option Nat) : Kept s (s.stackRequest c p d a r) := by
  have h : Kept s (if s.mcb.mode.getLsbD 0 then { s with hot := vmod s.hot (stackOfPa a) fun h => h.count (pageKey c p) d } else s) :=
    kept_ite ⟨rfl, rfl, rfl, rfl, rfl, rfl, rfl, rfl⟩ (Kept.rfl_ s)
  cases r with
  | none => exact h
  | some r => exact h.trans (kept_sto ..)

theorem kept_foldl {α : Type} (f : State → α → State) (hf : ∀ s a, Kept s (f s a)) : ∀ (l : List α) (s : State), Kept s (l.foldl f s)
  | [], s => Kept.rfl_ s
  | a :: l, s => (hf s a).trans (kept_foldl f hf l (f s a))

theorem kept_correctWord (s : State) (w : Nat) : Kept s (s.correctWord w) :=
  kept_ite (Kept.trans (b := { s with corrupt := s.corrupt.filter (· ≠ w) }) ⟨rfl, rfl, rfl, rfl, rfl, rfl, rfl, rfl⟩ (kept_logErr ..)) (Kept.rfl_ s)

theorem kept_spoil (s : State) (x : L2Line) : Kept s (s.spoil x) :=
  Kept.trans (b := { s with l2bad := s.l2bad.filter fun w => w / 4 ≠ x.line, poison := s.poison ++ s.badOf x }) ⟨rfl, rfl, rfl, rfl, rfl, rfl, rfl, rfl⟩
    (kept_foldl _ (fun _ _ => (kept_logErr ..).trans (kept_interrupt ..)) _ _)

theorem kept_renewL2 (s : State) (x : L2Line) : Kept s (s.renewL2 x) :=
  kept_ite (Kept.rfl_ s) (Kept.trans (b := { s with l2bad := s.l2bad.filter fun w => w / 4 ≠ x.line }) ⟨rfl, rfl, rfl, rfl, rfl, rfl, rfl, rfl⟩
    ((kept_logErr ..).trans (kept_stackRequest ..)))

theorem kept_dropL2 (s : State) (x : L2Line) : Kept s (s.dropL2 x) := by
  unfold State.dropL2
  dsimp only
  have h1 : Kept s (if x.dirty then s.spoil x else { s with l2bad := s.l2bad.filter fun w => w / 4 ≠ x.line }) :=
    kept_ite (kept_spoil s x) ⟨rfl, rfl, rfl, rfl, rfl, rfl, rfl, rfl⟩
  revert h1
  generalize (if x.dirty then s.spoil x else { s with l2bad := s.l2bad.filter fun w => w / 4 ≠ x.line }) = s1
  intro h1
  refine h1.trans ?_
  have h2 (es : List (Nat × Nat)) (l : List L2Line) : Kept s1 { s1 with l2 := l, l2es := es } := ⟨rfl, rfl, rfl, rfl, rfl, rfl, rfl, rfl⟩
  have h3 (l : List L2Line) : Kept s1 { s1 with l2 := l } := ⟨rfl, rfl, rfl, rfl, rfl, rfl, rfl, rfl⟩
  repeat' split
  all_goals first
    | exact (h2 _ _).trans (kept_stackRequest ..)
    | exact (h3 _).trans (kept_stackRequest ..)
    | exact h2 _ _
    | exact h3 _

theorem kept_roomL2 (s : State) (pa : Nat) : Kept s (s.roomL2 pa) := by
  unfold State.roomL2
  dsimp only
  repeat' split
  all_goals first
    | exact Kept.rfl_ s
    | exact kept_dropL2 ..

theorem kept_useEnergy (s : State) (k : Nat) (c : BitVec 8) (n m : Nat) : Kept s (s.useEnergy k c n m) := by constructor <;> simp

theorem kept_useL2 (s : State) (w : Who) (pa va cls : Nat) : Kept s (s.useL2 w pa va cls) := by
  unfold State.useL2
  split
  · exact (kept_renewL2 ..).trans ⟨rfl, rfl, rfl, rfl, rfl, rfl, rfl, rfl⟩
  · dsimp only
    have h (d : Nat) := ((kept_roomL2 s pa).trans (kept_foldl _ kept_correctWord (upFrom (4 * lineOf pa) 4) _)).trans
      (kept_stackRequest _ w.ctx (va / 65536) d pa w.record)
    cases w.core with
    | none => exact (h _).trans ⟨rfl, rfl, rfl, rfl, rfl, rfl, rfl, rfl⟩
    | some c => exact ((h _).trans (kept_useEnergy _ c w.ctx 5 1)).trans ⟨rfl, rfl, rfl, rfl, rfl, rfl, rfl, rfl⟩

theorem kept_sample (s : State) (core : Nat) (c : BitVec 8) (va kind : Nat) : Kept s (s.sample core c va kind) := by
  unfold State.sample
  dsimp only
  have h1 : Kept s (s.modCore core fun c => { c with sampled := (s.core core).sampled + 1 }) := kept_modCore ..
  revert h1
  generalize (s.modCore core fun c => { c with sampled := (s.core core).sampled + 1 }) = s1
  intro h1
  have h2 (m : Mcb) : Kept s1 { s1 with mcb := m } := ⟨rfl, rfl, rfl, rfl, rfl, rfl, rfl, rfl⟩
  have h3 (pa : Nat) (bs : List Byte) : Kept s1 { s1.sto pa bs with mcb := { (s1.sto pa bs).mcb with smp := { s1.mcb.smp with tail := s1.mcb.smp.tail + 1 } } } :=
    (kept_sto s1 pa bs).trans ⟨rfl, rfl, rfl, rfl, rfl, rfl, rfl, rfl⟩
  repeat' split
  · exact Kept.rfl_ s
  · exact h1
  · exact h1.trans (h2 _)
  · exact h1.trans ((h3 _ _).trans (kept_interrupt ..))
  · exact h1.trans (h3 _ _)

theorem kept_readEntry (s : State) (w : Who) (va ea : Nat) : Kept s (s.readEntry w va ea) := kept_ite (Kept.rfl_ s) (kept_useL2 ..)

theorem kept_walkFrom (w : Who) (va : Nat) : ∀ (n : Nat) (s : State) (t : Nat), Kept s (s.walkFrom w va n t).1
  | 0, s, t => by
    unfold State.walkFrom
    dsimp only
    repeat' split
    · exact Kept.rfl_ s
    · exact Kept.rfl_ s
    · exact kept_readEntry ..
    · exact (kept_readEntry ..).trans (kept_leafEntry ..)
    all_goals exact (kept_readEntry ..).trans (kept_leafEntry ..)
  | n + 1, s, t => by
    unfold State.walkFrom
    dsimp only
    split
    · exact kept_walkFrom w va n s _
    split
    · exact Kept.rfl_ s
    split
    · exact Kept.rfl_ s
    refine Kept.trans (kept_readEntry s w va (entryAddr (n + 1) t va)) ?_
    generalize s.readEntry w va (entryAddr (n + 1) t va) = s1
    split
    · exact Kept.rfl_ _
    split
    · generalize (if n + 1 = 1 then 256 else 4096) = k
      split
      · exact Kept.rfl_ _
      · exact (kept_keepTable ..).trans (kept_walkFrom w va n _ _)
    · exact Kept.rfl_ _
    · split
      · exact kept_leafEntry ..
      · exact Kept.rfl_ _
    · split
      · exact kept_leafEntry ..
      · exact Kept.rfl_ _
    · exact Kept.rfl_ _

theorem kept_lookup (s : State) (w : Who) (va : Nat) : Kept s (s.lookup w va).1 := by
  unfold State.lookup
  split
  · exact Kept.rfl_ s
  split
  · exact kept_walkFrom ..
  dsimp only
  split
  · exact Kept.rfl_ s
  split
  · exact kept_modCore ..
  · rename_i c _ _ _ _ _ _ _ _
    have h := kept_walkFrom w va 4 s c.ptroot
    revert h
    split
    · rename_i h1; intro h; rw [h1] at h
      exact h.trans ⟨rfl, rfl, rfl, rfl, rfl, rfl, rfl, rfl⟩
    · intro h; exact h

theorem kept_lookAgain (s : State) (w : Who) (va : Nat) : Kept s (s.lookAgain w va).1 := by
  unfold State.lookAgain
  split
  · exact kept_lookup ..
  · refine Kept.trans ?_ (kept_lookup ..)
    exact ⟨rfl, rfl, rfl, rfl, rfl, rfl, rfl, rfl⟩

theorem kept_lookupFor (s : State) (w : Who) (va : Nat) (n : Need) : Kept s (s.lookupFor w va n).1 := by
  unfold State.lookupFor
  have h := kept_lookup s w va
  revert h
  split
  · rename_i h1; intro h; rw [h1] at h
    split
    · exact h
    · exact h.trans (kept_lookAgain ..)
  · intro h; exact h

theorem kept_place (s : State) (w : Who) (va : Nat) (n : Need) : Kept s (s.place w va n).1 := by
  unfold State.place
  split
  · exact Kept.rfl_ s
  · have h := kept_lookupFor s w va n
    revert h
    split
    · rename_i h1; intro h; rw [h1] at h
      dsimp only
      split
      · exact h
      · split <;> exact h
    all_goals (rename_i h1; intro h; rw [h1] at h; exact h)

theorem kept_sendSlots (k : Nat) : ∀ (n : Nat) (l : List (List Byte)) (s : State), Kept s (State.sendSlots k n l s)
  | 0, _, s => Kept.rfl_ s
  | n + 1, l, s => by
    unfold State.sendSlots
    split
    · exact Kept.rfl_ s
    · refine Kept.trans ?_ (kept_sendSlots k n _ _)
      exact ⟨rfl, rfl, rfl, rfl, rfl, rfl, rfl, rfl⟩

theorem kept_sendOn (s : State) (k : Nat) (t : Txn) : Kept s (s.sendOn k t) :=
  (kept_sendSlots k (txnSlots t).length (txnSlots t) s).trans ⟨rfl, rfl, rfl, rfl, rfl, rfl, rfl, rfl⟩

theorem kept_sendTxn (s : State) (t : Txn) : Kept s (s.sendTxn t) := by
  unfold State.sendTxn
  split
  · exact Kept.rfl_ s
  · refine kept_ite ⟨rfl, rfl, rfl, rfl, rfl, rfl, rfl, rfl⟩ (Kept.trans ?_ (kept_sendOn _ _ _))
    exact ⟨rfl, rfl, rfl, rfl, rfl, rfl, rfl, rfl⟩

theorem kept_flitEnergy (s : State) (a : Await) (t : Txn) : Kept s (s.flitEnergy a t) := by
  unfold State.flitEnergy
  split
  · exact kept_useEnergy ..
  · exact Kept.rfl_ s

theorem kept_request {s s' : State} {p : BitVec 10} {t : Txn} {a : Await} (h : s.request p t a = .sent s') : Kept s s' := by
  unfold State.request at h
  by_cases h1 : (!s.anyPort) = true
  · rw [if_pos h1] at h; nomatch h
  rw [if_neg h1] at h
  by_cases h2 : s.requestsFull a = true
  · rw [if_pos h2] at h; nomatch h
  rw [if_neg h2] at h
  revert h
  generalize leastNot _ 4096 0 = o
  intro h
  cases o with
  | none => nomatch h
  | some n =>
    cases h
    refine Kept.trans ?_ (kept_sendTxn _ _)
    refine Kept.trans (kept_flitEnergy s a { t with dst := p, src := s.root.devNum, tag := BitVec.ofNat 12 n }) ?_
    exact ⟨rfl, rfl, rfl, rfl, rfl, rfl, rfl, rfl⟩

/-- What an outcome leaves, however it ends. -/
def Res.Keeps {α : Type} (s : State) (r : Res α) : Prop :=
  match r with
  | .ok t _ | .hold t _ | .trap t _ | .gone t _ => Kept s t

theorem keeps_bind {α β : Type} {s : State} {r : Res α} {f : State → α → Res β} (h : Res.Keeps s r)
    (k : ∀ t a, Kept s t → Res.Keeps s (f t a)) : Res.Keeps s (r.bind f) := by
  cases r with
  | ok t a => exact k t a h
  | hold t w => exact h
  | trap t w => exact h
  | gone t => exact h

theorem keeps_cachedWord (s : State) (w : Who) (core va : Nat) (code : Bool) : Res.Keeps s (s.cachedWord w core va code) := by
  unfold State.cachedWord
  dsimp only
  have hp := kept_place s w va (if code then .exec else .read)
  generalize s.place w va (if code then .exec else .read) = q at hp ⊢
  obtain ⟨s1, pl⟩ := q
  have hs (t : State) (b : Bool) : Kept t (if b then t.sample core w.ctx va 3 else t) := kept_ite (kept_sample ..) (Kept.rfl_ t)
  cases pl with
  | here pa b =>
    dsimp only
    generalize List.find? _ _ = o
    cases o with
    | some l => exact hp
    | none =>
      dsimp only
      split
      · exact hp
      · exact kept_ite (hp.trans ((hs s1 code).trans (kept_ite (Kept.rfl_ _) (kept_useL2 ..))))
          ((hp.trans ((hs s1 code).trans (kept_ite (Kept.rfl_ _) (kept_useL2 ..)))).trans (kept_modCore _ _ _))
  | peer dev pa =>
    dsimp only
    generalize List.find? _ _ = o
    cases o with
    | some l =>
      dsimp only
      repeat' split
      · exact hp
      all_goals exact hp.trans (kept_modCore _ _ _)
    | none =>
      dsimp only
      split
      · exact hp
      · split
        · rename_i h2; exact (hp.trans (hs s1 code)).trans (kept_request h2)
        · exact hp
        · exact hp
  | prot => exact hp
  | nonres => exact hp
  | hold => exact hp
  | abort => exact hp

/-- A read of a constant window (R195, R313). -/
theorem keeps_windowWord (s : State) (t : Team) (win ofs : Nat) : Res.Keeps s (s.windowWord t win ofs) := keeps_cachedWord ..

/-- The window operand read (R313): the instruction as it issues keeps all but its operand. -/
theorem readWindow_ok {s s' : State} {i j : Iss} (h : s.readWindow j = .ok s' i) : Kept s s' ∧ ∃ w, i = { j with wv := w } := by
  unfold State.readWindow at h
  split at h
  · cases h1 : s.windowWord j.t j.x.win j.x.ofs with
    | ok s1 a1 =>
      have k1 := keeps_windowWord s j.t j.x.win j.x.ofs
      rw [h1] at h k1
      simp only [Res.bind] at h
      split at h
      · cases h2 : s1.windowWord j.t j.x.win (j.x.ofs + 1) with
        | ok s2 a2 =>
          have k2 := keeps_windowWord s1 j.t j.x.win (j.x.ofs + 1)
          rw [h2] at h k2
          dsimp only at h
          cases h
          exact ⟨Kept.trans k1 k2, _, rfl⟩
        | hold s2 w => rw [h2] at h; simp at h
        | trap s2 w => rw [h2] at h; simp at h
        | gone s2 => rw [h2] at h; simp at h
      · cases h; exact ⟨k1, _, rfl⟩
    | hold s2 w => rw [h1] at h; simp [Res.bind] at h
    | trap s2 w => rw [h1] at h; simp [Res.bind] at h
    | gone s2 => rw [h1] at h; simp [Res.bind] at h
  · cases h; exact ⟨Kept.rfl_ _, i.wv, rfl⟩

/-- An outcome that goes on has gone through both its parts. -/
theorem bind_ok {α β : Type} {r : Res α} {f : State → α → Res β} {t : State} {b : β} (h : r.bind f = .ok t b) :
    ∃ s a, r = .ok s a ∧ f s a = .ok t b := by
  cases r with
  | ok s a => exact ⟨s, a, rfl, h⟩
  | hold => nomatch h
  | trap => nomatch h
  | gone => nomatch h

/-- A check that is passed: it did not find what it looks for, and what follows it is the outcome. -/
theorem ite_trap {α : Type} {b : Bool} {s t : State} {w : Trap} {r : Res α} {a : α} (h : (if b then .trap s w else r) = .ok t a) :
    b = false ∧ r = .ok t a := by
  cases b
  · exact ⟨rfl, h⟩
  · nomatch h

/-- What an instruction that passes its checks (R317, R138, R139) has passed. -/
theorem checked_ok {s s' : State} {i j : Iss} {u : Uses} (h : s.checked j u = .ok s' i) :
    s.readWindow j = .ok s' i ∧ i.setFault u = none ∧ encFault j.g.vregs (some j.t.wins) j.x = none ∧
      (Enc.privileged j.x = true → j.supervisor = true) ∧ (Enc.notInHandler j.x = true → j.r.handler = false) := by
  obtain ⟨priv, h⟩ := ite_trap h
  obtain ⟨hand, h⟩ := ite_trap h
  have enc : encFault j.g.vregs (some j.t.wins) j.x = none := Option.eq_none_iff_forall_not_mem.2 fun d hd => by
    rw [Option.mem_def.1 hd] at h; nomatch h
  rw [enc] at h
  obtain ⟨t, k, hw, h⟩ := bind_ok h
  have set : k.setFault u = none := Option.eq_none_iff_forall_not_mem.2 fun d hd => by
    rw [Option.mem_def.1 hd] at h; nomatch h
  rw [set] at h
  injection h with h1 h2
  subst h1 h2
  exact ⟨hw, set, enc, fun a => by simpa [a] using priv, fun a => by simpa [a] using hand⟩

/-- What the instruction that issues is, from what it found. -/
theorem iss?_some {s : State} {r : StrandRef} {x : Enc} {j : Iss} (h : s.iss? r x = some j) :
    j.r = r ∧ j.x = x ∧ s.team? r.g.ctx r.g.vteam = some j.t ∧ s.group? r.g = some j.g ∧ j.st = j.g.strand r.num ∧ j.st.valid = true ∧
      j.time = s.leaseNow j.t := by
  unfold State.iss? at h
  cases ht : s.team? r.g.ctx r.g.vteam with
  | none => rw [ht] at h; nomatch h
  | some t =>
    cases hg : s.group? r.g with
    | none => rw [ht, hg] at h; nomatch h
    | some g =>
      rw [ht, hg] at h
      obtain ⟨valid, same⟩ := Option.ite_none_right_eq_some.1 h
      injection same with same
      subst same
      exact ⟨rfl, rfl, rfl, rfl, rfl, valid, rfl⟩

/-- What is known of an instruction that issues. -/
theorem issues_facts {more : State → Iss → Uses} {s s' : State} {x : Enc} {i : Iss} (h : IssuesWith more s x s' i) :
    i.x = x ∧ Kept s s' ∧ s'.team? i.r.g.ctx i.r.g.vteam = some i.t ∧ s'.group? i.r.g = some i.g ∧ i.st = i.g.strand i.r.num ∧
      i.st.valid = true ∧ i.time = s'.leaseNow i.t := by
  obtain ⟨r, j, _, hj, _, hc⟩ := h
  obtain ⟨hr, hx, ht, hg, hs, hv, hn⟩ := iss?_some hj
  obtain ⟨hw, _⟩ := checked_ok hc
  obtain ⟨k, w, rfl⟩ := readWindow_ok hw
  subst hr
  refine ⟨hx, k, ?_, ?_, hs, hv, ?_⟩
  · rw [State.team?, k.teams]; exact ht
  · have e : s'.group? j.r.g = s.group? j.r.g := by simp only [State.group?, State.team?, k.teams]
    rw [e]; exact hg
  · simp only [State.leaseNow, State.timeOf, k.time, k.dieOff]; exact hn

end Sys2Proof
end

