-- ==== Sys2Proof/Laws/Issue.lean ====
section
/-! SUPPORT. What an instruction that issues does: the advance of its strand, its register results, and what it leaves. -/
namespace Sys2Proof
open Machine

/-! ### Strands -/

theorem valid_strand {g : Group} {n : Nat} (h : (g.strand n).valid = true) : n ≤ handlerSid ∧ (n = handlerSid → g.handler.isSome) := by
  unfold Group.strand at h
  split at h
  · rename_i e
    refine ⟨Nat.le_of_eq e, fun _ => ?_⟩
    cases hh : g.handler with
    | none => rw [hh] at h; simp [Strand.free] at h
    | some x => rfl
  · rename_i e
    refine ⟨?_, fun q => absurd q e⟩
    rw [vector_getD] at h
    split at h
    · rename_i hk; exact Nat.le_of_lt hk
    · simp [Strand.free] at h

theorem strand_wake (g : Group) (k : Nat) : ∃ b, g.wake.strand k = { g.strand k with look := b } := by
  unfold Group.strand
  rw [Group.wake_handler]
  by_cases hk : k = handlerSid
  · rw [if_pos hk, if_pos hk]; exact ⟨(g.handler.getD Strand.free).look, rfl⟩
  · rw [if_neg hk, if_neg hk, vector_getD, vector_getD]
    by_cases h : k < 16
    · rw [dif_pos h, dif_pos h]
      simp only [Group.wake, Vector.getElem_ofFn]
      split
      · exact ⟨true, rfl⟩
      · exact ⟨g.strands[k].look, rfl⟩
    · rw [dif_neg h, dif_neg h]; exact ⟨Strand.free.look, rfl⟩

theorem strand_countIssue (g : Group) (n k : Nat) : ∃ y, (g.countIssue n).strand k = { g.strand k with yieldFor := y } := by
  unfold Group.strand
  rw [Group.countIssue_handler]
  by_cases hk : k = handlerSid
  · rw [if_pos hk, if_pos hk]; exact ⟨(g.handler.getD Strand.free).yieldFor, rfl⟩
  · rw [if_neg hk, if_neg hk, vector_getD, vector_getD]
    by_cases h : k < 16
    · rw [dif_pos h, dif_pos h]
      simp only [Group.countIssue, Vector.getElem_map]
      exact ⟨_, rfl⟩
    · rw [dif_neg h, dif_neg h]; exact ⟨Strand.free.yieldFor, rfl⟩

theorem strand_passRelease (g : Group) (w : RelWait) (k : Nat) : (g.passRelease w).strand k = g.strand k :=
  strand_congr _ _ _ (by simp) (by simp)

theorem strand_modStrand_ne (g : Group) (n k : Nat) (f : Strand → Strand) (h : k ≠ n) : (g.modStrand n f).strand k = g.strand k := by
  unfold Group.modStrand Group.strand
  by_cases hh : n = handlerSid
  · simp only [hh, if_true]
    by_cases hk : k = handlerSid
    · exact absurd (hk.trans hh.symm) h
    · simp [hk]
  · simp only [hh, if_false]
    by_cases hk : k = handlerSid
    · simp [hk]
    · simp only [hk, if_false, vmod_getD]
      simp [h]

/-- Two strands that differ only in what decides when they are looked at again. -/
def Restless (a b : Strand) : Prop := ∃ look yieldFor rel, b = { a with look := look, yieldFor := yieldFor, rel := rel }

theorem Restless.trans {a b c : Strand} (h : Restless a b) (k : Restless b c) : Restless a c := by
  obtain ⟨_, _, _, rfl⟩ := h
  obtain ⟨_, _, _, rfl⟩ := k
  exact ⟨_, _, _, rfl⟩

theorem restless_wake (g : Group) (k : Nat) : Restless (g.strand k) (g.wake.strand k) := by
  obtain ⟨b, h⟩ := strand_wake g k
  exact ⟨b, _, _, h⟩

theorem restless_countIssue (g : Group) (n k : Nat) : Restless (g.strand k) ((g.countIssue n).strand k) := by
  obtain ⟨b, h⟩ := strand_countIssue g n k
  exact ⟨_, b, _, h⟩

theorem restless_modStrand (g : Group) (n k : Nat) (f : Strand → Strand) (hf : ∀ s, Restless s (f s)) : Restless (g.strand k) ((g.modStrand n f).strand k) := by
  by_cases e : k = n
  · subst e
    unfold Group.modStrand Group.strand
    by_cases hh : k = handlerSid
    · simp only [hh, if_true]
      cases g.handler with
      | none => exact ⟨_, _, _, rfl⟩
      | some x => exact hf x
    · simp only [hh, if_false, vmod_getD]
      split
      · exact hf _
      · exact ⟨_, _, _, rfl⟩
  · rw [strand_modStrand_ne _ _ _ _ e]; exact ⟨_, _, _, rfl⟩

theorem restless_stepFence (g : Group) (n : Nat) (fu : Bool) (now k : Nat) : Restless (g.strand k) ((g.stepFence n fu now).strand k) := by
  unfold Group.stepFence
  split
  · exact ⟨_, _, _, rfl⟩
  · split
    · exact ⟨_, _, _, rfl⟩
    · dsimp only
      split
      · refine Restless.trans ?_ (restless_modStrand _ _ _ _ fun s => ⟨_, _, _, rfl⟩)
        refine Restless.trans ?_ (restless_wake _ k)
        rw [strand_passRelease]; exact ⟨_, _, _, rfl⟩
      · exact restless_modStrand _ _ _ _ fun s => ⟨_, _, _, rfl⟩

theorem stepFence_fields (g : Group) (n : Nat) (fu : Bool) (now : Nat) :
    ∃ strands handler ovf, g.stepFence n fu now = { g with strands := strands, handler := handler, ovf := ovf } := by
  unfold Group.stepFence
  split
  · exact ⟨_, _, _, rfl⟩
  · split
    · exact ⟨_, _, _, rfl⟩
    · dsimp only
      split
      · obtain ⟨o, h1⟩ := Group.passRelease_changes g (g.stepRelease n ‹RelWait› fu now)
        rw [h1]
        obtain ⟨a, h2⟩ := Group.wake_changes { g with ovf := o }
        rw [h2]
        obtain ⟨b, c, h3⟩ := Group.modStrand_changes { { g with ovf := o } with strands := a } n fun st => { st with rel := none }
        rw [h3]; exact ⟨_, _, _, rfl⟩
      · obtain ⟨b, c, h3⟩ := Group.modStrand_changes g n fun st => { st with rel := some (g.stepRelease n ‹RelWait› fu now) }
        rw [h3]; exact ⟨_, _, _, rfl⟩

/-- The fields of a group that the advance of a strand may change. -/
theorem advance_fields (g : Group) (n : Nat) (pc : DWord) (cy : Nat) :
    ∃ strands handler fair fairLast fairFor loads longs failing watch, g.advance n pc cy =
      { g with strands := strands, handler := handler, fair := fair, fairLast := fairLast, fairFor := fairFor, loads := loads, longs := longs, failing := failing, watch := watch } ∧
      loads = (g.loads.map fun l => if l.sid = n then { l with issuedAfter := l.issuedAfter + 1 } else l) ∧
      longs = g.longs.map fun l => if l.sid = n then { l with issuedAfter := l.issuedAfter + 1 } else l := by
  unfold Group.advance
  dsimp only
  obtain ⟨a, b, l, c, h1⟩ := Group.countIssue_changes g n
  obtain ⟨d, h2⟩ := Group.wake_changes (g.countIssue n)
  rw [h2, h1]
  obtain ⟨e, f, h3⟩ := Group.modStrand_changes ({ { { g with strands := a, fair := b, fairLast := l, fairFor := c } with strands := d } with
    loads := g.loads.map fun l => if l.sid = n then { l with issuedAfter := l.issuedAfter + 1 } else l
    longs := g.longs.map fun l => if l.sid = n then { l with issuedAfter := l.issuedAfter + 1 } else l
    failing := g.failing.map fun f => if f.sid = n then { f with issuedAfter := f.issuedAfter + 1 } else f
    watch := 0 } : Group) n fun st => { st with pc := pc, state := .ready, why := 0, spilled := false, arrived := false, look := false, skips := st.skips.drop 1, readyAt := cy, rel := st.rel.filter (·.fence), placed := 0 }
  rw [h3]
  exact ⟨_, _, _, _, _, _, _, _, _, rfl, rfl, rfl⟩

/-- The strand that advances. -/
theorem advance_own (g : Group) (n : Nat) (pc : DWord) (cy : Nat) (hv : (g.strand n).valid = true) :
    ∃ yf, (g.advance n pc cy).strand n = { g.strand n with
      pc := pc, state := .ready, why := 0, spilled := false, arrived := false, look := false, skips := (g.strand n).skips.drop 1, readyAt := cy,
      rel := (g.strand n).rel.filter (·.fence), placed := 0, yieldFor := yf } := by
  obtain ⟨hn, hh⟩ := valid_strand hv
  unfold Group.advance
  dsimp only
  rw [strand_modStrand _ _ _ _ (by intro e; simpa using hh e) hn, if_pos rfl]
  obtain ⟨b, h1⟩ := strand_wake (g.countIssue n) n
  obtain ⟨y, h2⟩ := strand_countIssue g n n
  have e : (Group.strand { (g.countIssue n).wake with
      loads := (g.countIssue n).wake.loads.map fun l => if l.sid = n then { l with issuedAfter := l.issuedAfter + 1 } else l
      longs := (g.countIssue n).wake.longs.map fun l => if l.sid = n then { l with issuedAfter := l.issuedAfter + 1 } else l
      failing := (g.countIssue n).wake.failing.map fun f => if f.sid = n then { f with issuedAfter := f.issuedAfter + 1 } else f
      watch := 0 } n) = (g.countIssue n).wake.strand n := strand_congr _ _ _ rfl rfl
  rw [e, h1, h2]
  exact ⟨y, rfl⟩

/-- The other strands as one advances. -/
theorem advance_other (g : Group) (n : Nat) (pc : DWord) (cy k : Nat) (hk : k ≠ n) :
    Restless (g.strand k) ((g.advance n pc cy).strand k) := by
  unfold Group.advance
  dsimp only
  rw [strand_modStrand_ne _ _ _ _ hk]
  refine ((restless_countIssue g n k).trans (restless_wake _ k)).trans ?_
  exact ⟨_, _, _, strand_congr (g.countIssue n).wake _ k rfl rfl⟩

theorem Restless.same {a b : Strand} (h : Restless a b) : SameStrand a b := by
  obtain ⟨_, _, _, rfl⟩ := h
  exact ⟨rfl, rfl, rfl, rfl, rfl, rfl, rfl, rfl, rfl, rfl⟩

theorem Restless.other {a b : Strand} (h : Restless a b) : SameOther a b := by
  obtain ⟨_, _, _, rfl⟩ := h
  exact ⟨⟨rfl, rfl, rfl, rfl, rfl, rfl, rfl, rfl, rfl, rfl⟩, rfl, rfl, rfl, rfl⟩

/-- What an issue does to its group before the instruction's own effect (R127, R149, R304). -/
def Machine.Group.issued (g : Group) (n : Nat) (fused : Bool) (pc : DWord) (cy now : Nat) : Group := (g.stepFence n fused now).advance n pc cy

theorem issued_fields (g : Group) (n : Nat) (fu : Bool) (pc : DWord) (cy now : Nat) :
    ∃ strands handler ovf fair fairLast fairFor loads longs failing watch, g.issued n fu pc cy now =
      { g with strands := strands, handler := handler, ovf := ovf, fair := fair, fairLast := fairLast, fairFor := fairFor, loads := loads, longs := longs, failing := failing, watch := watch } ∧
      loads = (g.loads.map fun l => if l.sid = n then { l with issuedAfter := l.issuedAfter + 1 } else l) ∧
      longs = g.longs.map fun l => if l.sid = n then { l with issuedAfter := l.issuedAfter + 1 } else l := by
  obtain ⟨a, b, c, h1⟩ := stepFence_fields g n fu now
  obtain ⟨d, e, f, q, k, l, m, o, w, h2, h3, h4⟩ := advance_fields (g.stepFence n fu now) n pc cy
  unfold Machine.Group.issued
  rw [h2, h1]
  rw [h1] at h3 h4
  exact ⟨_, _, _, _, _, _, _, _, _, _, rfl, h3, h4⟩

theorem issued_own (g : Group) (n : Nat) (fu : Bool) (pc : DWord) (cy now : Nat) (hv : (g.strand n).valid = true) :
    ∃ st, Restless (g.strand n) st ∧ (g.issued n fu pc cy now).strand n = { st with
      pc := pc, state := .ready, why := 0, spilled := false, arrived := false, look := false, skips := st.skips.drop 1, readyAt := cy,
      rel := st.rel.filter (·.fence), placed := 0 } := by
  have hr := restless_stepFence g n fu now n
  have hv' : ((g.stepFence n fu now).strand n).valid = true := by rw [hr.same.valid]; exact hv
  obtain ⟨yf, h⟩ := advance_own (g.stepFence n fu now) n pc cy hv'
  refine ⟨{ (g.stepFence n fu now).strand n with yieldFor := yf }, hr.trans ⟨_, yf, _, rfl⟩, ?_⟩
  unfold Machine.Group.issued
  rw [h]

theorem issued_other (g : Group) (n : Nat) (fu : Bool) (pc : DWord) (cy now k : Nat) (hk : k ≠ n) :
    Restless (g.strand k) ((g.issued n fu pc cy now).strand k) :=
  (restless_stepFence g n fu now k).trans (advance_other _ n pc cy k hk)

/-- An issue leaves its group as it stood but for its strand's address and state and what counts issues. -/
theorem issued_same (g : Group) (n : Nat) (fu : Bool) (pc : DWord) (cy now : Nat) (hv : (g.strand n).valid = true) :
    SameGroup g (g.issued n fu pc cy now) n := by
  obtain ⟨_, _, _, _, _, _, ld, _, _, _, h, hl, _⟩ := issued_fields g n fu pc cy now
  obtain ⟨st, hr, ho⟩ := issued_own g n fu pc cy now hv
  refine ⟨?_, ?_, ?_, ?_, ?_, ?_, ?_, ?_, ?_, ?_, ?_, ?_, ?_, ?_, ?_, ?_, ?_, ?_, ?_, ?_, ?_⟩
  case refine_16 =>
    rw [h]; dsimp only; rw [hl, List.map_map]
    apply List.map_congr_left
    intro l _
    simp only [Function.comp]
    split <;> rfl
  case refine_20 =>
    rw [ho]
    obtain ⟨_, _, _, rfl⟩ := hr
    exact ⟨rfl, rfl, rfl, rfl, rfl, rfl, rfl, rfl, rfl, rfl⟩
  case refine_21 => intro k _ hk; exact (issued_other g n fu pc cy now k hk).other
  all_goals first | (rw [h]; done) | (intro _; rw [h]; done) | (intro _ _ _ _; rw [h])

theorem issued_goesOn (g : Group) (n : Nat) (fu : Bool) (pc : DWord) (cy now : Nat) (hv : (g.strand n).valid = true) :
    GoesOn (g.issued n fu pc cy now) n pc := by
  obtain ⟨st, _, ho⟩ := issued_own g n fu pc cy now hv
  unfold GoesOn
  rw [ho]; exact ⟨rfl, rfl⟩

theorem issued_longs (g : Group) (n : Nat) (fu : Bool) (pc : DWord) (cy now : Nat) :
    ((g.issued n fu pc cy now).longs.map fun l => { l with issuedAfter := 0 }) = g.longs.map fun l => { l with issuedAfter := 0 } := by
  obtain ⟨_, _, _, _, _, _, _, lg, _, _, h, _, hl⟩ := issued_fields g n fu pc cy now
  rw [h]; dsimp only; rw [hl, List.map_map]
  apply List.map_congr_left
  intro l _
  simp only [Function.comp]
  split <;> rfl

/-- An issue changes no register. -/
theorem issued_regs (g : Group) (n : Nat) (fu : Bool) (pc : DWord) (cy now : Nat) (hv : (g.strand n).valid = true) :
    (∀ k l, vlane (g.issued n fu pc cy now) k l = vlane g k l) ∧ (∀ k l, plane (g.issued n fu pc cy now) k l = plane g k l) ∧
      (∀ k, scalarOf (g.issued n fu pc cy now) n k = scalarOf g n k) ∧ (∀ l, seedLane (g.issued n fu pc cy now) l = seedLane g l) := by
  obtain ⟨_, _, _, _, _, _, _, _, _, _, h, _, _⟩ := issued_fields g n fu pc cy now
  obtain ⟨st, hr, ho⟩ := issued_own g n fu pc cy now hv
  refine ⟨fun _ _ => by rw [h]; rfl, fun _ _ => by rw [h]; rfl, fun k => ?_, fun _ => by rw [h]; rfl⟩
  have hp : ((g.issued n fu pc cy now).strand n).priv = (g.strand n).priv := by
    rw [ho]; obtain ⟨_, _, _, rfl⟩ := hr; rfl
  have hs : (g.issued n fu pc cy now).s = g.s := by rw [h]
  have hu : (g.issued n fu pc cy now).sup = g.sup := by rw [h]
  unfold scalarOf
  rw [hp, hs, hu]

/-! ### Register results -/

/-- The fields of a group that register results change. -/
theorem commit_fields (g : Group) (n : Nat) (m : Mask) (o : RegOut) :
    ∃ v p s sup strands handler seed, g.commit n m o = { g with v := v, p := p, s := s, sup := sup, strands := strands, handler := handler, seed := seed } := by
  unfold Group.commit
  dsimp only
  have hv : ∀ (xs : List (Nat × Lanes)) (g : Group), ∃ v, xs.foldl (fun (g : Group) x => g.setV x.1 m x.2) g = { g with v := v } := by
    intro xs
    induction xs with
    | nil => intro g; exact ⟨g.v, rfl⟩
    | cons x r ih =>
      intro g
      obtain ⟨v, h⟩ := ih (g.setV x.1 m x.2)
      exact ⟨v, by rw [List.foldl_cons, h]; rfl⟩
  have hp : ∀ (xs : List (Nat × Mask)) (g : Group), ∃ p, xs.foldl (fun (g : Group) x => g.setP x.1 m x.2) g = { g with p := p } := by
    intro xs
    induction xs with
    | nil => intro g; exact ⟨g.p, rfl⟩
    | cons x r ih =>
      intro g
      obtain ⟨v, h⟩ := ih (g.setP x.1 m x.2)
      obtain ⟨q, h2⟩ := Group.setP_changes g x.1 m x.2
      exact ⟨v, by rw [List.foldl_cons, h, h2]⟩
  have hs : ∀ (xs : List (Nat × DWord)) (g : Group), ∃ s sup strands handler, xs.foldl (fun (g : Group) x => g.setScalar n x.1 x.2) g =
      { g with s := s, sup := sup, strands := strands, handler := handler } := by
    intro xs
    induction xs with
    | nil => intro g; exact ⟨g.s, g.sup, g.strands, g.handler, rfl⟩
    | cons x r ih =>
      intro g
      obtain ⟨a, b, c, d, h⟩ := ih (g.setScalar n x.1 x.2)
      obtain ⟨a', b', c', d', h2⟩ := Group.setScalar_changes g n x.1 x.2
      exact ⟨a, b, c, d, by rw [List.foldl_cons, h, h2]⟩
  obtain ⟨v, h1⟩ := hv o.v g
  rw [h1]
  obtain ⟨p, h2⟩ := hp o.p { g with v := v }
  rw [h2]
  obtain ⟨a, b, c, d, h3⟩ := hs o.s { { g with v := v } with p := p }
  rw [h3]
  cases o.seed with
  | none => exact ⟨_, _, _, _, _, _, g.seed, rfl⟩
  | some x => exact ⟨_, _, _, _, _, _, _, rfl⟩

/-- Register results change no more of a strand than its own scalars. -/
theorem strand_commit (g : Group) (n : Nat) (m : Mask) (o : RegOut) (k : Nat) :
    ∃ p, (g.commit n m o).strand k = { g.strand k with priv := p } := by
  have hv : ∀ (xs : List (Nat × Lanes)) (g : Group), (xs.foldl (fun (g : Group) x => g.setV x.1 m x.2) g).strand k = g.strand k := by
    intro xs
    induction xs with
    | nil => intro g; rfl
    | cons x r ih => intro g; rw [List.foldl_cons, ih]; exact strand_congr g (g.setV x.1 m x.2) k rfl rfl
  have hp : ∀ (xs : List (Nat × Mask)) (g : Group), (xs.foldl (fun (g : Group) x => g.setP x.1 m x.2) g).strand k = g.strand k := by
    intro xs
    induction xs with
    | nil => intro g; rfl
    | cons x r ih => intro g; rw [List.foldl_cons, ih]; exact strand_congr g (g.setP x.1 m x.2) k (by simp) (by simp)
  have hs : ∀ (xs : List (Nat × DWord)) (g : Group), ∃ p, (xs.foldl (fun (g : Group) x => g.setScalar n x.1 x.2) g).strand k = { g.strand k with priv := p } := by
    intro xs
    induction xs with
    | nil => intro g; exact ⟨_, rfl⟩
    | cons x r ih =>
      intro g
      obtain ⟨p, h⟩ := ih (g.setScalar n x.1 x.2)
      obtain ⟨q, h2⟩ := strand_setScalar_fields g n x.1 x.2 k
      exact ⟨p, by rw [List.foldl_cons, h, h2]⟩
  unfold Group.commit
  dsimp only
  obtain ⟨p, h⟩ := hs o.s (o.p.foldl (fun (g : Group) x => g.setP x.1 m x.2) (o.v.foldl (fun (g : Group) x => g.setV x.1 m x.2) g))
  refine ⟨p, ?_⟩
  rw [hp, hv] at h
  generalize o.s.foldl (fun (g : Group) x => g.setScalar n x.1 x.2) _ = q at h ⊢
  cases o.seed with
  | none => exact h
  | some x =>
    have e := strand_congr q { q with seed := lanesMerge q.seed m x } k rfl rfl
    exact e.trans h

theorem foldl_keeps {α β γ : Type} (get : β → γ) (step : β → α → β) (h : ∀ b x, get (step b x) = get b) (xs : List α) (b : β) :
    get (xs.foldl step b) = get b := by
  induction xs generalizing b with
  | nil => rfl
  | cons x r ih => rw [List.foldl_cons, ih, h]

theorem vlane_congr {g g' : Group} (h : g'.v = g.v) (k l : Nat) : vlane g' k l = vlane g k l := by unfold vlane; rw [h]
theorem plane_congr {g g' : Group} (h : g'.p = g.p) (k l : Nat) : plane g' k l = plane g k l := by unfold plane; rw [h]
theorem seedLane_congr {g g' : Group} (h : g'.seed = g.seed) (l : Nat) : seedLane g' l = seedLane g l := by unfold seedLane; rw [h]
theorem scalarOf_congr {g g' : Group} (n k : Nat) (h1 : g'.s = g.s) (h2 : g'.sup = g.sup) (h3 : g'.strands = g.strands) (h4 : g'.handler = g.handler) :
    scalarOf g' n k = scalarOf g n k := by
  unfold scalarOf; rw [h1, h2, strand_congr g g' n h3 h4]

theorem setScalar_handler_isSome (g : Group) (n d : Nat) (x : DWord) : (g.setScalar n d x).handler.isSome = g.handler.isSome := by
  unfold Group.setScalar Group.modStrand
  split
  · rfl
  split
  · rfl
  split
  · rfl
  split
  · exact Option.isSome_map
  · rfl

/-- Registers after results are written: each place holds the last write to it, in the lanes of the mask (R8, R120 to R124, R309). -/
theorem commit_regs (g : Group) (n : Nat) (m : Mask) (o : RegOut) (hv : (g.strand n).valid = true) : RegsAfter g (g.commit n m o) n m o := by
  obtain ⟨hn, hh⟩ := valid_strand hv
  obtain ⟨g1, h1⟩ : ∃ x, x = o.v.foldl (fun (g : Group) x => g.setV x.1 m x.2) g := ⟨_, rfl⟩
  obtain ⟨g2, h2⟩ : ∃ x, x = o.p.foldl (fun (g : Group) x => g.setP x.1 m x.2) g1 := ⟨_, rfl⟩
  obtain ⟨g3, h3⟩ : ∃ x, x = o.s.foldl (fun (g : Group) x => g.setScalar n x.1 x.2) g2 := ⟨_, rfl⟩
  have hc : g.commit n m o = match o.seed with
    | some d => { g3 with seed := lanesMerge g3.seed m d }
    | none => g3 := by rw [h3, h2, h1]; rfl
  have k1 {γ : Type} (f : Group → γ) (h : ∀ b d x, f (Group.setV b d m x) = f b) : f g1 = f g := by
    rw [h1]; exact foldl_keeps f (fun (g : Group) x => g.setV x.1 m x.2) (fun b x => h b x.1 x.2) o.v g
  have k2 {γ : Type} (f : Group → γ) (h : ∀ b d x, f (Group.setP b d m x) = f b) : f g2 = f g1 := by
    rw [h2]; exact foldl_keeps f (fun (g : Group) x => g.setP x.1 m x.2) (fun b x => h b x.1 x.2) o.p g1
  have k3 {γ : Type} (f : Group → γ) (h : ∀ b d x, f (Group.setScalar b n d x) = f b) : f g3 = f g2 := by
    rw [h3]; exact foldl_keeps f (fun (g : Group) x => g.setScalar n x.1 x.2) (fun b x => h b x.1 x.2) o.s g2
  have v3 : (g.commit n m o).v = g3.v := by rw [hc]; cases o.seed <;> rfl
  have p3 : (g.commit n m o).p = g3.p := by rw [hc]; cases o.seed <;> rfl
  have s3 : ∀ k, scalarOf (g.commit n m o) n k = scalarOf g3 n k := by
    intro k; rw [hc]; cases o.seed with
    | none => rfl
    | some x => exact scalarOf_congr (g := g3) (g' := { g3 with seed := lanesMerge g3.seed m x }) n k rfl rfl rfl rfl
  have v21 : g3.v = g1.v := (k3 (·.v) fun b d x => Group.setScalar_v b n d x).trans (k2 (·.v) fun b d x => Group.setP_v b d m x)
  have p32 : g3.p = g2.p := k3 (·.p) fun b d x => Group.setScalar_p b n d x
  have seed3 : g3.seed = g.seed :=
    ((k3 (·.seed) fun b d x => Group.setScalar_seed b n d x).trans (k2 (·.seed) fun b d x => Group.setP_seed b d m x)).trans
      (k1 (·.seed) fun b d x => Group.setV_seed b d m x)
  have hd : g2.handler = g.handler := (k2 (·.handler) fun b d x => Group.setP_handler b d m x).trans (k1 (·.handler) fun b d x => Group.setV_handler b d m x)
  refine ⟨?_, ?_, ?_, ?_⟩
  · intro k hk l hl
    rw [vlane_congr v3, vlane_congr v21]
    by_cases hm : m.getLsbD l = true
    · rw [if_pos hm, h1]
      exact lastOf_foldl k (fun b => vlane b k l) (fun (x : Lanes) => x.toArray.getD l 0) (fun (g : Group) x => g.setV x.1 m x.2) (fun _ => True)
        (fun _ _ _ => trivial) (fun b x _ => by rw [vlane_setV _ _ _ _ _ _ hk hl]; simp [hm, eq_comm]) o.v g trivial
    · rw [if_neg hm]
      exact k1 (fun b => vlane b k l) fun b d x => by rw [vlane_setV _ _ _ _ _ _ hk hl]; simp [hm]
  · intro k hk l hl
    have e1 : plane g1 k l = plane g k l := plane_congr (k1 (·.p) fun b d x => Group.setV_p b d m x) k l
    rw [plane_congr p3, plane_congr p32, ← e1]
    by_cases hm : m.getLsbD l = true ∧ k ≠ 0
    · rw [if_pos hm, h2]
      exact lastOf_foldl k (fun b => plane b k l) (fun (x : Mask) => x.getLsbD l) (fun (g : Group) x => g.setP x.1 m x.2) (fun _ => True)
        (fun _ _ _ => trivial) (fun b x _ => by rw [plane_setP _ _ _ _ _ _ hk hl]; simp [hm, eq_comm]) o.p g1 trivial
    · rw [if_neg hm]
      refine k2 (fun b => plane b k l) fun b d x => ?_
      rw [plane_setP _ _ _ _ _ _ hk hl, if_neg]
      intro q; exact hm ⟨q.2.2, q.2.1⟩
  · intro k hk
    rw [s3]
    have e2 : scalarOf g2 n k = scalarOf g n k :=
      scalarOf_congr n k ((k2 (·.s) fun b d x => Group.setP_s b d m x).trans (k1 (·.s) fun b d x => Group.setV_s b d m x))
        ((k2 (·.sup) fun b d x => Group.setP_sup b d m x).trans (k1 (·.sup) fun b d x => Group.setV_sup b d m x))
        ((k2 (·.strands) fun b d x => Group.setP_strands b d m x).trans (k1 (·.strands) fun b d x => Group.setV_strands b d m x)) hd
    by_cases k0 : k = 0
    · rw [if_pos k0, scalarOf, if_pos k0]
    · rw [if_neg k0, ← e2, h3]
      have r := lastOf_foldl k (fun b => scalarOf b n k) (fun (x : DWord) => x) (fun (g : Group) x => g.setScalar n x.1 x.2)
        (fun b => n = handlerSid → b.handler.isSome = true)
        (fun b x hb e => by rw [setScalar_handler_isSome]; exact hb e)
        (fun b x hb => by rw [scalarOf_setScalar _ _ _ _ _ hk hn hb]; simp [k0, eq_comm]) o.s g2 (fun e => by rw [hd]; exact hh e)
      simpa using r
  · intro l hl
    rw [hc]
    cases o.seed with
    | none => simp only [Option.map_none, Option.getD_none, ite_self]; exact seedLane_congr seed3 l
    | some x =>
      show (lanesMerge g3.seed m x).toArray.getD l 0 = _
      rw [lanesMerge_getD _ _ _ _ hl, seed3]; rfl

theorem setScalar_sup_ne (g : Group) (n d : Nat) (x : DWord) (h : n ≠ handlerSid) : (g.setScalar n d x).sup = g.sup := by
  unfold Group.setScalar
  split
  · rfl
  split
  · rename_i q; exact absurd q.1 h
  split
  · rfl
  · rw [Group.modStrand_sup]

theorem setScalar_s_shadowed (g : Group) (n d k : Nat) (x : DWord) (h : n = handlerSid) (h1 : 144 ≤ k) (h2 : k < 156) :
    (g.setScalar n d x).s.getD k 0 = g.s.getD k 0 := by
  unfold Group.setScalar
  split
  · rfl
  split
  · rfl
  rename_i q
  split
  · have : ¬ k = d := by intro e; subst e; exact q ⟨h, h1, h2⟩
    rw [vmod_getD]; simp [this]
  · rw [Group.modStrand_s]

theorem setScalar_strand_ne (g : Group) (n d k : Nat) (x : DWord) (h : k ≠ n) : (g.setScalar n d x).strand k = g.strand k := by
  unfold Group.setScalar
  split
  · rfl
  split
  · exact strand_congr g { g with sup := _ } k rfl rfl
  split
  · exact strand_congr g { g with s := _ } k rfl rfl
  · exact strand_modStrand_ne _ _ _ _ h

/-- What every write of a list of results keeps, the list of results keeps. -/
theorem commit_keeps {γ : Type} (f : Group → γ) (g : Group) (n : Nat) (m : Mask) (o : RegOut)
    (hv : ∀ b d x, f (Group.setV b d m x) = f b) (hp : ∀ b d x, f (Group.setP b d m x) = f b) (hs : ∀ b d x, f (Group.setScalar b n d x) = f b)
    (hd : ∀ (b : Group) d, f { b with seed := d } = f b) : f (g.commit n m o) = f g := by
  obtain ⟨g1, h1⟩ : ∃ x, x = o.v.foldl (fun (g : Group) x => g.setV x.1 m x.2) g := ⟨_, rfl⟩
  obtain ⟨g2, h2⟩ : ∃ x, x = o.p.foldl (fun (g : Group) x => g.setP x.1 m x.2) g1 := ⟨_, rfl⟩
  obtain ⟨g3, h3⟩ : ∃ x, x = o.s.foldl (fun (g : Group) x => g.setScalar n x.1 x.2) g2 := ⟨_, rfl⟩
  have hc : g.commit n m o = match o.seed with
    | some d => { g3 with seed := lanesMerge g3.seed m d }
    | none => g3 := by rw [h3, h2, h1]; rfl
  have k1 : f g1 = f g := by
    rw [h1]; exact foldl_keeps f (fun (g : Group) x => g.setV x.1 m x.2) (fun b x => hv b x.1 x.2) o.v g
  have k2 : f g2 = f g1 := by
    rw [h2]; exact foldl_keeps f (fun (g : Group) x => g.setP x.1 m x.2) (fun b x => hp b x.1 x.2) o.p g1
  have k3 : f g3 = f g2 := by
    rw [h3]; exact foldl_keeps f (fun (g : Group) x => g.setScalar n x.1 x.2) (fun b x => hs b x.1 x.2) o.s g2
  rw [hc]
  cases o.seed with
  | none => exact k3.trans (k2.trans k1)
  | some x => exact (hd g3 _).trans (k3.trans (k2.trans k1))

/-- Register results leave the rest of the group. -/
theorem commit_same (g : Group) (n : Nat) (m : Mask) (o : RegOut) : SameGroup g (g.commit n m o) n := by
  obtain ⟨_, _, _, _, _, _, _, h⟩ := commit_fields g n m o
  refine ⟨?_, ?_, ?_, ?_, ?_, ?_, ?_, ?_, ?_, ?_, ?_, ?_, ?_, ?_, ?_, ?_, ?_, ?_, ?_, ?_, ?_⟩
  case refine_1 =>
    intro hn
    exact commit_keeps (·.sup) g n m o (fun b d x => rfl) (fun b d x => Group.setP_sup b d m x) (fun b d x => setScalar_sup_ne b n d x hn) (fun _ _ => rfl)
  case refine_2 =>
    intro hn k h1 h2
    exact commit_keeps (fun b => b.s.getD k 0) g n m o (fun b d x => rfl) (fun b d x => by rw [Group.setP_s])
      (fun b d x => setScalar_s_shadowed b n d k x hn h1 h2) (fun _ _ => rfl)
  case refine_20 =>
    obtain ⟨p, hp⟩ := strand_commit g n m o n
    rw [hp]; exact ⟨rfl, rfl, rfl, rfl, rfl, rfl, rfl, rfl, rfl, rfl⟩
  case refine_21 =>
    intro k _ hk
    have e : (g.commit n m o).strand k = g.strand k :=
      commit_keeps (fun b => b.strand k) g n m o (fun b d x => strand_congr b (b.setV d m x) k rfl rfl)
        (fun b d x => strand_congr b (b.setP d m x) k (Group.setP_strands b d m x) (Group.setP_handler b d m x))
        (fun b d x => setScalar_strand_ne b n d k x hk) (fun b d => strand_congr b { b with seed := d } k rfl rfl)
    rw [e]; exact ⟨⟨rfl, rfl, rfl, rfl, rfl, rfl, rfl, rfl, rfl, rfl⟩, rfl, rfl, rfl, rfl⟩
  all_goals (rw [h])

theorem SameStrand.trans {a b c : Strand} (h : SameStrand a b) (k : SameStrand b c) : SameStrand a c :=
  ⟨k.valid.trans h.valid, k.mask.trans h.mask, k.taken.trans h.taken, k.order.trans h.order, k.arm.trans h.arm, k.parent.trans h.parent,
    k.folds.trans h.folds, k.evn.trans h.evn, k.vset.trans h.vset, k.pset.trans h.pset⟩

theorem SameOther.trans {a b c : Strand} (h : SameOther a b) (k : SameOther b c) : SameOther a c :=
  ⟨h.toSameStrand.trans k.toSameStrand, k.pc.trans h.pc, k.state.trans h.state, k.park.trans h.park, k.priv.trans h.priv⟩

theorem SameGroup.trans {a b c : Group} {n : Nat} (h : SameGroup a b n) (k : SameGroup b c n) : SameGroup a c n :=
  ⟨fun e => (k.sup e).trans (h.sup e), fun e q h1 h2 => (k.shadowed e q h1 h2).trans (h.shadowed e q h1 h2), k.slides.trans h.slides, k.events.trans h.events,
    k.pe.trans h.pe, k.em.trans h.em, k.folds.trans h.folds, k.record.trans h.record, k.trap.trans h.trap, k.repc.trans h.repc, k.sb.trans h.sb,
    k.acks.trans h.acks, k.wmax.trans h.wmax, k.rt.trans h.rt, k.omax.trans h.omax, k.loads.trans h.loads, k.marks.trans h.marks, k.gone.trans h.gone,
    k.ended.trans h.ended, h.own.trans k.own, fun q h1 h2 => (h.others q h1 h2).trans (k.others q h1 h2)⟩

/-- An instruction that issues, goes on at an address and writes registers: all that it does to its group. -/
theorem issued_commit (g : Group) (n : Nat) (fu : Bool) (pc : DWord) (cy now : Nat) (m : Mask) (o : RegOut) (hv : (g.strand n).valid = true) :
    RegsAfter g ((g.issued n fu pc cy now).commit n m o) n m o ∧ SameGroup g ((g.issued n fu pc cy now).commit n m o) n ∧
      GoesOn ((g.issued n fu pc cy now).commit n m o) n pc ∧
      (((g.issued n fu pc cy now).commit n m o).longs.map fun l => { l with issuedAfter := 0 }) = g.longs.map fun l => { l with issuedAfter := 0 } := by
  have hs := issued_same g n fu pc cy now hv
  have hv2 : ((g.issued n fu pc cy now).strand n).valid = true := by rw [hs.own.valid]; exact hv
  obtain ⟨rv, rp, rs, rd⟩ := issued_regs g n fu pc cy now hv
  have hc := commit_regs (g.issued n fu pc cy now) n m o hv2
  refine ⟨⟨?_, ?_, ?_, ?_⟩, hs.trans (commit_same _ n m o), ?_, ?_⟩
  · intro k hk l hl; rw [hc.v k hk l hl, rv]
  · intro k hk l hl; rw [hc.p k hk l hl, rp]
  · intro k hk; rw [hc.s k hk, rs]
  · intro l hl; rw [hc.seed l hl, rd]
  · obtain ⟨p, hp⟩ := strand_commit (g.issued n fu pc cy now) n m o n
    have := issued_goesOn g n fu pc cy now hv
    unfold GoesOn at this ⊢
    rw [hp]; exact this
  · obtain ⟨_, _, _, _, _, _, _, h⟩ := commit_fields (g.issued n fu pc cy now) n m o
    have := issued_longs g n fu pc cy now
    rw [h]; exact this

/-! ### The state -/

theorem SameElsewhere.rfl_ (s : State) (r : GroupRef) : SameElsewhere s s r :=
  ⟨rfl, rfl, rfl, rfl, rfl, rfl, rfl, rfl, rfl, fun _ => rfl, fun _ _ => rfl, fun _ _ => rfl⟩

theorem SameElsewhere.trans {a b c : State} {r : GroupRef} (h : SameElsewhere a b r) (k : SameElsewhere b c r) : SameElsewhere a c r :=
  ⟨k.mem.trans h.mem, k.ctxs.trans h.ctxs, k.bents.trans h.bents, k.grids.trans h.grids, k.works.trans h.works, k.dcb.trans h.dcb, k.mcb.trans h.mcb,
    k.engines.trans h.engines, k.runs.trans h.runs, fun q => (k.cores q).trans (h.cores q), fun c v => (k.teams c v).trans (h.teams c v),
    fun q e => (k.groups q e).trans (h.groups q e)⟩

theorem find?_lmod {α : Type} (l : List α) (p : α → Bool) (f : α → α) (hf : ∀ x, p (f x) = p x) : (lmod l p f).find? p = (l.find? p).map f := by
  induction l with
  | nil => rfl
  | cons x r ih =>
    simp only [lmod] at ih
    simp only [lmod, List.map_cons, List.find?_cons]
    by_cases h : p x = true
    · simp [h, hf]
    · rw [if_neg h]
      simp only [h]
      exact ih

theorem find?_lmod_ne {α : Type} (l : List α) (p q : α → Bool) (f : α → α) (hf : ∀ x, p x = true → q (f x) = q x) (hn : ∀ x, p x = true → q x = false) :
    (lmod l p f).find? q = l.find? q := by
  induction l with
  | nil => rfl
  | cons x r ih =>
    simp only [lmod, List.map_cons, List.find?_cons]
    simp only [lmod] at ih
    by_cases h : p x = true
    · rw [if_pos h, hf x h, hn x h, ih]
    · rw [if_neg h, ih]

theorem team?_modTeam (s : State) (c : BitVec 8) (v : BitVec 16) (f : Team → Team) (hf : ∀ t, (f t).ctx = t.ctx ∧ (f t).vteam = t.vteam) (c' : BitVec 8) (v' : BitVec 16) :
    (s.modTeam c v f).team? c' v' = if c' = c ∧ v' = v then (s.team? c v).map f else s.team? c' v' := by
  unfold State.team? State.modTeam
  have hi (t : Team) (a : BitVec 8) (b : BitVec 16) : (f t).is a b = t.is a b := by simp [Team.is, hf t]
  by_cases e : c' = c ∧ v' = v
  · rw [if_pos e, e.1, e.2]
    exact find?_lmod _ _ _ fun t => hi t c v
  · rw [if_neg e]
    refine find?_lmod_ne _ _ _ _ (fun t _ => hi t c' v') fun t ht => ?_
    simp only [Team.is, Bool.and_eq_true, decide_eq_true_eq] at ht
    simp only [Team.is, Bool.and_eq_false_iff, decide_eq_false_iff_not]
    by_cases h1 : t.ctx = c'
    · right; intro h2; exact e ⟨h1.symm.trans ht.1, h2.symm.trans ht.2⟩
    · left; exact h1

theorem Team.group?_modGroup (t : Team) (n k : Nat) (f : Group → Group) (hf : ∀ g, (f g).gidx = g.gidx) :
    (t.modGroup n f).group? k = if k = n then (t.group? n).map f else t.group? k := by
  unfold Team.group? Team.modGroup
  by_cases e : k = n
  · subst e; rw [if_pos rfl]
    exact find?_lmod _ _ _ fun g => by simp [hf g]
  · rw [if_neg e]
    refine find?_lmod_ne _ _ _ _ (fun g _ => by simp [hf g]) fun g hg => ?_
    simp only [decide_eq_true_eq] at hg
    simp only [decide_eq_false_iff_not]
    intro h; exact e (h.symm.trans hg)

/-- A group read after one is changed. -/
theorem group?_modGroup (s : State) (r q : GroupRef) (f : Group → Group) (hf : ∀ g, (f g).gidx = g.gidx) :
    (s.modGroup r f).group? q = if q = r then (s.group? r).map f else s.group? q := by
  obtain ⟨rc, rv, rg⟩ := r
  obtain ⟨qc, qv, qg⟩ := q
  simp only [State.group?, State.modGroup]
  rw [team?_modTeam _ _ _ (fun t => t.modGroup rg f) (fun _ => ⟨rfl, rfl⟩)]
  by_cases e : qc = rc ∧ qv = rv
  · obtain ⟨rfl, rfl⟩ := e
    rw [if_pos ⟨rfl, rfl⟩]
    cases s.team? qc qv with
    | none => simp
    | some t =>
      simp only [Option.map_some]
      rw [Team.group?_modGroup _ _ _ _ hf]
      by_cases h : qg = rg
      · subst h; simp
      · have : ¬ (GroupRef.mk qc qv qg = GroupRef.mk qc qv rg) := by intro q; cases q; exact h rfl
        simp [h, this]
  · rw [if_neg e]
    have : ¬ (GroupRef.mk qc qv qg = GroupRef.mk rc rv rg) := by intro q; cases q; exact e ⟨rfl, rfl⟩
    simp [this]

theorem sameElsewhere_modGroup (s : State) (r : GroupRef) (f : Group → Group) (hf : ∀ g, (f g).gidx = g.gidx) : SameElsewhere s (s.modGroup r f) r := by
  refine ⟨rfl, rfl, rfl, rfl, rfl, rfl, rfl, rfl, rfl, fun _ => rfl, ?_, ?_⟩
  · intro c v
    unfold State.modGroup
    rw [team?_modTeam _ _ _ (fun t => t.modGroup r.gidx f) (fun _ => ⟨rfl, rfl⟩)]
    split
    · rename_i e; rw [e.1, e.2]
      cases s.team? r.ctx r.vteam <;> rfl
    · rfl
  · intro q e
    rw [group?_modGroup _ _ _ _ hf, if_neg e]

theorem sameElsewhere_useEnergy (s : State) (r : GroupRef) (k : Nat) (c : BitVec 8) (a b : Nat) : SameElsewhere s (s.useEnergy k c a b) r := by
  refine ⟨rfl, rfl, rfl, rfl, rfl, rfl, rfl, rfl, rfl, ?_, fun _ _ => rfl, fun _ _ => rfl⟩
  intro q
  simp only [State.core, State.useEnergy, State.modCore, vmod_getD]
  split <;> rfl

theorem sameElsewhere_issueEnergy (s : State) (r : GroupRef) (i : Iss) : SameElsewhere s (s.issueEnergy i) r := by
  unfold State.issueEnergy
  dsimp only
  split
  · exact sameElsewhere_useEnergy ..
  split
  · exact sameElsewhere_useEnergy ..
  · exact SameElsewhere.rfl_ ..

theorem sameElsewhere_logErr (s : State) (r : GroupRef) (a b c d : Nat) (x y : BitVec 8) (l : Nat) (w : DWord) : SameElsewhere s (s.logErr a b c d x y l w) r := by
  have ht : (s.logErr a b c d x y l w).teams = s.teams := by simp
  refine ⟨by simp, by simp, by simp, by simp, by simp, by simp, by simp, by simp, by simp, ?_, ?_, ?_⟩
  · intro q; simp [State.core]
  · intro c v; simp [State.team?]
  · intro q _; simp [State.group?, State.team?]

theorem issueEnergy_teams (s : State) (i : Iss) : (s.issueEnergy i).teams = s.teams ∧ (s.issueEnergy i).cycle = s.cycle := by
  unfold State.issueEnergy
  dsimp only
  split
  · exact ⟨rfl, rfl⟩
  split <;> exact ⟨rfl, rfl⟩

/-- What goes on at an address with an effect on its group comes to (R304). -/
theorem doneAt_ok (s : State) (i : Iss) (pc : DWord) (f : Group → Group) (hf : ∀ g, (f g).gidx = g.gidx) (hg : s.group? i.r.g = some i.g) :
    ∃ t, s.doneAt i pc f = .ok t () ∧ t.group? i.r.g = some (f (i.g.issued i.r.num i.t.fused pc s.cycle i.time)) ∧ SameElsewhere s t i.r.g := by
  refine ⟨_, rfl, ?_, ?_⟩
  · rw [group?_modGroup]
    · rw [if_pos rfl]
      have : (s.issueEnergy i).group? i.r.g = s.group? i.r.g := by
        simp only [State.group?, State.team?, (issueEnergy_teams s i).1]
      rw [this, hg]; rfl
    · intro g
      obtain ⟨_, _, _, _, _, _, _, _, _, _, h, _⟩ := issued_fields g i.r.num i.t.fused pc s.cycle i.time
      rw [hf, show ((g.stepFence i.r.num i.t.fused i.time).advance i.r.num pc s.cycle) = g.issued i.r.num i.t.fused pc s.cycle i.time by rfl, h]
  · refine (sameElsewhere_issueEnergy s i.r.g i).trans (sameElsewhere_modGroup _ _ _ ?_)
    intro g
    obtain ⟨_, _, _, _, _, _, _, _, _, _, h, _⟩ := issued_fields g i.r.num i.t.fused pc s.cycle i.time
    rw [hf, show ((g.stepFence i.r.num i.t.fused i.time).advance i.r.num pc s.cycle) = g.issued i.r.num i.t.fused pc s.cycle i.time by rfl, h]

theorem commit_gidx (g : Group) (n : Nat) (m : Mask) (o : RegOut) : (g.commit n m o).gidx = g.gidx := by
  obtain ⟨_, _, _, _, _, _, _, h⟩ := commit_fields g n m o
  rw [h]

/-- An instruction that issues has its effect, unless that is a wait or a trap. -/
theorem issueWith_ok {more : State → Iss → Uses} {s s' t : State} {x : Enc} {i : Iss} {eff : State → Iss → Res Unit}
    (h : IssuesWith more s x s' i) (he : eff s' i = .ok t ()) : s.issueWith x more eff = .next t := by
  obtain ⟨r, j, hc, hj, hh, hk⟩ := h
  unfold State.issueWith
  rw [hc]; dsimp only
  rw [hj]; dsimp only
  rw [hh]; dsimp only
  rw [hk]; dsimp only
  rw [he]; rfl

/-- A residue check that does not take the core out of service passes (R289): what it clears and logs. -/
theorem arithmetic_ok (s : State) (t : Team) (h : s.residueMiss ≤ 2) :
    ∃ u, s.arithmetic t = (u, true) ∧ Kept { s with residueMiss := 0 } u ∧ ∀ r, SameElsewhere s u r := by
  have e (r : GroupRef) : SameElsewhere s { s with residueMiss := 0 } r := ⟨rfl, rfl, rfl, rfl, rfl, rfl, rfl, rfl, rfl, fun _ => rfl, fun _ _ => rfl, fun _ _ => rfl⟩
  unfold State.arithmetic
  match hm : s.residueMiss, h with
  | 0, _ => exact ⟨s, rfl, ⟨rfl, rfl, rfl, rfl, rfl, rfl, hm, rfl⟩, fun _ => SameElsewhere.rfl_ ..⟩
  | 1, _ => exact ⟨_, rfl, kept_logErr .., fun r => (e r).trans (sameElsewhere_logErr ..)⟩
  | 2, _ => exact ⟨_, rfl, kept_logErr .., fun r => (e r).trans (sameElsewhere_logErr ..)⟩

/-- A result whose residue check does not take the core out of service is written (R289). -/
theorem resultChecked_ok (s : State) (i : Iss) (h : s.residueMiss ≤ 2) (k : State → Res Unit) :
    ∃ t, s.resultChecked i k = k t ∧ Kept { s with residueMiss := 0 } t ∧ SameElsewhere s t i.r.g := by
  obtain ⟨u, hu, hk, he⟩ := arithmetic_ok s i.t h
  exact ⟨u, by unfold State.resultChecked; rw [hu], hk, he _⟩

theorem group?_of_teams {s t : State} (h : t.teams = s.teams) (r : GroupRef) : t.group? r = s.group? r := by simp only [State.group?, State.team?, h]

/-- An instruction whose effect is to write registers from registers completes (R304): every register, its group and the rest of the machine. -/
theorem result_completes (c : Instr) {s s' : State} {x : Enc} {i : Iss} (m : Iss → Mask) (o : Iss → RegOut) (h : Issues s x s' i) (hm : s.residueMiss ≤ 2)
    (he : exec c s = s.issue x fun s i => s.resultChecked i fun s => s.done i fun g => g.commit i.r.num (m i) (o i)) :
    Completes c s s' i i.nextPc (m i) (o i) := by
  obtain ⟨_, hk, _, hg, hst, hv, _⟩ := issues_facts h
  rw [hst] at hv
  obtain ⟨s1, h1, k1, e1⟩ := resultChecked_ok s' i (by rw [hk.residueMiss]; exact hm) fun s => s.done i fun g => g.commit i.r.num (m i) (o i)
  have hg1 : s1.group? i.r.g = some i.g := by rw [group?_of_teams (s := s') k1.teams]; exact hg
  obtain ⟨t, h2, g2, e2⟩ := doneAt_ok s1 i i.nextPc (fun g => g.commit i.r.num (m i) (o i)) (fun g => commit_gidx g _ _ _) hg1
  obtain ⟨r1, r2, r3, r4⟩ := issued_commit i.g i.r.num i.t.fused i.nextPc s1.cycle i.time (m i) (o i) hv
  refine ⟨t, _, ?_, g2, r1, r4, r3, r2, e1.trans e2⟩
  rw [he]
  exact issueWith_ok h (h1.trans h2)

/-- An instruction that goes on at an address and writes registers without a residue check completes (R304, R352). -/
theorem transfer_completes (c : Instr) {s s' : State} {x : Enc} {i : Iss} (pc : Iss → DWord) (m : Iss → Mask) (o : Iss → RegOut) (h : Issues s x s' i)
    (he : exec c s = s.issue x fun s i => s.doneAt i (pc i) fun g => g.commit i.r.num (m i) (o i)) : Completes c s s' i (pc i) (m i) (o i) := by
  obtain ⟨_, _, _, hg, hst, hv, _⟩ := issues_facts h
  rw [hst] at hv
  obtain ⟨t, h2, g2, e2⟩ := doneAt_ok s' i (pc i) (fun g => g.commit i.r.num (m i) (o i)) (fun g => commit_gidx g _ _ _) hg
  obtain ⟨r1, r2, r3, r4⟩ := issued_commit i.g i.r.num i.t.fused (pc i) s'.cycle i.time (m i) (o i) hv
  refine ⟨t, _, ?_, g2, r1, r4, r3, r2, e2⟩
  rw [he]
  exact issueWith_ok h h2

/-- A result put in flight (R149). -/
def Machine.Group.addLong (n la : Nat) (m : Mask) (w : List (Nat × Lanes)) (g : Group) : Group :=
  { g with longs := g.longs ++ [⟨g.nextId, n, la, 0, m, w⟩], nextId := g.nextId + 1 }

theorem addLong_strand (n la : Nat) (m : Mask) (w : List (Nat × Lanes)) (g : Group) (k : Nat) : (g.addLong n la m w).strand k = g.strand k :=
  strand_congr _ _ _ rfl rfl

theorem addLong_same (n la : Nat) (m : Mask) (w : List (Nat × Lanes)) (g : Group) : SameGroup g (g.addLong n la m w) n := by
  refine ⟨fun _ => rfl, fun _ _ _ _ => rfl, rfl, rfl, rfl, rfl, rfl, rfl, rfl, rfl, rfl, rfl, rfl, rfl, rfl, rfl, rfl, rfl, rfl, ?_, ?_⟩
  · rw [addLong_strand]; exact ⟨rfl, rfl, rfl, rfl, rfl, rfl, rfl, rfl, rfl, rfl⟩
  · intro k _ _; rw [addLong_strand]; exact ⟨⟨rfl, rfl, rfl, rfl, rfl, rfl, rfl, rfl, rfl, rfl⟩, rfl, rfl, rfl, rfl⟩

theorem longOp_eq (s : State) (x : Enc) (w : Iss → List (Nat × Lanes)) : s.longOp x w =
    s.issue x fun s i => s.resultChecked i fun s => s.done i (Group.addLong i.r.num x.la.toNat i.active (w i)) := rfl

/-- A long-latency arithmetic instruction has its results in flight (R149). -/
theorem long_inFlight (c : Instr) {s s' : State} {x : Enc} {i : Iss} (w : Iss → List (Nat × Lanes)) (h : Issues s x s' i) (hm : s.residueMiss ≤ 2)
    (he : exec c s = s.longOp x w) : GoesInFlight c s s' i (w i) := by
  obtain ⟨hx, hk, _, hg, hst, hv, _⟩ := issues_facts h
  rw [hst] at hv
  obtain ⟨s1, h1, k1, e1⟩ := resultChecked_ok s' i (by rw [hk.residueMiss]; exact hm) fun s => s.done i (Group.addLong i.r.num x.la.toNat i.active (w i))
  have hg1 : s1.group? i.r.g = some i.g := by rw [group?_of_teams (s := s') k1.teams]; exact hg
  obtain ⟨t, h2, g2, e2⟩ := doneAt_ok s1 i i.nextPc (Group.addLong i.r.num x.la.toNat i.active (w i)) (fun _ => rfl) hg1
  have same := issued_same i.g i.r.num i.t.fused i.nextPc s1.cycle i.time hv
  have goes := issued_goesOn i.g i.r.num i.t.fused i.nextPc s1.cycle i.time hv
  have lgs := issued_longs i.g i.r.num i.t.fused i.nextPc s1.cycle i.time
  obtain ⟨rv, rp, rs, rd⟩ := issued_regs i.g i.r.num i.t.fused i.nextPc s1.cycle i.time hv
  obtain ⟨_, _, _, _, _, _, _, _, _, _, hf, _, _⟩ := issued_fields i.g i.r.num i.t.fused i.nextPc s1.cycle i.time
  have hid : (i.g.issued i.r.num i.t.fused i.nextPc s1.cycle i.time).nextId = i.g.nextId := by rw [hf]
  clear hf
  generalize i.g.issued i.r.num i.t.fused i.nextPc s1.cycle i.time = q at *
  refine ⟨t, _, ?_, g2, ⟨?_, ?_, ?_, ?_⟩, ?_, ?_, same.trans (addLong_same _ _ _ _ q), e1.trans e2⟩
  · rw [he, longOp_eq]
    exact issueWith_ok h (h1.trans h2)
  · intro k _ l _
    rw [if_neg (by simp), vlane_congr (g := q) (g' := q.addLong i.r.num x.la.toNat i.active (w i)) rfl, rv]
  · intro k _ l _
    rw [if_neg (by simp), plane_congr (g := q) (g' := q.addLong i.r.num x.la.toNat i.active (w i)) rfl, rp]
  · intro k _
    rw [scalarOf_congr (g := q) (g' := q.addLong i.r.num x.la.toNat i.active (w i)) _ _ rfl rfl rfl rfl, rs]
    by_cases k0 : k = 0
    · rw [if_pos k0, scalarOf, if_pos k0]
    · rw [if_neg k0]; rfl
  · intro l _
    rw [if_neg (by simp), seedLane_congr (g := q) (g' := q.addLong i.r.num x.la.toNat i.active (w i)) rfl, rd]
  · unfold Group.addLong
    dsimp only
    rw [List.map_append, lgs, hid, hx]; rfl
  · unfold GoesOn; rw [addLong_strand]; exact goes

/-- An instruction whose effect is a trap takes it with the LA of its fields (R271, R272). -/
theorem issue_traps {more : State → Iss → Uses} {s s' s'' : State} {x : Enc} {i : Iss} {eff : State → Iss → Res Unit} {t : Trap}
    (h : IssuesWith more s x s' i) (hm : Enc.memoryOp x = false) (he : eff s' i = .trap s'' t) (hla : t.la = 0) :
    s.issueWith x more eff = .next (s''.takeTrap i.r { t with la := x.la }) := by
  have hr : i.r.g = i.r.g := rfl
  obtain ⟨r, j, hc, hj, hh, hk⟩ := h
  have hw := (checked_ok hk).1
  obtain ⟨_, w, hi⟩ := readWindow_ok hw
  have e : i.r = r := by rw [hi]; exact (iss?_some hj).1
  unfold State.issueWith
  rw [hc]; dsimp only
  rw [hj]; dsimp only
  rw [hh]; dsimp only
  rw [hk]; dsimp only
  rw [he]; dsimp only
  simp only [hm, Bool.false_and, Bool.false_eq_true, if_false, State.settle, hla, if_true, e]

end Sys2Proof
end

