-- ==== Sys2Proof/Laws/Memory.lean ====
section
/-! SUPPORT. Reads after writes of memory, and that every write keeps the canonical form. -/
namespace Sys2Proof.Machine

theorem memGet_cons (k a : Nat) (b : Byte) (r : Memory) : memGet ((k, b) :: r) a = if k = a then b else memGet r a := rfl

theorem memWfFrom_mono : ∀ (m : Memory) (lo hi : Nat), memWfFrom m hi = true → lo ≤ hi → memWfFrom m lo = true
  | [], _, _, _, _ => rfl
  | (k, b) :: r, lo, hi, h, hl => by
    simp only [memWfFrom, Bool.and_eq_true, decide_eq_true_eq] at h ⊢
    exact ⟨⟨by omega, h.1.2⟩, h.2⟩

/-! ### Bytes left out -/

/-- Bytes filtered out keep the canonical form (a frame zeroed, R194). -/
theorem memWfFrom_filter (p : Host.Cell → Bool) : ∀ (m : Memory) (lo : Nat), memWfFrom m lo = true → memWfFrom (m.filter p) lo = true
  | [], _, _ => rfl
  | (k, b) :: r, lo, h => by
    simp only [memWfFrom, Bool.and_eq_true, decide_eq_true_eq] at h
    simp only [List.filter_cons]
    split
    · simp only [memWfFrom, Bool.and_eq_true, decide_eq_true_eq]
      exact ⟨h.1, memWfFrom_filter p r (k + 1) h.2⟩
    · exact memWfFrom_filter p r lo (memWfFrom_mono r lo (k + 1) h.2 (by omega))

theorem Memory.wf_filter (m : Memory) (p : Host.Cell → Bool) (h : m.wf = true) : Memory.wf (m.filter p) = true :=
  memWfFrom_filter p m 0 h

/-- A byte read after the addresses that meet a condition have been emptied. -/
theorem memGet_filter (p : Nat → Bool) : ∀ (m : Memory) (c : Nat), memGet (m.filter fun x => !p x.1) c = if p c then unlisted else memGet m c
  | [], c => by simp [memGet]
  | (k, b) :: r, c => by
    have ih := memGet_filter p r c
    by_cases hk : p k = true
    · by_cases hc : k = c
      · subst hc; simp [hk, ih]
      · simp [hk, ih, memGet_cons, hc]
    · by_cases hc : k = c
      · subst hc; simp [hk, memGet_cons]
      · simp [hk, memGet_cons, hc, ih]

/-! ### Bytes written -/

theorem memGet_memIns : ∀ (m : Memory) (a c : Nat) (b : Byte), (∀ x ∈ m, x.1 ≠ a) → memGet (memIns m a b) c = if c = a then b else memGet m c
  | [], a, c, b, _ => by simp [memIns, memGet_cons, memGet, eq_comm]
  | (k, x) :: r, a, c, b, h => by
    have hk : k ≠ a := h (k, x) (List.mem_cons_self ..)
    have ih := memGet_memIns r a c b fun y hy => h y (List.mem_cons_of_mem _ hy)
    simp only [memIns]
    split
    · simp [memGet_cons, eq_comm]
    · by_cases hc : k = c
      · subst hc; simp [memGet_cons, hk]
      · simp [memGet_cons, hc, ih]

theorem memWfFrom_memIns : ∀ (m : Memory) (lo a : Nat) (b : Byte), memWfFrom m lo = true → lo ≤ a → b ≠ unlisted → (∀ x ∈ m, x.1 ≠ a) →
    memWfFrom (memIns m a b) lo = true
  | [], lo, a, b, _, hl, hb, _ => by simp [memIns, memWfFrom, hb, hl]
  | (k, c) :: r, lo, a, b, h, hl, hb, hn => by
    simp only [memWfFrom, Bool.and_eq_true, decide_eq_true_eq] at h
    obtain ⟨⟨hk, hc⟩, hr⟩ := h
    have hka : k ≠ a := hn (k, c) (List.mem_cons_self ..)
    simp only [memIns]
    split
    · simp only [memWfFrom, Bool.and_eq_true, decide_eq_true_eq]
      exact ⟨⟨hl, hb⟩, ⟨by omega, hc⟩, hr⟩
    · simp only [memWfFrom, Bool.and_eq_true, decide_eq_true_eq]
      exact ⟨⟨hk, hc⟩, memWfFrom_memIns r (k + 1) a b hr (by omega) hb fun x hx => hn x (List.mem_cons_of_mem _ hx)⟩

theorem mem_rest_ne (m : Memory) (a : Nat) : ∀ x ∈ m.filter (fun c => decide (c.1 ≠ a)), x.1 ≠ a := by
  intro x hx
  simpa using (List.mem_filter.mp hx).2

/-- A byte read after one is written. -/
theorem memGet_memSet (m : Memory) (a c : Nat) (b : Byte) : memGet (memSet m a b) c = if c = a then b else memGet m c := by
  have e : (m.filter fun x => decide (x.1 ≠ a)) = m.filter fun x => !(decide (x.1 = a)) := by congr 1; funext x; simp
  have f := memGet_filter (fun k => decide (k = a)) m c
  simp only [memSet]
  split
  · rename_i hb
    rw [e, f, hb]; simp
  · rw [memGet_memIns _ _ _ _ (mem_rest_ne m a), e, f]
    by_cases hc : c = a <;> simp [hc]

/-- A write keeps the canonical form. -/
theorem Memory.wf_memSet (m : Memory) (a : Nat) (b : Byte) (h : m.wf = true) : Memory.wf (memSet m a b) = true := by
  have hf := m.wf_filter (fun c => decide (c.1 ≠ a)) h
  simp only [memSet]
  split
  · exact hf
  · rename_i hb
    exact memWfFrom_memIns _ 0 a b hf (Nat.zero_le a) hb (mem_rest_ne m a)

/-- Bytes written keep the canonical form. -/
theorem Memory.wf_memWrite : ∀ (bs : List Byte) (m : Memory) (a : Nat), m.wf = true → Memory.wf (memWrite m a bs) = true
  | [], _, _, h => h
  | b :: r, m, a, h => Memory.wf_memWrite r (memSet m a b) (a + 1) (m.wf_memSet a b h)

/-- A byte read after bytes are written. -/
theorem memGet_memWrite : ∀ (bs : List Byte) (m : Memory) (a c : Nat),
    memGet (memWrite m a bs) c = if a ≤ c ∧ c < a + bs.length then bs.getD (c - a) 0 else memGet m c
  | [], m, a, c => by
    have : ¬ (a ≤ c ∧ c < a + 0) := by omega
    rw [List.length_nil, if_neg this]; rfl
  | b :: r, m, a, c => by
    rw [memWrite, memGet_memWrite r _ (a + 1) c, memGet_memSet m a c b]
    by_cases h1 : c = a
    · subst h1
      have h2 : ¬ (c + 1 ≤ c ∧ c < c + 1 + r.length) := by omega
      have h3 : c ≤ c ∧ c < c + (b :: r).length := by simp
      rw [if_neg h2, if_pos h3, if_pos rfl, Nat.sub_self, List.getD_cons_zero]
    · by_cases h2 : a + 1 ≤ c ∧ c < a + 1 + r.length
      · have h3 : a ≤ c ∧ c < a + (b :: r).length := by simp; omega
        rw [if_pos h2, if_pos h3]
        have : c - a = (c - (a + 1)) + 1 := by omega
        rw [this]; simp
      · have h3 : ¬ (a ≤ c ∧ c < a + (b :: r).length) := by simp; omega
        rw [if_neg h2, if_neg h3, if_neg h1]

/-- Bytes moved to other places keep the canonical form (a page copied, R208). -/
theorem Memory.wf_foldr (f : Host.Cell → Nat) : ∀ (xs : List Host.Cell) (m : Memory), m.wf = true →
    Memory.wf (xs.foldr (fun c m => memSet m (f c) c.2) m) = true
  | [], _, h => h
  | x :: r, m, h => by rw [List.foldr_cons]; exact Memory.wf_memSet _ _ _ (Memory.wf_foldr f r m h)

theorem memRead_length : ∀ (n : Nat) (m : Memory) (a : Nat), (memRead m a n).length = n
  | 0, _, _ => rfl
  | n + 1, m, a => by simp [memRead, memRead_length n]

theorem leBytes_length : ∀ (n v : Nat), (leBytes v n).length = n
  | 0, _ => rfl
  | n + 1, v => by simp [leBytes, leBytes_length n]

/-- A number read back from its bytes (R4). -/
theorem leNat_leBytes : ∀ (n v : Nat), leNat (leBytes v n) = v % 256 ^ n
  | 0, v => by simp [leBytes, leNat, Nat.mod_one]
  | n + 1, v => by
    rw [leBytes, leNat, leNat_leBytes n, BitVec.toNat_ofNat]
    have e : 256 ^ (n + 1) = 256 * 256 ^ n := by rw [Nat.pow_succ, Nat.mul_comm]
    have p : (2 : Nat) ^ 8 = 256 := rfl
    rw [e, Nat.mod_mul, p]

end Sys2Proof.Machine
end

