-- ==== Sys2Proof/Tests/Slice0.lean ====
section
/-! SUPPORT. Tests: instruction words of the spec decoded, ill-formed terms refused, single steps, and concrete states that meet the hypotheses of the statements. Expected values are worked out by hand from the rules that a test names. -/
namespace Sys2Proof.Tests
open Machine
set_option Elab.async false

/-! ### Decoding (R304 to R326, R450) -/

def read (ws : List Word) : Option (Instr × Nat) := (decodeWords ws).toOption
def readSill (w : Word) : Option Instr := (decodeSill w).toOption

theorem test_decode_iadd : read [0x100C1440#32] = some (.iadd ⟨4#6, 3#8, 5#8⟩, 1) := by decide
theorem test_decode_sadd : read [0x072C1500#32] = some (.sadd ⟨1#6, 203#8, 5#8⟩, 1) := by decide
theorem test_decode_ffma : read [0x002C298D#32, 0x000A000C#32, 0xC0060120#32] = some (.ffma ⟨0#6, 11#8, 10#8, .e 0x000A000C#32 0xC0060120#32⟩, 3) := by decide
theorem test_decode_imul_window : read [0x03000449#32, 0x92000000#32, 0x40000001#32] = some (.imulExtended ⟨0#6, 192#8, 1#8, .e 0x92000000#32 0x40000001#32⟩, 3) := by decide
theorem test_decode_slpush : read [0x00140660#32] = some (.slpush ⟨0#6, 5#8, 1#8⟩, 1) := by decide
theorem test_decode_ld : read [0x08102281#32, 0x0A200002#32, 0x00000010#32] = some (.ld ⟨2#6, 4#8, 8#8, .e 0x0A200002#32 0x10#32⟩, 3) := by decide
theorem test_decode_barwait : read [0x04000F08#32] = some (.barwait ⟨1#6, 0#8, 3#8⟩, 1) := by decide
theorem test_decode_waitany : read [0x00000321#32, 0x0000000D#32, 0x4000000C#32] = some (.waitany ⟨0#6, 0#8, 0#8, .e 0xD#32 0x4000000C#32⟩, 3) := by decide
theorem test_decode_strsave : read [0x02400385#32, 0x02000000#32, 0x00000000#32] = some (.strsave ⟨0#6, 144#8, 0#8, .e 0x02000000#32 0#32⟩, 3) := by decide
theorem test_decode_tret : read [0x08000380#32] = some (.tretFail, 1) := by decide
theorem test_decode_zfma : readSill 0x38C09000#32 = some (.zfma ⟨false, false, 6#4, 0#3, 1#3, 1#3, 0#12⟩) := by decide
/-- Opcode 0x0E is unassigned, 0x02 has no S form, and ICMP has no sub-operation 6 (R319, R340). -/
theorem test_decode_unlisted : read [0x00000038#32] = none ∧ read [0x00000008#32] = none ∧ read [0x18000071#32] = none ∧ readSill 0xB8000000#32 = none := by decide
/-- The row's own bits, numbered from the first word's lowest, as a number. -/
theorem test_table_word : decodeTableWord 32 0x100C1440 = some (.iadd ⟨4#6, 3#8, 5#8⟩) ∧ decodeTableWord 32 0x98000000 = some (.zrow ⟨false, false, 0, 0, 0, 0, 0⟩) := by decide

/-! ### Well-formedness: a good term, and for each check a term that it refuses -/

theorem smoke_good : (Instr.iadd ⟨4#6, 3#8, 5#8⟩).wellFormed = true := by decide
/-- The form is not listed: IADDC has no L form (R320). -/
theorem smoke_form : (Instr.iaddc ⟨0#6, 3#8, 5#8, .l 0#64⟩).wellFormed = false := by decide
/-- The sub-operation is not listed (R340). -/
theorem smoke_subop : (Instr.icmp ⟨6#6, 3#8, 5#8, .e 0x12000004#32 0#32⟩).wellFormed = false := by decide
/-- A reserved bit of word 2, of kind Z (R316). -/
theorem smoke_reserved : (Instr.sealExtended ⟨0#6, 0#8, 5#8, .e 0#32 1#32⟩).wellFormed = false := by decide
/-- A code outside its kind: an odd register of a pair (R121), a scalar beyond s159 (R122), a predicate beyond p7 (R124), a slide beyond w7. -/
theorem smoke_pair : (Instr.iaddExtended ⟨0#6, 3#8, 4#8, .e 0x1A000006#32 0#32⟩).wellFormed = false := by decide
theorem smoke_scalar : (Instr.smov ⟨0#6, 1#8, 160#8⟩).wellFormed = false := by decide
theorem smoke_pred : (Instr.pmov ⟨0#6, 8#8, 1#8⟩).wellFormed = false := by decide
theorem smoke_slide : (Instr.slreset ⟨0#6, 0#8, 8#8⟩).wellFormed = false := by decide
/-- LA on an instruction that is not long-latency (R310), a guard on one that has none (R309), SAT on one that takes none (R335), a type outside 9, 10, 13 and 14 (R335). -/
theorem smoke_lookahead : (Instr.iaddExtended ⟨0#6, 3#8, 5#8, .e 0x12100004#32 0#32⟩).wellFormed = false := by decide
theorem smoke_guard : (Instr.saddExtended ⟨0#6, 3#8, 5#8, .e 0x1A010004#32 0#32⟩).wellFormed = false := by decide
theorem smoke_sat : (Instr.iminExtended ⟨0#6, 3#8, 5#8, .e 0x13000004#32 0#32⟩).wellFormed = false := by decide
theorem smoke_type : (Instr.iaddExtended ⟨0#6, 3#8, 5#8, .e 0x00000004#32 0#32⟩).wellFormed = false := by decide
/-- A window operand beside a field that it replaces (R313). -/
theorem smoke_window : (Instr.iaddExtended ⟨0#6, 3#8, 5#8, .e 0x12000004#32 0x40000000#32⟩).wellFormed = false := by decide
/-- A Sill word with T where its form takes none, and one with a field that it does not use (R450, R452). -/
theorem smoke_sill_shape : (Instr.zrow ⟨true, false, 0, 0, 0, 0, 0⟩).wellFormed = false := by decide
theorem smoke_sill_field : (Instr.zld ⟨false, false, 0, 0, 1, 0, 1⟩).wellFormed = false := by decide
/-- Words that the map lists are no illegal opcode. -/
theorem smoke_illegal : (Instr.illegalOpcode 0x100C1440#32 0#32).wellFormed = false ∧ (Instr.illegalOpcode 0x00000038#32 0#32).wellFormed = true := by decide

/-! ### A machine about to issue -/

/-- A strand of a team on core 0 whose window k0 has 256 words, in a machine whose agenda is empty. -/
def ready : State :=
  { (State.reset.placeYalhel 0).modTeam 0 0 (fun t => { t with windows := vmod t.windows 0 fun _ => ⟨255, 0x200000, true⟩ }) with
    agenda := [], cur := some placedRef }

def inGroup (f : Group → Group) (s : State) : State := s.modGroup placedRef.g f
def inTeam (f : Team → Team) (s : State) : State := s.modTeam 0 0 f
def inStrand (f : Strand → Strand) (s : State) : State := s.modGroup placedRef.g fun g => g.modStrand 0 f

/-- The same machine with the handler strand of the group issuing. -/
def handling : State :=
  { ready.modGroup placedRef.g (fun g => { g with trap := .handling, handler := some (g.strand 0) }) with cur := some ⟨placedRef.g, 0, true⟩ }

/-- The registers beyond its fields that an instruction names. -/
def moreOf : Instr → State → Iss → Uses
  | .bfly _ | .bflyExtended _ => bflyMore
  | .slpush y => slideUses true y.d.toNat
  | .slpushExtended y => slideUses true y.d.toNat
  | .slsetw y => slideUses true y.d.toNat
  | .slreset y => slideUses true y.d.toNat
  | .slread y => slideUses false y.a.toNat
  | .slreadExtended y => slideUses false y.a.toNat
  | .slsave y => imageUses true y.d.toNat
  | .slload y => imageUses false y.d.toNat
  | c => systemUses c

/-- The outcome of an operation that goes on. -/
def landed {α : Type} : Res α → Option (State × α)
  | .ok s a => some (s, a)
  | .hold .. | .trap .. | .gone .. => none

theorem landed_is {α : Type} {x : Res α} {s : State} {a : α} (h : landed x = some (s, a)) : x = .ok s a := by
  cases x with
  | ok s1 a1 =>
    have e : (s1, a1) = (s, a) := Option.some.inj h
    rw [Prod.mk.injEq] at e
    rw [e.1, e.2]
  | hold | trap | gone => exact absurd h (by simp [landed])

/-- The state and the instruction as it issues, if it does. -/
def issueOf (more : State → Iss → Uses) (s : State) (x : Enc) : Option (State × Iss) :=
  s.cur.bind fun r => (s.iss? r x).bind fun j =>
    let u := (Enc.uses x).join (more s j)
    (landed (s.checked j u)).filter fun _ => j.held u = none

/-- What issueOf gives meets the hypothesis of the statements. -/
theorem issueOf_issues {more : State → Iss → Uses} {s s' : State} {x : Enc} {i : Iss} (h : issueOf more s x = some (s', i)) : IssuesWith more s x s' i :=
  let ⟨r, hr, h⟩ := Option.bind_eq_some_iff.mp h
  let ⟨j, hj, h⟩ := Option.bind_eq_some_iff.mp h
  let ⟨ok, free⟩ := Option.filter_eq_some_iff.mp h
  ⟨r, j, hr, hj, of_decide_eq_true free, landed_is ok⟩

/-- The well-formed instruction that words encode, as it issues in a state, and what a test says of it. -/
def onIssue (s : State) (ws : List Nat) (p : Instr → State → Iss → Bool) : Bool :=
  match read (ws.map (BitVec.ofNat 32)) with
  | some (c, n) => c.wellFormed && decide (n = ws.length) && match c.enc? with
    | some x => match issueOf (moreOf c) s x with
      | some (s', i) => p c s' i
      | none => false
    | none => false
  | none => false

/-- The state after exec, and what a test says of it and of the group. -/
def onNext (c : Instr) (s : State) (p : State → Group → Bool) : Bool :=
  match exec c s with
  | .next t => match t.group? placedRef.g with
    | some g => p t g
    | none => false
  | _ => false

/-! ### Instructions that issue: one term for each constructor, by the statement that covers it -/

theorem witness_integers : (
  [[0x18100840], [0x100841, 0x1200000A, 0x0], [0x18100844], [0x100845, 0x1200000A, 0x0], [0x18100848],
   [0x100849, 0x1200000A, 0x0], [0x1810084C], [0x10084D, 0x1200000A, 0x0], [0x100851, 0x1200080A, 0x0], [0x1810085C],
   [0x10085D, 0x1200000A, 0x0], [0x18100860], [0x100861, 0x1200000A, 0x0], [0x100864], [0x100865, 0x12000000, 0x0],
   [0x100868], [0x100869, 0x12000000, 0x0], [0x10086D, 0x1200010A, 0x0], [0x100871, 0x1200000A, 0x0], [0x100875, 0x1200000A, 0x0],
   [0x18100878], [0x100879, 0x1200000A, 0x0], [0x1810087C], [0x10087D, 0x1200000A, 0x0], [0x18100880],
   [0x100881, 0x1200000A, 0x0], [0x18100884], [0x100885, 0x1200000A, 0x0], [0x100888], [0x100889, 0x12000000, 0x0],
   [0x10088D, 0x1200080A, 0x0], [0x18100890], [0x100891, 0x1200000A, 0x0], [0x18100894], [0x100895, 0x1200000A, 0x0],
   [0x18100898], [0x100899, 0x1200000A, 0x0], [0x1810089C], [0x10089D, 0x1200000A, 0x0], [0x1008A1, 0x1200080A, 0x0],
   [0x1008A4], [0x1008A5, 0x12000000, 0x0], [0x1008A8], [0x1008A9, 0x12000000, 0x0], [0x1008AC],
   [0x1008AD, 0x12000000, 0x0], [0x1008B1, 0x1200080A, 0x0], [0x1008B5, 0x1200080A, 0x0], [0x1008B9, 0x1200010A, 0x0], [0x1008BC],
   [0x1008BD, 0x12000000, 0x0], [0x8C1, 0x12000000, 0x0], [0x1008C5, 0x1200000A, 0x0]]
  : List (List Nat)).all (fun ws => onIssue ready ws fun c s _ => (integerClaim c).isSome && decide (s.residueMiss ≤ 2)) = true := by decide +kernel

theorem witness_scalars : (
  [[0x18100900], [0x100901, 0x1200000A, 0x0], [0x18100904], [0x100905, 0x1200000A, 0x0], [0x18100908],
   [0x100909, 0x1200000A, 0x0], [0x1810090C], [0x10090D, 0x1200000A, 0x0], [0x18100910], [0x100911, 0x1200000A, 0x0],
   [0x18100914], [0x100915, 0x1200000A, 0x0], [0x18100918], [0x100919, 0x1200000A, 0x0], [0x1810091C],
   [0x10091D, 0x1200000A, 0x0], [0x18100920], [0x100921, 0x1200000A, 0x0], [0x100924], [0x100925, 0x12000000, 0x0],
   [0x929, 0x12000000, 0x0], [0x10092D, 0x1200000A, 0x0], [0x100930], [0x100931, 0x0, 0x0], [0x100939, 0x0, 0x0],
   [0x1810093C], [0x10093D, 0x1, 0x0], [0x18100940], [0x100941, 0x1, 0x0], [0x18100944],
   [0x100945, 0x1, 0x0], [0x100948], [0x100949, 0x0, 0x0], [0x10094C], [0x10094D, 0x0, 0x0],
   [0x100950], [0x100951, 0x0, 0x0]]
  : List (List Nat)).all (fun ws => onIssue ready ws fun c s _ => (scalarPredClaim c).isSome && decide (s.residueMiss ≤ 2)) = true := by decide +kernel

/-- READLANE of lane 31, in both forms. -/
theorem witness_readlane : (([[0x7C100934], [0x00100935, 0x0000000A, 0x00000000]] : List (List Nat)).all fun ws => onIssue ready ws fun _ _ i =>
    i.g.setHolds i.st { rv := [i.x.a.toNat], lanes := laneBit 31 } == false && Uses.touches { rv := [i.x.a.toNat], lanes := laneBit 31 } (i.g.pendingFor i.r.num (laneBit 31)) == false) = true := by
  decide +kernel

theorem witness_floats : (
  [[0x18100980], [0x100981, 0xA, 0x0], [0x18100984], [0x100985, 0xA, 0x0], [0x18100988],
   [0x100989, 0xA, 0x0], [0x10098D, 0x80A, 0x0], [0x18100990], [0x100991, 0xA, 0x0], [0x18100994],
   [0x100995, 0xA, 0x0], [0x100998], [0x100999, 0x0, 0x0], [0x10099C], [0x10099D, 0x0, 0x0],
   [0x181009A1, 0xA, 0x0], [0x181009A5, 0xA, 0x0], [0x1009A8], [0x1009A9, 0x0, 0x0], [0x181009AC],
   [0x1009AD, 0xA, 0x0], [0x181009B0], [0x1009B1, 0xA, 0x0], [0x181009B4], [0x1009B5, 0xA, 0x0],
   [0x1009B9, 0x80A, 0x0], [0x181009BC], [0x1009BD, 0xA, 0x0], [0x181009C0], [0x1009C1, 0xA, 0x0],
   [0x1009C5, 0x80A, 0x0], [0x1009ED, 0xA, 0x0], [0x1009F5, 0xA, 0x0]]
  : List (List Nat)).all (fun ws => onIssue ready ws fun c _ _ => (floatsClaim c).isSome) = true := by decide +kernel

theorem witness_exchanges : (
  [[0x18100810], [0x00100811, 0x0000000A, 0x00000000],
   [0x18100A40], [0x100A41, 0x1200000A, 0x0], [0x18100A44], [0x100A45, 0x12000000, 0x40000000], [0x18100A48],
   [0x100A49, 0x12000000, 0x40000000], [0x18100A4C], [0x100A4D, 0x12000000, 0x40000000], [0x100A55, 0x12000000, 0x0], [0x100A59, 0x12000000, 0x0]]
  : List (List Nat)).all (fun ws => onIssue ready ws fun c _ _ => (exchangesClaim c).isSome) = true := by decide +kernel

/-- BFLY at distances 1 and 16, and at distance 0 from a window word, which is none (R381). -/
theorem witness_bfly : (([[0x04100A50], [0x40100A50]] : List (List Nat)).all fun ws => onIssue ready ws fun _ _ i =>
      (lanesOf i.active).all fun l => [1, 2, 4, 8, 16].contains (i.shuffleArg false l)) = true ∧
    onIssue ready [0x00100A51, 0x12000000, 0x40000000] (fun _ _ i => i.active != 0 && (lanesOf i.active).all fun l => i.shuffleArg false l == 0) = true := by
  decide +kernel

/-- A register of every lane set in the group. -/
def withV (k : Nat) (w : Word) (s : State) : State := inGroup (fun g => { g with v := vmod g.v k fun _ => .splat w }) s

/-- CVT from binary32 to binary16 with the trapping policy: of 1.0, and of 2^20, which overflows (R374). -/
theorem witness_cvt :
    let lanes (s : State) (b : Bool) : Bool := onIssue s [0x000C09E9, 0x03000101, 0x00000000] fun _ _ i =>
      (List.range 32).all fun l => ((Fmt.ofCode 1#4).getD .f32 |>.conv (Enc.mode i.x) (Ovp.ofCode i.x.ovp) (Fmt.f32.decode (i.srcA false l).toNat) (i.draw l 0)).trap == b
    lanes (withV 3 0x3F800000#32 ready) false = true ∧ lanes (withV 3 0x49800000#32 ready) true = true := by
  decide +kernel

/-- BPACK with no lane active, with lanes that fit, and with an infinity under the trapping policy (R375). -/
theorem witness_bpack :
    onIssue ready [0x001009F1, 0x00080001, 0x00000000] (fun _ _ i => i.active == 0) = true ∧
    onIssue ready [0x001009F1, 0x03000001, 0x00000000] (fun _ _ i => i.active != 0 && (List.range 32).all fun l => !i.block.overflowed.getD l false) = true ∧
    onIssue (withV 4 0x7F800000#32 ready) [0x001009F1, 0x03000001, 0x00000000] (fun _ _ i => decide (Ovp.ofCode i.x.ovp = .trap) && (List.range 32).any fun l => i.block.overflowed.getD l false) = true := by
  decide +kernel

theorem witness_long : (
  [[0x100855, 0x1200000A, 0x0], [0x100859, 0x1200000A, 0x0],
   [0x1009C9, 0x0, 0x0], [0x1009CD, 0x0, 0x0], [0x1009D1, 0x0, 0x0], [0x1009D5, 0x0, 0x0], [0x1009D9, 0x0, 0x0],
   [0x1009DD, 0x0, 0x0], [0x1009E1, 0x0, 0x0], [0x1009E5, 0x0, 0x0]]
  : List (List Nat)).all (fun ws => onIssue ready ws fun c s _ => (longClaim c).isSome && decide (s.residueMiss ≤ 2)) = true := by decide +kernel

/-- GETSR of each control register that R276 lists, in the handler strand, and of VTEAM in any. -/
theorem witness_getsr : ([0, 1, 2, 3, 4, 8, 9, 10, 11, 12] : List Nat).all (fun n => onIssue handling [0x00000955, 0, n] fun c s i =>
      (match c with | .getsr _ => true | _ => false) && (controlValue s i n).isSome == (n != 3)) = true ∧
    onIssue ready [0x00000955, 0, 0x80] (fun _ _ _ => true) = true := by
  decide +kernel

/-- SETSR of each control register, in the handler strand, and of SEED in any (R276, R351). -/
theorem witness_setsr : ([0, 1, 2, 3, 4, 8, 9, 10, 11, 12] : List Nat).all (fun n => onIssue handling [0x00100159, 0, n] fun _ _ _ => true) = true ∧
    onIssue ready [0x00100159, 0, 0x81] (fun _ _ _ => true) = true := by
  decide +kernel

theorem witness_transfers : (
  [[0x00000000], [0x00000001, 0x00000000, 0x00000000], [0x00000005, 0x00000000, 0x00000000], [0x00000019, 0x00000000, 0x00000000], [0x0000001C],
   [0x00100021, 0x00000000, 0x00000000], [0x0000002C]]
  : List (List Nat)).all (fun ws => onIssue ready ws fun c _ _ => (transferClaim c).isSome) = true := by decide +kernel

/-- BKPT and TRAP with the greatest code, and an unassigned opcode, alone and behind a long-latency instruction with no lookahead (R149, R317). -/
theorem witness_software_traps :
    onIssue ready [0xFC000030] (fun _ _ _ => true) = true ∧ onIssue ready [0xFC000034] (fun _ _ _ => true) = true ∧
    ((ready.iss? placedRef (Enc.ofWords 0x38#32 0 0 0 0)).any fun j => j.g.inWindows 0 (Enc.endsWindow j.x)) = true ∧
    (((inGroup (fun g => { g with longs := [⟨1, 0, 0, 0, 1, []⟩] }) ready).iss? placedRef (Enc.ofWords 0x38#32 0 0 0 0)).any fun j => !j.g.inWindows 0 (Enc.endsWindow j.x)) = true := by
  decide +kernel

/-! ### Strands (R129 to R136, R358 to R361) -/

/-- Bytes of device memory set from outside. -/
def withMem (a : Nat) (bs : List Byte) (s : State) : State := { s with mem := memWrite s.mem a bs }

/-- What a FORK has read of its descriptor. -/
def forkReads (s : State) (i : Iss) : Option (List Word) :=
  match s.readSet i 9 [] with
  | .ok _ ws => some ws
  | _ => none

/-- Every entry of the strand table taken. -/
def full (g : Group) : Group := { g with strands := g.strands.map fun st => if st.valid then st else { g.strand 0 with order := [1#2], mask := 0 } }

/-- FORK, for each of its clauses: a reserved bit of the descriptor, a register that the arm has not declared, a fifteenth level, two arms into free entries, a fold, and a wait of a strand that is not the earliest. -/
theorem witness_fork :
    let fork := [0x0010000B, 0x00000000, 0x40000000, 0x00000024, 0x00000034]
    let at_ (s : State) (p : Iss → List Word → Bool) : Bool := onIssue s fork fun _ s' i => (forkReads s' i).any (p i)
    let halves (s : State) : State := inGroup (fun g => { g with p := vmod g.p 4 fun _ => 0xFFFF0000#32 }) s
    let deep (n : Nat) : State := inStrand (fun st => { st with order := List.replicate n 0#2 }) ready
    at_ (withMem 0x200020 [1#8] ready) (fun _ ws => badDescriptor ws) = true ∧
    at_ (withMem 0x200020 [0#8, 1#8] ready) (fun _ ws => badDescriptor ws) = true ∧
    at_ (withMem 0x200000 [0x10#8] (inStrand (fun st => { st with arm := true }) ready)) (fun i ws => !badDescriptor ws && undeclaredOf i ws == some 4) = true ∧
    at_ (deep 15) (fun i ws => !badDescriptor ws && (undeclaredOf i ws).isNone && decide (15 ≤ i.st.order.length + i.st.folds)) = true ∧
    at_ (halves (deep 14)) (fun i ws => !badDescriptor ws && (undeclaredOf i ws).isNone && decide ((forkArms i).length = 2 ∧ (forkArms i).length ≤ i.g.freeEntries.length)) = true ∧
    at_ (inGroup full (halves ready)) (fun i _ => i.g.freeEntries == [] && decide ((forkArms i).length = 2) && i.g.earliest i.st) = true ∧
    at_ (inGroup full (halves (inStrand (fun st => { st with order := [2#2] }) ready))) (fun i _ => i.g.freeEntries == [] && !i.g.earliest i.st) = true := by
  decide +kernel

/-- A fold record of strand 0 whose taken arm runs (R132). -/
def record (phase : Bool) : FoldRec := ⟨0, 0x100100#64, 0x0000FFFF#32, 0xFFFF0000#32, phase, 0x100040#64, 0x30#256, 2#8⟩

def folded (phase : Bool) : State := inGroup (fun g => { g with folds := [record phase] }) (inStrand (fun st => { st with folds := 1 }) ready)

/-- SEAL in both forms, of an arm with its register in flight or not, of a folded strand, and of one with neither. -/
theorem witness_seal :
    let arm := inStrand (fun st => { st with arm := true, vset := 4#256, pset := 4#8 }) ready
    (([[0x0000080C], [0x0400080C], [0x0000080D, 0x00000000, 0x00000000]] : List (List Nat)).all fun ws =>
      onIssue arm ws (fun _ _ i => i.st.folds == 0 && i.st.arm) && onIssue (folded false) ws (fun _ _ i => i.st.folds != 0 && i.topFold.isSome) &&
      onIssue ready ws (fun _ _ i => i.st.folds == 0 && !i.st.arm)) = true ∧
    onIssue (inGroup (fun g => { g with longs := [⟨1, 0, 5, 0, 1, [(2, Lanes.zero)]⟩] }) arm) [0x0000080C] (fun _ _ i => vInFlight i.g 0 2) = true := by
  decide +kernel

/-- ENDARM of a folded strand, before and after its second arm, of an arm, and of neither. -/
theorem witness_endarm :
    (([false, true] : List Bool).all fun b => onIssue (folded b) [0x00000014] fun _ _ i => i.st.folds != 0 && i.topFold == some (record b)) = true ∧
    onIssue (inStrand (fun st => { st with arm := true, order := [0#2] }) ready) [0x00000014] (fun _ s i => i.st.folds == 0 && i.st.arm && noBarrierWait s) = true ∧
    onIssue ready [0x00000014] (fun _ _ i => i.st.folds == 0 && !i.st.arm) = true := by
  decide +kernel

/-- EXIT that waits for a signature of its group, that leaves lanes, and that takes the last ones while a result is in flight. -/
theorem witness_exit :
    let signed := ready.modCore 0 fun c => { c with convs := vmod c.convs 3 fun _ => some ⟨0, 0, 1, 2, 0, [⟨0, 0, none, none, none⟩]⟩ }
    let half := inStrand (fun st => { st with mask := 0x0000FFFF#32 }) ready
    onIssue signed [0x00000024] (fun _ s i => i.st.folds == 0 && !i.g.ended && (s.signedBy i.t i.g.gidx).isSome) = true ∧
    onIssue half [0x00000024] (fun _ s i => (s.signedBy i.t i.g.gidx).isNone && i.g.gone ||| i.st.mask != 0xFFFFFFFF#32 && noBarrierWait s) = true ∧
    onIssue (inGroup (fun g => { g with gone := 0xFFFF0000#32, longs := [⟨1, 3, 0, 0, 1, []⟩] }) half) [0x00000024]
      (fun _ s i => (s.signedBy i.t i.g.gidx).isNone && i.g.gone ||| i.st.mask == 0xFFFFFFFF#32 && noBarrierWait s && i.g.longs != []) = true := by
  decide +kernel

/-- A team whose second role is filled by SPAWN. -/
def spawning : State := inTeam (fun t => { t with nroles := 2, roles := [⟨1, 256, false⟩, ⟨0, 64, true⟩] }) ready

/-- The bins of core 0 all in use for another key. -/
def noBins (s : State) : State := s.modCore 0 fun c => { c with bins := Vector.replicate 16 (some ⟨0, 0, 3, 0, [], []⟩) }

/-- A vector store of strand 0 in the buffer, not yet released. -/
def unreleased : StoreEntry := ⟨1, 0, [], false, false, false, 0, [⟨0, .phys 0x300000 0x300000, [1#8], false⟩]⟩

/-- SPAWN of a role that is none, one behind an unreleased store, one without a bin, one without a lane, and one whose threads fit. -/
theorem witness_spawn :
    let spawn0 := [0x0010002A, 0x00000028, 0x00000000]
    let spawn1 := [0x0410002A, 0x00000028, 0x00000000]
    let legal (i : Iss) : Bool := decide (i.x.sub < i.t.nroles) && (i.t.roles.getD i.x.sub Role.none).spawn
    let lanes (i : Iss) : List Nat := lanesOf (i.active &&& ~~~i.st.placed)
    onIssue spawning spawn0 (fun _ _ i => !legal i) = true ∧
    onIssue (inGroup (fun g => { g with sb := [unreleased], nextId := 2 }) spawning) spawn1 (fun _ _ i => legal i && !releaseOver i .team) = true ∧
    onIssue (noBins spawning) spawn1 (fun _ s i => legal i && releaseOver i .team && lanes i != [] && (s.binFor i.t i.x.sub i.target.toNat).isNone) = true ∧
    onIssue (inStrand (fun st => { st with placed := 0xFFFFFFFF#32 }) spawning) spawn1 (fun _ _ i => legal i && releaseOver i .team && lanes i == []) = true ∧
    onIssue (inStrand (fun st => { st with mask := 0x7FFFFFFF#32 }) spawning) spawn1 (fun _ s i => legal i && releaseOver i .team && lanes i != [] &&
      (s.binFor i.t i.x.sub i.target.toNat).isSome && decide ((lanes i).length < i.t.binSize ∧ (lanes i).length ≤ 32)) = true := by
  decide +kernel

/-! ### Slide accumulators (R384 to R392) -/

/-- Slide w2 bound to v16 to v20, a window of n of its 3 values held. -/
def sliding (n : Nat) : State := inGroup (fun g => { g with slides := vmod g.slides 2 fun _ => ⟨true, 0, false, 16, 4, 3, n, 0, 1, 9⟩ }) ready

def usable (i : Iss) (k : Nat) : Bool := (i.g.slide k).bound && decide ((i.g.slide k).base + (i.g.slide k).cap < i.g.vregs)

/-- The strand as an arm, and behind an earlier strand that shares its lanes. -/
def asArm (s : State) : State := inStrand (fun st => { st with arm := true }) s
def behind (s : State) : State := inGroup (fun g => { g with strands := vmod g.strands 1 fun _ => { g.strand 0 with order := [0#2] } }) (inStrand (fun st => { st with order := [1#2] }) s)

/-- SLPUSH, SLSETW and SLRESET of a bound slide, empty and full, of an unbound one, of an arm, and behind another strand; a length at each bound of its range and outside it. -/
theorem witness_slides :
    let ops : List (List Nat) := [[0x00100A60], [0x00100A61, 0x12000000, 0x00000000], [0x00000A69, 0x12000000, 0x40000000], [0x00000A6C]]
    let len (n : Nat) (s : State) : State := withMem 0x200000 [BitVec.ofNat 8 n] s
    (ops.all fun ws => onIssue ready ws (fun c _ i => (slideClaim c).isSome && !usable i 2) && onIssue (asArm (sliding 3)) ws (fun _ _ i => usable i 2 && i.hasSet) &&
      onIssue (behind (sliding 3)) ws (fun _ _ i => usable i 2 && !i.hasSet && i.g.sharesEarlier i.st) &&
      onIssue (len 4 (sliding 0)) ws (fun _ _ i => usable i 2 && !i.hasSet && !i.g.sharesEarlier i.st && (i.x.o != 0x9A || i.scalarB.toNat % 128 == 4)) &&
      onIssue (len 1 (sliding 3)) ws (fun _ _ i => usable i 2 && !i.hasSet && !i.g.sharesEarlier i.st && (i.x.o != 0x9A || i.scalarB.toNat % 128 == 1))) = true ∧
    (([0, 5] : List Nat).all fun n => onIssue (len n (sliding 3)) [0x00000A69, 0x12000000, 0x40000000] fun _ _ i => usable i 2 && (i.scalarB.toNat % 128 == n)) = true := by
  decide +kernel

/-- SLREAD of a bound and an unbound slide; SLDEF of an arm, behind another strand, with counts out of range, with its aggregate register marked by a pass, and with the greatest count. -/
theorem witness_slide_definitions :
    let defF := [0x18100A5D, 0x00000000, 0x40000000]
    let def0 := [0x00100A5D, 0x12000000, 0x40000000]
    let n (v : Nat) (s : State) : State := withMem 0x200000 (leBytes v 4) s
    (([[0x00080A64], [0x00080A65, 0x12000000, 0x00000000]] : List (List Nat)).all fun ws =>
      onIssue ready ws (fun _ _ i => !usable i 2) && onIssue (sliding 3) ws (fun _ _ i => usable i 2)) = true ∧
    onIssue (asArm ready) def0 (fun _ _ i => i.hasSet) = true ∧
    onIssue (behind ready) def0 (fun _ _ i => !i.hasSet && i.g.sharesEarlier i.st) = true ∧
    onIssue (n 0x0400 ready) def0 (fun _ _ i => i.scalarB.toNat % 128 == 0) = true ∧
    onIssue (n 0x4040 ready) def0 (fun _ _ i => i.scalarB.toNat % 128 == 64 && i.scalarB.toNat / 256 % 128 == 64 && !i.busyRegs [i.x.a.toNat + 64]) = true ∧
    onIssue (n 0x0104 (inGroup (fun g => { g with marks := [⟨8, true, 1⟩] }) ready)) def0 (fun _ _ i => i.busyRegs [i.x.a.toNat + 4]) = true ∧
    onIssue (n 0x0101 ready) defF (fun _ _ i => i.x.sub == 6 && i.x.ty == 0 && !i.hasSet) = true := by
  decide +kernel

/-! ### Addresses -/

/-- A scalar of the group. -/
def withS (k : Nat) (v : DWord) (s : State) : State := inGroup (fun g => { g with s := vmod g.s k fun _ => v }) s

/-- A user context 1 whose pages are those given, and every other page is absent; the team belongs to it. -/
def user (pages : List (Nat × Leaf)) : State :=
  let s := withMem 0x400000 [3#8] ready
  let s := s.modCore 0 fun c => { c with tlb := pages.map fun p => ⟨1, p.1, p.2⟩ }
  { s with ctxs := s.ctxs ++ [{ Ctx.system with num := 1, ptroot := 0x400000 }], teams := s.teams.map (fun t => { t with ctx := 1 })
           cur := some ⟨⟨1, 0, 0⟩, 0, false⟩ }

/-- A page of device memory with every permission. -/
def page (pa : Nat) : Leaf := ⟨pa, 65536, none, true, false, true, true, true⟩

/-- A result that a test looks into. -/
def okAnd {α : Type} (r : Res α) (p : State → α → Bool) : Bool :=
  match r with
  | .ok s a => p s a
  | _ => false

/-- A test of the terms of a Yalhel instruction that issues in a state of a user context. -/
def inUser (f : Group → Group) (s : State) : State := s.modGroup ⟨1, 0, 0⟩ f

/-! ### Images of slides (R188, R392) -/

/-- SLSAVE with the head's store before it unreleased, on absent pages, and of a bound slide in memory. -/
theorem witness_slsave :
    let save := [0x00100A71, 0x12000000, 0x00000000]
    let there (s : State) (some_ : Bool) : Bool := onIssue s save fun _ s' i => !i.hasSet && !i.g.sharesEarlier i.st && !i.storesWait && !i.g.bufferFull i.st 0 &&
      okAnd (s'.imageTargets i i.addrOnce (imagePieces i.g 2).length .write) fun _ r => r.isSome == some_
    onIssue (inGroup (fun g => { g with sb := [unreleased] }) ready) save (fun _ _ i => !i.hasSet && !i.g.sharesEarlier i.st && i.storesWait) = true ∧
    there (user []) false = true ∧ there (withS 4 0x300000 (sliding 3)) true = true := by
  decide +kernel

/-- A slide image in memory: BOUND, OP 0, BASE 16, CAP 1, WIN 1, N 0. -/
def slideHead : List Byte := leBytes (2 ^ 63 + 16 * 2 ^ 48 + 1 * 2 ^ 41 + 1 * 2 ^ 34) 16

/-- SLLOAD behind its own unreleased store, of an absent page, of an image whose head fails its checks (CAP 0), of an unbound one, and of a bound one. -/
theorem witness_slload :
    let load := [0x00100A75, 0x12000000, 0x00000000]
    let head (s : State) (p : List Byte → State → Iss → Bool) : Bool := onIssue s load fun _ s' i => !i.hasSet && !i.g.sharesEarlier i.st && !i.storesWait &&
      okAnd (s'.imageTargets i i.addrOnce 1 .read) fun s2 hs => hs.any fun p1 => okAnd (s2.readPieces i p1) fun s3 h => h.any fun bs => p bs s3 i
    let at_ (bs : List Byte) : State := withMem 0x300000 bs (withS 4 0x300000 ready)
    onIssue (inGroup (fun g => { g with sb := [unreleased] }) ready) load (fun _ _ i => i.storesWait) = true ∧
    onIssue (user []) load (fun _ s' i => okAnd (s'.imageTargets i i.addrOnce 1 .read) fun _ hs => hs.isNone) = true ∧
    head (at_ (leBytes (2 ^ 63) 16)) (fun bs s3 i => (Slide.ofBytes i.g.vregs bs).isNone && okAnd (s3.imageTargets i i.addrOnce 1 .read) fun _ ts => ts.isSome) = true ∧
    head (at_ []) (fun bs s3 i => (Slide.ofBytes i.g.vregs bs).any (!·.bound) && okAnd (s3.imageTargets i i.addrOnce 1 .read) fun _ ts => ts.isSome) = true ∧
    head (at_ slideHead) (fun bs s3 i => (Slide.ofBytes i.g.vregs bs).any (fun d => d.bound && !i.busyRegs d.storage) &&
      okAnd (s3.imageTargets i i.addrOnce 3 .read) fun s4 ts => ts.any fun q => okAnd (s4.readPieces i (q.drop 1)) fun _ b => b.isSome) = true := by
  decide +kernel

/-! ### Loads, stores and atomics (R141 to R144, R393 to R411) -/

def stopped (s : State) : State := inStrand (fun st => { st with mask := 0 }) s

/-- An instruction that issues in a state without more residue mismatches than a replay mends, with the state that its checks leave, as a test (R289). -/
def onChecked (s : State) (ws : List Nat) (p : State → Iss → Bool) : Bool := onIssue s ws fun _ s' i => decide (s'.residueMiss ≤ 2) && p (residueChecked s' i) i

/-- LD with no active lane and of a word of memory, SLD of one, LDK within its window at its last word and one beyond it. -/
theorem witness_loads :
    let s := withS 4 0x300000 ready
    onChecked s [0x08100A81, 0x00080100, 0] (fun s' i => okAnd (s'.targets i.t i.g i.active i.addr 4 .read false) fun _ ts => ts == []) = true ∧
    onChecked s [0x08100A81, 0x00000100, 0] (fun s' i => okAnd (s'.targets i.t i.g i.active i.addr 4 .read false) fun s2 ts =>
      decide (ts ≠ [] ∧ s2.poison = [] ∧ s2.l2bad = []) && s2.teams.all (·.poison == []) && ts.all fun t => isHere t.2) = true ∧
    onChecked s [0x00100A8D, 0x00000100, 0] (fun s' i => okAnd (s'.targetOnce i i.addrOnce 1 .read false) fun s2 t => s2.poison == [] && s2.l2bad == [] && s2.teams.all (·.poison == []) && isHere t) = true ∧
    (([0xFF, 0x100] : List Nat).all fun n => onChecked (withS 4 (BitVec.ofNat 64 n) ready) [0x08100A89, 0, 0x40000000] fun s' i => i.x.la == 0 &&
      ((lanesOf i.active).all fun l => (i.scalarLane i.x.a l).toNat == n) && (okAnd (s'.windowWords i ((lanesOf i.active).map fun l => (l, n))) fun _ _ => true)) = true := by
  decide +kernel

/-- Sixteen entries of the group's store buffer, each with a part of lane 0. -/
def buffered (s : State) : State := inGroup (fun g => { g with sb := (List.range 16).map fun k => { unreleased with id := k + 1 }, nextId := 40 }) s

/-- ST and SST with a full buffer, with `.rel` behind an unreleased store and after it, and with their parts. -/
theorem witness_stores :
    let s := withS 4 0x300000 ready
    let at_ (op mod : Nat) : List Nat := [0x08100800 + op * 4 + 1, mod * 16777216 + 256, if mod = 0 then 0 else 0x40000000]
    (([0xA1, 0xA4] : List Nat).all fun op =>
      onChecked (buffered s) (at_ op 0) (fun _ i => i.active != 0 && i.g.bufferFull i.st i.active && i.g.bufferFull i.st i.st.mask) &&
      onChecked (inGroup (fun g => { g with sb := [unreleased], nextId := 2 }) s) (at_ op 0x80) (fun s' i => !i.g.bufferFull i.st i.active && i.x.ord == 2 && !releaseOver i i.scope &&
        okAnd (s'.targetOnce i i.addrOnce 4 .write false) fun _ _ => true) &&
      onChecked s (at_ op 0x80) (fun _ i => i.x.ord == 2 && releaseOver i i.scope) &&
      onChecked s (at_ op 0) (fun s' i => i.x.ord != 2 && (okAnd (s'.targets i.t i.g i.active i.addr 4 .write false) fun _ ts => ts != []) &&
        okAnd (s'.targetOnce i i.addrOnce 4 .write false) fun _ t => t != .nonres)) = true := by
  decide +kernel

/-- ATOM, CAS and ATOMAGG with a full buffer, with `.rel` waiting and over, with no lane, and with their parts; ATOMAGG on the stack. -/
theorem witness_atomics :
    let s := withS 4 0x300000 ready
    let at_ (op w1 : Nat) : List Nat := [0x00100800 + (if op = 0xA7 then 0x08000000 else 0) + op * 4 + 1, w1, 0]
    (([0xA5, 0xA7] : List Nat).all fun op =>
      onChecked (buffered s) (at_ op 0x100) (fun _ i => i.active != 0 && i.g.bufferFull i.st i.active) &&
      onChecked (inGroup (fun g => { g with sb := [unreleased], nextId := 2 }) s) [(at_ op 0).getD 0 0, 0x80000100, 0x40000000] (fun _ i => i.x.ord == 2 && !releaseOver i i.scope && !i.g.bufferFull i.st i.active) &&
      onChecked s (at_ op 0x80100) (fun s' i => okAnd (s'.targets i.t i.g i.active i.addr 4 .both false) fun _ ts => ts == []) &&
      onChecked s (at_ op 0x80000100) (fun s' i => releaseOver i i.scope && okAnd (s'.targets i.t i.g i.active i.addr 4 .both false) fun _ ts => ts != [])) = true ∧
    onChecked (withS 4 (0x7E#64 <<< 57) ready) (at_ 0xA6 0x100) (fun _ i => decide (i.addrOnce.toNat / 2 ^ 57 = 0x7E) && (laneTrap i.st.mask (fun _ => 4) (fun _ => i.addrOnce)).isSome) = true ∧
    onChecked (stopped s) (at_ 0xA6 0x100) (fun _ i => i.active == 0 && i.addrOnce.toNat / 2 ^ 57 != 0x7E) = true ∧
    onChecked (buffered s) (at_ 0xA6 0x100) (fun _ i => i.active != 0 && i.g.bufferFull i.st i.active) = true ∧
    onChecked s (at_ 0xA6 0x100) (fun s' i => i.active != 0 && !i.g.bufferFull i.st i.active && okAnd (s'.targetOnce i i.addrOnce 4 .both false) fun _ _ => true) = true := by
  decide +kernel

/-! ### Accesses in flight (R141, R143, R188, R198, R210 to R220, R397) -/

/-- An event of the group of the placed team. -/
def due (n k : Nat) (s : State) : State := { s with operand := { g := placedRef.g, n := n, k := k } }

/-- A load of a word by lane 3 of strand 0 in flight. -/
def loading (fe : Nat) (t : Target) (st : PartState) : Load := ⟨5, 0, 0, 0, .vector 2 4 false, fe, some 7, false, false, 0, none, 0x100000#64, 8#32, [⟨3, t, st, 0, 0, none⟩]⟩

def withLoad (l : Load) (s : State) : State := due 5 3 (inGroup (fun g => { g with loads := [l], nextId := 9 }) s)

/-- What the hypotheses of a lane's performance ask of the state, and more. -/
def laneDue (s : State) (p : Team → Group → Load → LoadPart → Bool) : Bool :=
  match s.team? s.operand.g.ctx s.operand.g.vteam, s.group? s.operand.g with
  | some t, some g => match g.loads.find? (·.id = s.operand.n) with
    | some l => l.dest != .store && !s.restoring s.operand.g && decide (s.residueMiss ≤ 2) && match l.parts.filter (fun q => q.lane = s.operand.k && q.st = .gated) with
      | [q] => p t g l q
      | _ => false
    | none => false
  | _, _ => false

/-- A lane of a load that order holds back, one of an absent page, one of memory, one of memory behind an unacknowledged store of its line, and one of scratch with `.fe`, empty and full. -/
theorem witness_lane_performs :
    let there := Target.phys 0x300000 0x300000
    let fed (full : List Nat) : State := withLoad (loading 1 (.scratch 0 32) .gated) (inTeam (fun t => { t with full := full }) ready)
    laneDue (withLoad (loading 0 there .gated) (behind ready)) (fun _ g l p => l.op.isNone && !g.lanePermitted l p.lane) = true ∧
    laneDue (withLoad (loading 0 .nonres .gated) ready) (fun _ g l p => l.op.isNone && g.lanePermitted l p.lane && !g.atomicWaits l p.lane && p.target == .nonres) = true ∧
    laneDue (withLoad (loading 0 there .gated) ready) (fun t g l p => l.op.isNone && g.lanePermitted l p.lane && !g.atomicWaits l p.lane && !ready.bad 0x300000 4 && (readAt ready t 0x300000 0x300000 4).isSome) = true ∧
    laneDue (withLoad (loading 0 there .gated) (inGroup (fun g => { g with acks := [⟨1, 0, 0, 1, true, 0x300000 / 128, 50, none, [], false⟩] }) ready))
      (fun t g l p => g.lanePermitted l p.lane && !g.atomicWaits l p.lane && (readAt (inGroup (fun g => { g with acks := [⟨1, 0, 0, 1, true, 0x300000 / 128, 50, none, [], false⟩] }) ready) t 0x300000 0x300000 4).isNone) = true ∧
    laneDue (fed []) (fun t g l p => g.lanePermitted l p.lane && !g.atomicWaits l p.lane && ((fed []).member? t.bent 0).any fun u => !u.isFull 32 4) = true ∧
    laneDue (due 5 3 (inGroup (fun g => { g with sb := [{ unreleased with atomic := true, parts := [⟨3, there, [], false⟩] }], loads := [loading 0 there .gated], nextId := 9 }) ready))
      (fun _ g l p => g.lanePermitted l p.lane && g.atomicWaits l p.lane) = true ∧
    (([none, some 5] : List (Option Nat)).all fun first =>
      let s := due 5 3 (inGroup (fun g => { g with loads := [{ loading 2 (.scratch 0 32) .gated with id := 4, parts := [⟨4, .scratch 0 32, .gated, 0, 0, first⟩] }, loading 2 (.scratch 0 32) .gated], nextId := 9 })
        (inTeam (fun t => { t with full := [2] }) ready))
      laneDue s fun t g l p => g.lanePermitted l p.lane && !g.atomicWaits l p.lane && l.fe == 2 && s.fecBefore t 0 32 p.arrived == first.isSome && (s.member? t.bent 0).any fun u => u.isFull 32 4 && !u.badScratch 32 4) = true ∧
    laneDue (fed [2]) (fun t g l p => g.lanePermitted l p.lane && !g.atomicWaits l p.lane && !(fed [2]).fecBefore t 0 32 p.arrived && ((fed [2]).member? t.bent 0).any fun u => u.isFull 32 4 && !u.badScratch 32 4) = true := by
  decide +kernel

/-- An addition of lane 3 on a word of memory (R224). -/
theorem witness_atomic_performs :
    let l : Load := { loading 0 (.phys 0x300000 0x300000) .gated with dest := .atomic 2 4, op := some .add, parts := [⟨3, .phys 0x300000 0x300000, .gated, 7, 0, none⟩] }
    laneDue (withLoad l ready) (fun _ g l p => l.op == some .add && g.lanePermitted l p.lane && decide ((l.parts.filter fun q => q.st = .gated && (q.lane = 3 || q.target = p.target)) = [p])) = true ∧
      ready.bad 0x300000 4 = false ∧ ready.held 0x300000 = false := by
  decide +kernel

/-- A load that returns, one whose lane has not been performed, and one on whose granule its strand is parked. -/
theorem witness_data_returns :
    let s (st : PartState) : State := withLoad (loading 0 (.phys 0x300000 0x300000) st) ready
    let parked := (s (.done [1#8, 2#8, 3#8, 4#8] false)).modGroup placedRef.g fun g => g.modStrand 0 fun st => { st with state := .parked, park := some (.granule 5) }
    let due (s : State) (b : Bool) : Bool := match s.group? placedRef.g with
      | some g => match g.loads.find? (·.id = s.operand.n) with
        | some l => !g.ended && (l.parts.all fun p => (partData p).isSome) == b && l.parts.all (fun p => p.lane < 32) && [1, 2, 4, 8, 16].contains l.dest.bytes &&
            ((List.range 33).all fun k => decide ((broughtBy l k).1.length = l.dest.bytes ∨ (broughtBy l k).1 = [] ∨ b = false))
        | none => false
      | none => false
    due (s .gated) false = true ∧ due (s (.done [1#8, 2#8, 3#8, 4#8] false)) true = true ∧ due parked true = true := by
  decide +kernel

/-- A part that waits behind an earlier one, one of memory and one of scratch that may be released. -/
theorem witness_part_releases :
    let entry (t : Target) (n : Nat) : StoreEntry := ⟨n, 0, [], false, false, false, 0, [⟨0, t, [1#8, 2#8], false⟩]⟩
    let s (es : List StoreEntry) (n : Nat) : State := due n 0 (inGroup (fun g => { g with sb := es, nextId := 9 }) ready)
    let test (s : State) (p : Team → Group → StoreEntry → StorePart → Bool) : Bool := match s.team? 0 0, s.group? placedRef.g with
      | some t, some g => !s.restoring s.operand.g && match g.sb.find? (·.id = s.operand.n) with
        | some e => match e.parts.find? (fun q => q.lane = s.operand.k && !q.released) with
          | some q => p t g e q
          | none => false
        | none => false
      | _, _ => false
    test (s [{ entry (.phys 0x300000 0x300000) 1 with atomic := true }] 1) (fun _ _ e _ => e.atomic) = true ∧
    test (s [entry (.phys 0x300000 0x300000) 1, entry (.phys 0x300000 0x300000) 2] 2) (fun _ g e _ => !e.atomic && !g.partReady e 0) = true ∧
    test (s [entry (.phys 0x300000 0x300000) 1] 1) (fun _ g e _ => g.partReady e 0 && !e.scalar && !ready.badWrite 0x300000 2 && !ready.held 0x300000) = true ∧
    test (s [entry (.scratch 0 64) 1] 1) (fun t g e _ => g.partReady e 0 && (ready.member? t.bent 0).any fun u => !u.badScratch 64 2) = true := by
  decide +kernel

/-- An acknowledgement whose peer has not answered, one that goes into the range table, and a release that waits and one that is over. -/
theorem witness_acknowledges :
    let acked (tag : Option Nat) : State := due 1 0 (inGroup (fun g => { g with acks := [⟨1, 0, 0, 1, true, 0x6000, 50, tag, [], false⟩] }) ready)
    let test (s : State) (b : Bool) : Bool := match s.team? 0 0, s.group? placedRef.g with
      | some t, some g => !g.ended && (g.acks.find? (·.id = 1)).any fun a => a.tag.isSome == b && !a.held.any s.held && decide (s.leaseNow t < a.time)
      | _, _ => false
    let releasing (sb : List StoreEntry) : State := due 0 0 (inGroup (fun g => { g with sb := sb, nextId := 9 }) (inStrand (fun st => { st with rel := some ⟨.team, 1, 5, 5, none, false, none, false⟩, state := .waiting }) ready))
    let ends_ (s : State) (b : Bool) : Bool := match s.team? 0 0, s.group? placedRef.g with
      | some t, some g => (g.strand 0).rel.any fun w => !w.fence && (g.stepRelease 0 w t.fused (s.leaseNow t)).done == b
      | _, _ => false
    test (acked (some 3)) true = true ∧ test (acked none) false = true ∧ ends_ (releasing [unreleased]) false = true ∧ ends_ (releasing []) true = true := by
  decide +kernel

/-- FENCE of an acquire and of a release behind an unreleased store, FENCER of a range that holds it, TOUCH of a present page and of an absent one, and one for which the table has no room; PREF of any address. -/
theorem witness_fences :
    let storing := inGroup (fun g => { g with sb := [unreleased], nextId := 2, s := vmod g.s 5 fun _ => 0x400000 }) ready
    onIssue ready [0x040002A1, 0, 0x40000000] (fun _ _ i => i.x.sub == 1) = true ∧
    onIssue storing [0x000002A1, 0, 0x40000000] (fun _ _ i => i.x.sub != 1 && !(i.g.stepRelease i.r.num (i.g.newRelease i.scope i.active true none) i.t.fused i.time).done) = true ∧
    onIssue storing [0x001002A5, 0x00000005, 0x40000000] (fun _ _ i => !(i.g.stepRelease i.r.num (i.g.newRelease i.scope i.active true (some ((i.scalar i.x.a).toNat, (i.scalar i.x.b).toNat))) i.t.fused i.time).done) = true := by
  decide +kernel

/-- A page of 2 MiB at address 0 of the user context that moves to another frame. -/
def movingPage : State :=
  let tables := [(0x400000, 0x401001), (0x401000, 0x402001), (0x402000, 0x403001), (0x403000, 0x600005)]
  { tables.foldl (fun s e => withMem e.1 (leBytes e.2 8) s) (user []) with migrations := [⟨0, 1, 0, 0x403000, 0, 0⟩] }

theorem witness_touches :
    let touch := [0x00100AA9, 0x00000800, 0x00000000]
    let looks (s : State) (p : State → Iss → List (Nat × TouchPage) → Bool) : Bool := onIssue s touch fun _ s' i =>
      let x := touchLooks (residueChecked s' i) i
      decide (s'.residueMiss ≤ 2) && x.2.all (fun a => a.2 == .resident || a.2 == .pending || a.2 == .hold) && noEventWait x.1 && p x.1 i x.2
    let crowd : List Touch := List.replicate 4096 ⟨9, 0, 0, 0, 0, false, false, 0⟩
    looks (withS 4 0x300000 ready) (fun s _ rs => rs != [] && rs.all (·.2 == .resident) && s.touches.getD 0 [] == []) = true ∧
    looks (user []) (fun s _ rs => rs != [] && rs.all (·.2 == .pending) && decide ((s.touches.getD 0 []).length + rs.length ≤ 4096)) = true ∧
    looks { user [] with touches := vmod (user []).touches 0 fun _ => crowd } (fun s i rs => rs.any (·.2 == .pending) && decide (4096 ≤ (s.touches.getD 0 []).length) &&
      (s.touches.getD 0 []).all fun p => !decide (p.ctx = i.t.ctx)) = true ∧
    looks movingPage (fun _ _ rs => rs.any (·.2 == .hold)) = true ∧
    onIssue (user []) [0x001002AD, 0, 0] (fun _ s _ => decide (s.residueMiss ≤ 2)) = true := by
  decide +kernel

/-! ### Copies (R412 to R419) -/

/-- The scalars of a copy: destination, source, length and control value, and more scalars as they are. -/
def copying (dst src len ctl : DWord) (s : State) : State := withS 2 dst (withS 4 src (withS 10 len (withS 8 ctl s)))

/-- Barrier 3 of the team in slot 7 of the table of its core. -/
def withBar (expect arrive agents : Nat) (phase : Bool) (s : State) : State :=
  s.modCore 0 fun c => { c with bars := vmod c.bars 7 fun _ => some ⟨false, phase, 3, 0, 0, expect, arrive, agents, 0⟩ }

/-- Whether the entry of a barrier of the team itself is found in the table of its core. -/
def barFound (s : State) (t : Team) (num : Nat) (p : BarEntry → Bool) : Bool :=
  decide (num < 24 ∧ t.homeOf num = t.core) && ((s.core t.core).barSlot? t num).any fun k => ((s.core t.core).bars.getD k none).any p

/-- What barFound finds of a team of the machine is what the statements say of it. -/
theorem barFound_at {s : State} {c : BitVec 8} {v : BitVec 16} {t : Team} (ht : s.team? c v = some t) {num : Nat} {p : BarEntry → Bool}
    (h : barFound s t num p = true) : ∃ o k e, barHere s t num o k e ∧ p e = true := by
  have hid := List.find?_some ht
  simp only [Team.is, Bool.and_eq_true, decide_eq_true_eq] at hid
  have ha : s.anyTeam? t.ctx t.vteam = some t := by
    rw [hid.1, hid.2]; unfold State.anyTeam?; rw [ht]
  have ⟨here, found⟩ := Bool.and_eq_true_iff.mp h
  have ⟨hn, hh⟩ := of_decide_eq_true here
  have ⟨k, hk, held⟩ := (Option.any_eq_true ..).mp found
  have ⟨e, he, hp⟩ := (Option.any_eq_true ..).mp held
  exact ⟨t, k, e, ⟨by simp [State.barOwner, hn], ha, hh, hk, he⟩, hp⟩

/-- The same as an instruction issues. -/
theorem barFound_here {more : State → Iss → Uses} {s s' : State} {x : Enc} {i : Iss} (hi : IssuesWith more s x s' i) {num : Nat} {p : BarEntry → Bool}
    (h : barFound s' i.t num p = true) : ∃ o k e, barHere s' i.t num o k e ∧ p e = true :=
  barFound_at (issues_facts hi).2.2.1 h

def copyOf (src dst : DWord) (moved : Bool) : Copy := ⟨1, 0, 0, 0, src, dst, 64, none, .team, true, none, none, some (5, 2), false, moved, [], 0, 0, none, []⟩

/-- CPY, CPYRED and CPYX by a team without a streamer, with a reserved control bit, with a length beyond 2^31, with a full queue, with a free place, and with a barrier, with AGENTS 254 and 255. -/
theorem witness_copies :
    let far : DWord := 0x7F#64 <<< 57
    let form (op : Nat) : List Nat := [0x00100800 + op * 4 + 1, 0x0000080A, 0]
    let fmt (op : Nat) : DWord := if op = 0xAD then 9#64 <<< 24 else 0
    let dst (op : Nat) : DWord := if op = 0xAE then far else 0x310000
    let go (op : Nat) (len ctl : DWord) (s : State) : State := copying (dst op) 0x300000 len (ctl ||| fmt op) (inTeam (fun t => { t with scratch := [] }) s)
    let ends (op : Nat) (s : State) (i : Iss) : Bool := decide (s.copyEndCause i.t (i.scalar i.x.a) (if op = 0xAD then 4 else 1) 128 false = 0) && decide (s.copyEndCause i.t (i.scalar i.x.d) (if op = 0xAD then 4 else 1) 128 (op = 0xAE) = 0)
    (([0xAC, 0xAD, 0xAE] : List Nat).all fun op =>
      onIssue (inTeam (fun t => { t with streamer := false }) (go op 128 0 ready)) (form op) (fun c _ i => (copyForm c).isSome && !i.t.streamer) &&
      onIssue (go op 128 0x8000 ready) (form op) (fun _ _ i => i.g.gidx == 0 && i.t.streamer && (i.scalar i.x.c).toNat.testBit 15) &&
      onIssue (go op (0x80000001) 0 ready) (form op) (fun _ _ i => decide (2 ^ 31 < (i.scalar i.x.b).toNat)) &&
      onIssue ((go op 128 0 ready).modCore 0 fun c => { c with copies := List.replicate 16 (copyOf 0 0 false) }) (form op) (fun _ s i => ends op s i && decide (16 ≤ (s.core 0).copies.length)) &&
      onIssue (go op 128 0 ready) (form op) (fun _ s i => ends op s i && !(i.scalar i.x.c).toNat.testBit 21 && decide ((s.core 0).copies.length < 16)) &&
      (([254, 255] : List Nat).all fun a => onIssue (withBar 4 0 a false (go op 128 0x230000 ready)) (form op) fun _ s i => ends op s i && (i.scalar i.x.c).toNat.testBit 21 &&
        barFound s i.t ((i.scalar i.x.c).toNat / 2 ^ 16 % 32) fun e => e.agents == a)) = true := by
  decide +kernel

/-- A copy that moves between scratch and scratch, one that waits for its acquire, one that waits for a peer and one that is over. -/
theorem witness_copies_complete :
    let far : DWord := 0x7F#64 <<< 57
    let s (c : Copy) : State := { (inTeam (fun t => { t with scratch := [] }) ready).modCore 0 (fun k => { k with copies := [c] }) with operand := { n := 0, k := 1 } }
    let waiting := inGroup (fun g => { g with sb := [unreleased], nextId := 2 }) (s { copyOf far (far + 0x400) false with acqw := some ⟨placedRef.g, 0, ⟨.team, 1, 9, 9, none, false, none, false⟩⟩ })
    let due (s : State) (p : Copy → Bool) : Bool := ((s.core 0).copies.find? (·.id = s.operand.k)).any p
    due waiting (fun c => !c.moved && waiting.acquireWaits c.acqw) = true ∧
    due (s (copyOf far (far + 0x400) false)) (fun c => !c.moved && !(s c).acquireWaits c.acqw && c.pieces == [(0, 64)] && c.op.isNone && ((s c).copyMember c 0).any fun u => !u.badScratch 0 64) = true ∧
    due (s { copyOf far far true with out := 1 }) (fun c => c.moved && c.rest == [] && c.out != 0) = true ∧
    due (s (copyOf far far true)) (fun c => c.moved && c.rest == [] && c.out == 0 && (s c).copyReleased 0 c && c.bar.isNone && noEventWait (s c) && !c.orphan && ((s c).anyTeam? c.ctx c.dteam).isSome) = true := by
  decide +kernel

/-! ### Barriers, events and mailboxes (R154 to R168, R421 to R428) -/

/-- Another strand of the group, which may still arrive. -/
def withOther (s : State) : State := inGroup (fun g => { g with strands := vmod g.strands 1 fun _ => { g.strand 0 with order := [1#2] } }) (inStrand (fun st => { st with order := [0#2] }) s)

/-- BARINIT by another team than the anchor, with counts at both ends of the range and outside it, and of an entry in use; BARARV behind a store, before the last arrival, and as the last one. -/
theorem witness_barriers :
    let init (n count : Nat) : List Nat := [0x301 + n * 1024, 0, count]
    let arv := [0x304 + 3 * 1024]
    onIssue (inTeam (fun t => { t with bpos := 1 }) ready) (init 24 1) (fun _ _ i => decide (24 ≤ i.x.d.toNat) && i.t.bpos != 0) = true ∧
    (([0, 1, 4095, 4096] : List Nat).all fun n => onIssue (withBar 4 0 0 false ready) (init 3 n) fun _ s i => barFound s i.t 3 (fun e => e.agents == 0 && e.arrive == 0 && !e.phase) && !s.barParked i.t 3) = true ∧
    onIssue (withBar 4 1 0 false ready) (init 3 4) (fun _ s i => barFound s i.t 3 fun e => e.arrive == 1) = true ∧
    onIssue (withBar 4 0 0 false (inGroup (fun g => { g with sb := [unreleased], nextId := 2 }) ready)) arv (fun _ s i => barFound s i.t 3 (fun _ => true) && !releaseOver i .team) = true ∧
    onIssue (withBar 4 2 0 false ready) arv (fun _ s i => releaseOver i .team && barFound s i.t 3 fun e => decide (e.arrive + 1 < e.expect)) = true ∧
    onIssue (withBar 4 3 0 false ready) arv (fun _ s i => releaseOver i .team && noEventWait s && noBarrierWait s && barFound s i.t 3 fun e => decide (e.expect ≤ e.arrive + 1)) = true := by
  decide +kernel

/-- BARWAIT and BARARW of a phase that has come, of one that can never come, and of one that another strand may bring; BARARW as the last arrival, and behind a store; BARSTAT. -/
theorem witness_barrier_waits :
    let wait (ph : Nat) : List Nat := [0x308 + 3 * 1024 + ph * 67108864]
    let arw (ph : Nat) : List Nat := [0x30C + 3 * 1024 + ph * 67108864]
    onIssue (withBar 4 0 0 true ready) (wait 1) (fun _ s i => barFound s i.t 3 fun e => e.phase && !s.deadBar i i.t e true 0) = true ∧
    onIssue (withBar 4 0 0 false ready) (wait 1) (fun _ s i => barFound s i.t 3 fun e => !e.phase && s.deadBar i i.t e true 0) = true ∧
    onIssue (withBar 4 0 0 false (withOther ready)) (wait 1) (fun _ s i => noBarrierWait s && barFound s i.t 3 fun e => !e.phase && !s.deadBar i i.t e true 0) = true ∧
    onIssue (withBar 4 0 0 false (inGroup (fun g => { g with sb := [unreleased], nextId := 2 }) ready)) (arw 1) (fun _ s i => barFound s i.t 3 (fun _ => true) && !releaseOver i .team) = true ∧
    onIssue (withBar 4 0 0 false (withOther ready)) (arw 1) (fun _ s i => releaseOver i .team && noBarrierWait s && barFound s i.t 3 fun e => !e.phase && decide (e.arrive + 1 < e.expect) && !s.deadBar i i.t e true 1) = true ∧
    onIssue (withBar 1 0 0 false ready) (arw 1) (fun _ s i => releaseOver i .team && noBarrierWait s && noEventWait s && barFound s i.t 3 fun e => !e.phase && decide (e.expect ≤ e.arrive + 1) && !s.deadBar i i.t e true 1) = true ∧
    onIssue (withBar 4 0 0 false ready) [0x000C0B10] (fun _ s i => i.x.a == 3#8 && barFound s i.t 3 fun _ => true) = true := by
  decide +kernel

/-- EVBIND of nothing, of a barrier, of a token and of a mailbox, in slots 0 and 15; EVMASK and EVCLR. -/
theorem witness_event_slots :
    (([0, 15] : List Nat).all fun n => ([1, 2, 3] : List Nat).all fun k => onIssue (withBar 4 0 0 false ready) [0x000C0315 + n * 1024 + k * 67108864, 0, 0] fun _ s i =>
      noEventWait s && i.x.d.toNat == n && i.x.sub == k && (k != 1 || barFound s i.t i.x.a.toNat fun _ => true)) = true ∧
    (([[0x00100318], [0x00100319, 0, 0], [0x0010031C], [0x0010031D, 0, 0]] : List (List Nat)).all fun ws => onIssue ready ws fun _ _ _ => true) = true := by
  decide +kernel

/-- WAITANY with the greatest slot pending, with none that can come, and with a token to wait for. -/
theorem witness_waits_for_events :
    let wait := [0x00000321, 0x0000FFFF, 0x40000000]
    let bound (pe : BitVec 16) (s : State) : State := inGroup (fun g => { g with pe := pe, events := vmod g.events 15 fun _ => ⟨2#2, false, 5#6, 1#32⟩ }) s
    let pending (i : Iss) (k : Nat) : Bool := (i.x.c ++ i.x.b : BitVec 16).getLsbD k && !i.g.em.getLsbD k && i.g.pe.getLsbD k
    onIssue (bound 0x8000#16 ready) wait (fun _ s' i => (List.range 16).find? (pending i) == some 15 && okAnd (s'.dispatch i.t i.g 0xFFFF#16 i.x.win i.x.ofs 15) fun _ _ => true) = true ∧
    onIssue ready wait (fun _ _ i => ((List.range 16).find? (pending i)).isNone && (List.range 16).all fun k => (i.g.events.getD k Binding.unbound).kind == 0) = true ∧
    onIssue (bound 0 ready) wait (fun _ _ i => ((List.range 16).find? (pending i)).isNone && (i.g.events.getD 15 Binding.unbound).kind == 2#2 && !(i.g.events.getD 15 Binding.unbound).spent) = true := by
  decide +kernel

/-- POST behind a store, to no team, to a full mailbox and to one with a place left; RECV of a value and of an empty mailbox. -/
theorem witness_mailboxes :
    let post := [0x00101F25, 0x0000000A, 0]
    let mail (n : Nat) (s : State) : State := inTeam (fun t => { t with mbs := vmod t.mbs 7 fun _ => List.replicate n 1 }) s
    onIssue (inGroup (fun g => { g with sb := [unreleased], nextId := 2 }) ready) post (fun _ _ i => !releaseOver i .team) = true ∧
    onIssue (withS 4 9 ready) post (fun _ s i => i.x.d == 7#8 && releaseOver i .device && (s.anyTeam? i.t.ctx 9#16).isNone) = true ∧
    (([8, 7] : List Nat).all fun n => onIssue (mail n ready) post fun _ s i => releaseOver i .team && noEventWait s && (s.anyTeam? i.t.ctx 0#16).any fun u =>
      (u.mbs.getD 7 []).length == n && u.waiters.all (·.mb ≠ 7)) = true ∧
    onIssue (mail 1 ready) [0x001C0B29, 0, 0] (fun _ _ i => i.x.a == 7#8 && i.t.mbs.getD 7 [] == [1]) = true ∧
    onIssue ready [0x001C0B29, 0, 0] (fun _ _ i => i.t.mbs.getD 7 [] == []) = true := by
  decide +kernel

/-! ### Matrix passes as they are asked for (R170, R171, R257 to R263, R429 to R431) -/

/-- A pass of i8 elements with M = 32, N = 32, K = 64, LOADW and barrier 3. -/
def passDesc : DWord := 0x03046600#64

/-- Convergence register 2 of the core that collects signatures under name 2. -/
def converging (size : Nat) (sigs : List Signature) (s : State) : State :=
  s.modCore 0 fun c => { c with convs := vmod c.convs 2 fun _ => some ⟨0, 0, 2, size, passDesc, sigs⟩ }

/-- A signature of a group. -/
def signed (gidx g : Nat) : Signature := ⟨gidx, g, some 0, some 64, some 128⟩

/-- An engine with a number of passes in its table. -/
def withPasses (n : Nat) (s : State) : State :=
  { s with engines := vmod s.engines 0 fun e => { e with table := List.replicate n ⟨7, 0, 0, 0, 0, passDesc, [], 0, none, false, none⟩ } }

/-- CVINIT with sizes 0 and 9 and an illegal descriptor, with sizes 1 and 8 and a free register, under a name in use, and with no free register; MSIGN of a name that collects nothing, of a second signature, of one more, and of the last one with a full table, with AGENTS 255, and with room for both. -/
theorem witness_matrix_requests :
    let init := [0x00100B2D, 0x0000000A, 0]
    let sign := [0x00000B31, 0, 0x38804000]
    let sized (n : Nat) (d : DWord) (s : State) : State := withS 4 d (withS 10 (BitVec.ofNat 64 n) s)
    let legal (i : Iss) : Bool := decide (1 ≤ (i.scalar i.x.b).toNat ∧ (i.scalar i.x.b).toNat ≤ 8) && Desc.ok ⟨i.scalar i.x.a⟩
    let fits (i : Iss) (v : ConvReg) : Bool := let x := msignOf i.g.gidx i.x.w2
      (x.reads ⟨v.desc⟩ ++ x.writes ⟨v.desc⟩).all (fun r => decide (r < i.g.vregs)) && !i.hasSet && !x.clashes ⟨v.desc⟩ v.sigs && !v.sigs.any (·.gidx = i.g.gidx)
    let conv (s : State) (i : Iss) (p : ConvReg → Bool) : Bool := ((s.core 0).conv? i.t i.x.d.toNat).any fun (_, v) => p v
    let last (i : Iss) (v : ConvReg) : Bool := fits i v && decide (v.size ≤ v.sigs.length + 1) && allParts ⟨v.desc⟩ (v.sigs ++ [msignOf i.g.gidx i.x.w2])
    (([(0, passDesc), (9, passDesc), (1, 0), (1, passDesc ||| 0x20000000)] : List (Nat × DWord)).all fun p => onIssue (sized p.1 p.2 ready) init fun _ _ i => !legal i) = true ∧
    (([1, 8] : List Nat).all fun n => onIssue (sized n passDesc ready) init fun _ s i => legal i && ((s.core 0).conv? i.t 2).isNone && s.freeConv? 0 == some 0) = true ∧
    onIssue (sized 1 passDesc (converging 1 [] ready)) init (fun _ s i => legal i && ((s.core 0).conv? i.t 2).isSome) = true ∧
    onIssue (sized 1 passDesc (ready.modCore 0 fun c => { c with convs := Vector.replicate 16 (some ⟨0, 0, 3, 1, passDesc, []⟩) })) init (fun _ s i => legal i && s.freeConv? 0 == none) = true ∧
    onIssue ready sign (fun _ s i => ((s.core 0).conv? i.t i.x.d.toNat).isNone) = true ∧
    onIssue (converging 2 [signed 0 0] ready) sign (fun _ s i => conv s i fun v => v.sigs.any (·.gidx = i.g.gidx)) = true ∧
    onIssue (converging 2 [] ready) sign (fun _ s i => conv s i fun v => fits i v && decide (v.sigs.length + 1 < v.size)) = true ∧
    onIssue (withPasses 32 (withBar 4 0 254 false (converging 1 [] ready))) sign (fun _ s i => conv s i (last i) && barFound s i.t 3 (fun _ => true) && decide (32 ≤ (s.engines.getD 0 Engine.reset).table.length)) = true ∧
    onIssue (withPasses 31 (withBar 4 0 255 false (converging 1 [] ready))) sign (fun _ s i => conv s i (last i) && barFound s i.t 3 fun e => decide (255 ≤ e.agents)) = true ∧
    onIssue (withPasses 31 (withBar 4 0 254 false (converging 2 [⟨1, 1, none, none, none⟩] ready))) sign (fun _ s i => conv s i (last i) && barFound s i.t 3 (fun e => decide (e.agents < 255)) &&
      decide ((s.engines.getD 0 Engine.reset).table.length < 32) && conv s i fun v => (v.sigs ++ [msignOf i.g.gidx i.x.w2]).all fun z => ((i.t.group? z.gidx).bind fun g => g.signHold z ⟨v.desc⟩).isNone) = true := by
  decide +kernel

/-! ### Device-side launch and near-memory runs (R68 to R70, R432 to R434) -/

/-- A device queue 5 of the team's context with a number of packets in a ring of 16, mapped to slot 1. -/
def withQueue (q : Queue) (s : State) : State := { s with ctxs := s.ctxs.map fun c => { c with queues := vmod c.queues 5 fun _ => q } }
def devQueue (kind n : Nat) : Queue := ⟨0x800000, 4, kind, true, some 1, BitVec.ofNat 32 n, 0, false, false, 0, 0, none, []⟩

/-- LAUNCH behind a store, to an absent queue and to a host queue, of a packet on an absent page, to a full ring of 16 and to one with 15 packets. -/
theorem witness_device_launch :
    let launch := [0x00100B35, 0x0000000A, 0]
    let go (q : Queue) (s : State) : State := withQueue q (withS 4 0x300000 (withS 10 5 s))
    let at_ (s : State) (p : State → State → Iss → Target → Bool) : Bool := onIssue s launch fun _ s' i => apertureOf (i.scalar i.x.a) == .global &&
      okAnd (s'.targetOnce i (i.scalar i.x.a) 128 .read false) fun s2 tg => p s2 (afterRel s2 i .device) i tg
    let queue (u : State) (i : Iss) (p : Queue → Bool) : Bool := (u.ctx? i.t.ctx).any fun c => p (u.queueNow c 5)
    at_ (inGroup (fun g => { g with sb := [unreleased], nextId := 2 }) (go (devQueue 1 0) ready)) (fun _ _ i _ => !releaseOver i .device) = true ∧
    at_ (go (devQueue 0 0) ready) (fun _ u i _ => queue u i (·.kind != 1)) = true ∧
    at_ (go { devQueue 1 0 with ring := 0 } ready) (fun _ u i _ => queue u i (·.ring == 0)) = true ∧
    onIssue (withQueue (devQueue 1 0) (inUser (fun g => { g with s := vmod (vmod g.s 4 fun _ => 0x300000) 10 fun _ => 5 }) (user []))) launch (fun _ s' i => okAnd (s'.targetOnce i (i.scalar i.x.a) 128 .read false) fun s2 tg =>
      tg == .nonres && ((afterRel s2 i .device).core 0).kcache.all (·.line ≠ launchKey i.r) && queue (afterRel s2 i .device) i fun w => w.ring != 0 && w.kind == 1) = true ∧
    at_ (go (devQueue 1 16) ready) (fun _ u i tg => tg != .nonres && (u.core 0).kcache.all (·.line ≠ launchKey i.r) && !u.launching 0 5 && queue u i fun w => w.fill == 2 ^ w.logsize && let r := u.writeSlot (u.whoTeam i.t) (w.slotAddr w.tail) .write
      r.2 == .here 0x800000 0x800000 && okAnd (r.1.readPieces i [tg]) fun _ b => b.isSome) = true ∧
    at_ (go (devQueue 1 15) ready) (fun _ u i tg => tg != .nonres && (u.core 0).kcache.all (·.line ≠ launchKey i.r) && !u.launching 0 5 && queue u i fun w => w.fill != 2 ^ w.logsize && w.slot.isSome && let r := u.writeSlot (u.whoTeam i.t) (w.slotAddr w.tail) .write
      r.2 == .here (0x800000 + 15 * 128) (0x800000 + 15 * 128) && okAnd (r.1.readPieces i [tg]) fun s4 b => b.isSome && !s4.held (0x800000 + 15 * 128)) = true := by
  decide +kernel

/-- A descriptor of a near-memory run: header, PLEN and RLEN given, its program at 0x500000 and its range from 0x600000 on (R433). -/
def runDesc (header plen rlen : Nat) : List Byte := leBytes header 8 ++ leBytes 0 16 ++ leBytes 0x500000 8 ++ leBytes plen 8 ++ leBytes 0x600000 8 ++ leBytes rlen 8

/-- Stack 0 with runs in its queue. -/
def withRuns (n : Nat) (s : State) : State := s.modStack 0 fun c => { c with queue := List.replicate n 9 }

/-- NMRUN with each reserved control value, behind a store, of a header that is none, of a descriptor that fails its checks, with a full queue and with 31 runs in it. -/
theorem witness_near_memory_runs :
    let run := [0x00100B39, 0x0000000A, 0]
    let go (ctl : DWord) (d : List Byte) (s : State) : State := withMem 0x300000 d (withS 4 0x300000 (withS 10 ctl s))
    let bad (i : Iss) : Bool := let ctl := (i.scalar i.x.b).toNat
      decide (2 ^ 20 ≤ ctl ∨ ctl.testBit 15 = true ∨ ctl / 2 ^ 18 % 4 = 3 ∨ ctl / 2 ^ 16 % 4 = 3)
    let at_ (s : State) (p : Iss → State → RunDesc → Bool) : Bool := onIssue s run fun _ s' i => !bad i && apertureOf (i.scalar i.x.a) == .global &&
      okAnd (s'.targetOnce i (i.scalar i.x.a) 128 .read false) fun s2 tg => !i.storesWait && okAnd (s2.readPieces i [tg]) fun s3 r => r.any fun raw => p i s3 ⟨raw⟩
    let free (s : State) (k : Nat) : Bool := decide ((s.stack k).queue.length < 32)
    (([2 ^ 20, 2 ^ 15, 3 * 2 ^ 18, 3 * 2 ^ 16] : List DWord).all fun ctl => onIssue (go ctl [] ready) run fun _ _ i => bad i) = true ∧
    onIssue (inGroup (fun g => { g with sb := [unreleased] }) (go 0xA7FFF (runDesc 3 1 32) ready)) run (fun _ s' i => !bad i && i.storesWait && okAnd (s'.targetOnce i (i.scalar i.x.a) 128 .read false) fun _ _ => true) = true ∧
    at_ (go 0 (runDesc 2 1 32) ready) (fun _ _ d => d.header != 3) = true ∧
    (([(0, 32), (65, 32), (64, 16), (1, 0)] : List (Nat × Nat)).all fun p => at_ (go 0 (runDesc 3 p.1 p.2) ready) fun i s3 d => d.header == 3 && okAnd (s3.checkRun (s3.whoTeam i.t) d) fun _ r => r == .fail 3) = true ∧
    at_ (withRuns 32 (go 0 (runDesc 3 64 65536) ready)) (fun i s3 d => d.header == 3 && okAnd (s3.checkRun (s3.whoTeam i.t) d) fun s4 r => match r with
      | .ok ws ps => ws.length == 64 && ps == [(0x600000, 0x600000)] && s4.runFull (mkRun 0 0 (.team 0 0 none) d ws ps 0 0 none)
      | _ => false) = true ∧
    at_ (withRuns 31 (go 0x67FFF (runDesc 3 1 65568) ready)) (fun i s3 d => d.header == 3 && okAnd (s3.checkRun (s3.whoTeam i.t) d) fun s4 r => match r with
      | .ok _ ps => ps.length == 2 && ps.all (fun p => free s4 (stackOfPa p.2))
      | _ => false) = true := by
  decide +kernel

/-! ### System instructions (R274, R275, R435 to R441) -/

/-- The group of a user context with its handler strand issuing, and scalars as they are given. -/
def handlingUser (pages : List (Nat × Leaf)) (regs : List (Nat × DWord)) : State :=
  { (user pages).modGroup ⟨1, 0, 0⟩ (fun g => { g with trap := .handling, handler := some (g.strand 0), s := regs.foldl (fun v (k, x) => vmod v k fun _ => x) g.s }) with cur := some ⟨⟨1, 0, 0⟩, 0, true⟩ }

/-- A group's handler issuing, in a group that is changed, with an address in s4. -/
def handled (f : Group → Group) : State := withS 4 0x300000 (inGroup f handling)

def part (op n : Nat) : List Nat := [0x00100000 + op * 4 + 1, n * 16777216, 0]

/-- STRSAVE of each part, and CTXSAVE, with a full buffer, of an absent page, and of pages of memory; CTXSAVE behind a load of a lane that the handler strand lacks, and of a group of 64 registers. -/
theorem witness_saves :
    (([0, 1, 2] : List Nat).all fun n =>
      onIssue (buffered (handled id)) (part 0xE1 n) (fun _ _ i => (i.x.mod.extractLsb' 0 2).toNat == n && i.g.bufferFull i.st 0) &&
      onIssue (handlingUser [] []) (part 0xE1 n) (fun _ s' i => !i.g.bufferFull i.st 0 && okAnd (s'.imageTargets i i.addrOnce (if n = 0 then 16 else if n = 1 then 8 else 10) .write) fun _ r => r.isNone) &&
      onIssue (handled id) (part 0xE1 n) (fun _ s' i => !i.g.bufferFull i.st 0 && okAnd (s'.imageTargets i i.addrOnce (if n = 0 then 16 else if n = 1 then 8 else 10) .write) fun _ r => r.isSome)) = true ∧
    onIssue (buffered (handled id)) (part 0xE3 0) (fun _ _ i => i.g.vregs == 256 && i.g.bufferFull i.st 0) = true ∧
    onIssue (handlingUser [] []) (part 0xE3 0) (fun _ s' i => !writesInFlight i.g && !i.g.bufferFull i.st 0 &&
      okAnd (State.imageTargets { s' with free := s'.free + 32768 } i i.addrOnce (154 + i.g.vregs) .write) fun _ r => r.isNone) = true ∧
    onIssue (handled fun g => { g with loads := [loading 0 (.phys 0 0x300000) .gated], handler := g.handler.map fun h => { h with mask := 0xFFFFFFF7#32 } }) (part 0xE3 0) (fun _ _ i => writesInFlight i.g) = true ∧
    onIssue (handled fun g => { g with vregs := 64 }) (part 0xE3 0) (fun _ s' i => decide (i.g.vregs = 64) && !writesInFlight i.g && !i.g.bufferFull i.st 0 &&
      okAnd (State.imageTargets { s' with free := s'.free + 32768 } i i.addrOnce (154 + i.g.vregs) .write) fun _ r => r.isSome) = true := by
  decide +kernel

/-- What EntryImage says, as a test. -/
def entryImage (st : Strand) (b : List Byte) : Bool :=
  decide (b.length = 128 ∧ fld b 57 7 = 0 ∧ fld b 96 32 = 0) && if st.valid = true then
    decide (fld b 0 8 = st.pc.toNat ∧ fld b 8 4 = st.mask.toNat ∧ fld b 12 4 = st.taken.toNat ∧ fld b 20 1 % 16 = st.order.length ∧ fld b 20 1 / 16 = st.state.code + (if st.arm then 4 else 0) + 8 ∧
      fld b 21 1 = st.parent.toNat ∧ fld b 22 1 = st.evn.toNat ∧ fld b 23 1 = st.folds % 16) &&
    ((List.range 15).all fun n => decide (fld b 16 4 / 2 ^ (28 - 2 * n) % 4 = (st.order.getD n 0).toNat)) && ((List.range 256).all fun k => decide ((fld b 24 32).testBit k = (st.vset.getLsbD k && !st.vseal.getLsbD k))) &&
    ((List.range 8).all fun k => decide ((fld b 56 1).testBit k = (decide (k ≠ 0) && st.pset.getLsbD k && !st.pseal.getLsbD k))) && ((List.range 4).all fun j => decide (fld b (64 + 8 * j) 8 = (st.priv.getD j 0).toNat))
  else decide (b = List.replicate 128 0)

theorem entryImage_is {st : Strand} {b : List Byte} (h : entryImage st b = true) : EntryImage st b := by
  unfold entryImage at h
  simp only [Bool.and_eq_true, decide_eq_true_eq] at h
  obtain ⟨⟨h1, h2, h3⟩, h⟩ := h
  split at h
  · rename_i v
    simp only [Bool.and_eq_true, List.all_eq_true, List.mem_range, decide_eq_true_eq] at h
    obtain ⟨⟨⟨⟨⟨a1, a2, a3, a4, a5, a6⟩, a7⟩, a8⟩, a9⟩, a10⟩ := h
    exact ⟨h1, fun h0 => absurd v (by simp [h0]), fun _ => ⟨a1, a2, a3⟩, fun _ _ => ⟨a4, a7⟩, fun _ => a5, fun _ => a6, fun _ => ⟨a8, a9⟩, fun _ => a10, h2, h3⟩
  · rename_i v
    exact ⟨h1, fun _ => of_decide_eq_true h, fun h0 => absurd h0 v, fun h0 => absurd h0 v, fun h0 => absurd h0 v, fun h0 => absurd h0 v, fun h0 => absurd h0 v, fun h0 => absurd h0 v, h2, h3⟩

/-- A table image that is the group's own but for PC, as a test. -/
def takenTable (g : Group) (b : List Byte) : Bool :=
  (List.range 16).all fun k => let e := (b.drop (128 * k)).take 128
    let own := leBytes (g.strand k).pc.toNat 8 ++ e.drop 8
    if (g.strand k).valid then
      decide (fld e 0 8 % 4 = 0) && (!g.record.fset.getLsbD k || decide (fld e 0 8 = (g.strand k).pc.toNat)) && entryImage (g.strand k) own && decide ((own.drop 8).take 12 = (e.drop 8).take 12) &&
        decide ((own.drop 21).take 43 = (e.drop 21).take 43 ∧ own.drop 96 = e.drop 96 ∧ fld e 20 1 % 16 = fld own 20 1 % 16 ∧ fld e 20 1 / 64 = fld own 20 1 / 64 ∧ fld e 20 1 / 16 % 4 = (g.strand k).state.code)
    else entryImage (g.strand k) e

theorem takenTable_is {g : Group} {b : List Byte} (h : takenTable g b = true) : TakenTable g b := by
  intro k hk
  have := List.all_eq_true.mp h k (List.mem_range.mpr hk)
  by_cases v : (g.strand k).valid = true
  · simp only [v, if_true, Bool.and_eq_true, Bool.or_eq_true, Bool.not_eq_true', decide_eq_true_eq] at this
    obtain ⟨⟨⟨⟨h1, h2⟩, h3⟩, h4⟩, h5, h6, h7, h8, h9⟩ := this
    refine ⟨fun h0 => absurd v (by simp [h0]), fun _ => ⟨h1, fun hf => ?_, ⟨_, entryImage_is h3, h4, h5, h6, h7, h8⟩, Or.inr (Or.inl h9)⟩⟩
    rcases h2 with h2 | h2
    · rw [hf] at h2; cases h2
    · exact h2
  · simp only [v] at this
    exact ⟨fun _ => entryImage_is this, fun h0 => absurd h0 v⟩

/-- An image whose first entry is valid and has a PC that is no multiple of 4 is not taken. -/
theorem not_takenTable {g : Group} {b : List Byte} (h : ((g.strand 0).valid && decide (fld ((b.drop (128 * 0)).take 128) 0 8 % 4 ≠ 0)) = true) : ¬ TakenTable g b := by
  simp only [Bool.and_eq_true, decide_eq_true_eq] at h
  exact fun ht => h.2 ((ht 0 (by decide)).2 h.1).1

/-- A fault record with an entry of strand 0. -/
def faulting (g : Group) : Group := { g with record := { FaultRecord.zero with fset := 1 } }

/-- STRLOAD behind a store of the handler, of an absent page, of a record with a PC that is no multiple of 4 and with one that is, of a table image that it refuses, and of the group's own table with another PC. -/
theorem witness_loads_of_strands :
    let own (g : Group) : List Byte := leBytes 0x100200 8 ++ (g.tableBytes.drop 8).take 120
    let reads (s : State) (n : Nat) (p : State → Iss → List Byte → Bool) : Bool := onIssue s (part 0xE2 n) fun _ s' i => !i.storesWait &&
      okAnd (s'.imageTargets i i.addrOnce (if n = 0 then 16 else 10) .read) fun s2 r => r.any fun ts => okAnd (s2.readPieces i ts) fun s3 b => b.any fun b => p (s3.dropImageLines i.t.core) i b
    onIssue (handled fun g => { g with sb := [{ unreleased with sid := handlerSid }] }) (part 0xE2 0) (fun _ _ i => i.storesWait) = true ∧
    (([0, 2] : List Nat).all fun n => onIssue (handlingUser [] []) (part 0xE2 n) fun _ s' i => !i.storesWait && okAnd (s'.imageTargets i i.addrOnce (if n = 0 then 16 else 10) .read) fun _ r => r.isNone) = true ∧
    reads (withMem 0x300040 [2#8] (handled faulting)) 2 (fun _ i b => i.g.record.fset.getLsbD 0 && decide (fld b 64 8 % 4 ≠ 0)) = true ∧
    reads (withMem 0x300040 [4#8] (handled faulting)) 2 (fun u i b => noBarrierWait u && (List.range 16).all fun k => !i.g.record.fset.getLsbD k || decide (fld b (64 + 48 * k) 8 % 4 = 0)) = true ∧
    reads (withMem 0x300000 [2#8] (handled id)) 0 (fun _ i b => (i.g.strand 0).valid && decide (fld ((b.drop (128 * 0)).take 128) 0 8 % 4 ≠ 0)) = true ∧
    reads (withMem 0x300000 (((handled id).group? placedRef.g).elim [] own) (handled id)) 0 (fun u i b => noBarrierWait u && takenTable i.g b && decide (fld b 0 8 = 0x100200)) = true := by
  decide +kernel

/-- CTXLOAD behind a store of the handler, of an absent page, of an image with a binding that no one may have, with a slide that none can be, and of one of zeros with a binding in slot 15; the group has 16 registers and the images lie in scratch. -/
theorem witness_context_loads :
    let reads (a : Nat) (bs : List Byte) (p : State → Iss → List Byte → Bool) : Bool :=
      let s := inTeam (fun t => { t with scratch := memWrite [] a bs }) (inGroup (fun g => { g with vregs := 16, s := vmod g.s 4 fun _ => 0x7F#64 <<< 57 }) handling)
      onIssue s (part 0xE4 0) fun _ s' i => !i.storesWait && decide (i.g.vregs = 16) &&
        okAnd (s'.imageTargets i i.addrOnce 170 .read) fun s2 r => r.any fun ts => okAnd (s2.readPieces i ts) fun s3 b => b.any fun b => p (s3.dropImageLines i.t.core) i (b.drop 6784)
    onIssue (handled fun g => { g with sb := [{ unreleased with sid := handlerSid }] }) (part 0xE4 0) (fun _ _ i => i.storesWait && decide (i.g.vregs ≤ 256)) = true ∧
    onIssue (handlingUser [] []) (part 0xE4 0) (fun _ s' i => !i.storesWait && decide (i.g.vregs ≤ 256) && okAnd (s'.imageTargets i i.addrOnce (154 + i.g.vregs) .read) fun _ r => r.isNone) = true ∧
    reads (6784 + 128 + 8 * 15) (leBytes (2 ^ 60) 8) (fun _ _ b => !legalBinding (fld b (128 + 8 * 15) 8)) = true ∧
    reads (6784 + 16 * 7) (leBytes (2 ^ 63) 16) (fun _ i b => (Slide.ofBytes i.g.vregs ((b.drop (16 * 7)).take 16)).isNone) = true ∧
    reads (6784 + 128 + 8 * 15) (leBytes (2 * 2 ^ 62 + 63 * 2 ^ 32 + 5) 8) (fun u i b => noEventWait u &&
      (List.range 16).all fun k => legalBinding (fld b (128 + 8 * k) 8) && (decide (8 ≤ k) || (Slide.ofBytes i.g.vregs ((b.drop (16 * k)).take 16)).isSome)) = true := by
  decide +kernel

/-- A pass of a team on core 0. -/
def passOf (vteam : BitVec 16) : Pass := ⟨7, 0, vteam, 0, 0, 0x03046600#64, [], 0, none, false, none⟩

/-- MFREEZE a second time, with another team's pass in the freeze store, and with a running pass of its team and nothing in the store. -/
theorem witness_mfreeze :
    let freeze := [0x00000394]
    let engine (f : Engine → Engine) (s : State) : State := { s with engines := vmod s.engines 0 f }
    let taken (s : State) (i : Iss) : Bool := (s.engines.getD (engineOf i.t.core) Engine.reset).freeze.any fun p => !p.of i.t
    onIssue (inTeam (fun t => { t with frozen := [0] }) handling) freeze (fun _ _ i => i.t.frozen.contains i.g.gidx) = true ∧
    onIssue (engine (fun e => { e with freeze := some (passOf 1) }) handling) freeze (fun _ s i => !i.t.frozen.contains i.g.gidx && taken s i) = true ∧
    onIssue (engine (fun e => { e with running := some (passOf 0) }) handling) freeze (fun _ s i => !i.t.frozen.contains i.g.gidx && !taken s i) = true := by
  decide +kernel

/-- CINV of each sub-operation, and behind a load in flight; CWB of nothing, in context 0, of a page of memory, of one on a peer, of an absent one and of one that the table does not allow. -/
theorem witness_cache_control :
    let cinv (k : Nat) : List Nat := [(if k ≤ 1 then 0x00100399 else 0x00000399) + k * 67108864, if k ≤ 1 then 0x0000000A else 0, 0]
    let cwb := [0x0010039D, 0x0000000A, 0]
    let span (i : Iss) : Bool := let a := (i.scalar i.x.a).toNat
      let n := (i.scalar i.x.b).toNat
      decide (n ≠ 0 ∧ a + n ≤ 2 ^ 57 ∧ a / 65536 = (a + n - 1) / 65536)
    let at_ (pages : List (Nat × Leaf)) (p : Xl → Bool) : Bool := onIssue (handlingUser pages [(4, 0x300000), (10, 65536)]) cwb fun _ s' i => span i && i.t.ctx != 0 &&
      p (s'.lookup (s'.whoTeam i.t) (i.scalar i.x.a).toNat).2
    (([0, 1, 2, 3, 4] : List Nat).all fun k => onIssue (handled id) (cinv k) fun _ s i => (s.cinvs.find? (·.r = i.r)).isNone && i.x.sub == k) = true ∧
    onIssue (handled fun g => { g with loads := [loading 0 (.phys 0x300000 0x300000) .gated] }) (cinv 1) (fun _ s i => (s.cinvs.find? (·.r = i.r)).isNone && i.x.sub == 1 &&
      (s.inFlight ((i.scalar i.x.b).extractLsb' 0 8) fun _ => true).filter s.stillUses != []) = true ∧
    onIssue (handled id) cwb (fun _ _ i => (i.scalar i.x.b).toNat == 0) = true ∧
    (([1, 65536] : List DWord).all fun n => onIssue (withS 10 n (handled id)) cwb fun _ _ i => span i && i.t.ctx == 0) = true ∧
    at_ [(0x300000, page 0x300000)] (fun x => match x with | .leaf l => l.remote.isNone | _ => false) = true ∧
    at_ [(0x300000, { page 0x300000 with remote := some 5 })] (fun x => match x with | .leaf l => l.remote.isSome | _ => false) = true ∧
    at_ [] (fun x => x == .nonres) = true ∧
    onIssue { withMem 0x400000 [7#8] (handlingUser [] [(10, 1)]) with cur := some ⟨⟨1, 0, 0⟩, 0, true⟩ } cwb (fun _ s' i => span i && i.t.ctx != 0 && (s'.lookup (s'.whoTeam i.t) (i.scalar i.x.a).toNat).2 == .prot) = true := by
  decide +kernel

/-- What RunsIn says, as a test. -/
def runsIn (s : State) (id : Nat) : Bool := (s.bent? id).any fun b => (s.grid? b.record).any fun g => !g.ended && !g.failed && decide (b.st = .run ∧ b.doomed = none) &&
  s.bents.all fun o => decide (o.record = b.record → o.st ≠ .cmt)

/-- TRET with no frozen pass, and with one of its team in the store; TRET.kill of a bent with relaunches left and with none, and TRET.fail. -/
theorem witness_trap_returns :
    let ends (op : Nat) (s : State) : Bool := onIssue s [op] fun _ s' i => runsIn s' i.t.bent
    onIssue (handled faulting) [0x00000380] (fun c s i => c == .tret && noBarrierWait s && i.t.frozen == [] && s.engines.toList.all (fun e => !e.freeze.any (·.of i.t)) && i.g.record.fset.getLsbD 0 && !i.g.record.fset.getLsbD 15) = true ∧
    onIssue (inTeam (fun t => { t with frozen := [0] }) (handled id)) [0x00000380] (fun c s i => c == .tret && noBarrierWait s && i.t.frozen.all (· = i.g.gidx)) = true ∧
    ends 0x04000380 (handled id) = true ∧ ends 0x08000380 (handled id) = true := by
  decide +kernel

/-! ### Sill words (R442 to R453) -/

/-- A unit of stack 0 at work, and the run it works on. -/
def silled (u : SillUnit → SillUnit) (r : SillRun → SillRun) : State :=
  { State.reset.placeSill 0 with curSill := some 0, agenda := [], runs := [r (placedRun 0)], stackCtls := vmod State.reset.stackCtls 0 fun _ => ⟨[0], 0, some (u placedUnit)⟩ }

/-- What a test says of the unit at work and of its run. -/
def sillAt (s : State) (p : SillUnit → SillRun → Bool) : Bool := s.curSill.any fun k => (s.stack k).unit.any fun u => (s.run? u.run).any (p u)

/-- What sillAt finds meets the hypothesis of the statements. -/
theorem sillAt_here {s : State} {p : SillUnit → SillRun → Bool} (h : sillAt s p = true) : ∃ k u r, SillAt s k u r ∧ p u r = true :=
  let ⟨k, hk, h⟩ := (Option.any_eq_true ..).mp h
  let ⟨u, hu, h⟩ := (Option.any_eq_true ..).mp h
  let ⟨r, hr, h⟩ := (Option.any_eq_true ..).mp h
  ⟨k, u, r, ⟨hk, hu, hr⟩, h⟩

/-- Each Sill word that computes, in both shapes of it, at a word with another after it. -/
theorem witness_sill_lanes :
    (([true, false] : List Bool).all fun t =>
      let x : SillForm := ⟨t, false, 2, 3, 1, 7, 0⟩
      ([.zmov { x with t := false, a := 0, c := 0 }, .zadd { x with c := 0 }, .zsub { x with c := 0 }, .zmul { x with c := 0 }, .zfma x, .zfms x, .zmin { x with c := 0 }, .zmax { x with c := 0 },
        .zabs { x with b := 0, c := 0 }, .zneg { x with b := 0, c := 0 }, .zrsqe { x with b := 0, c := 0 }, .zrcpe { x with b := 0, c := 0 }, .zrsqs { x with c := 0 }, .zrcps { x with c := 0 },
        .zcmp { x with c := 0, imm := 5 }, .zsel x, .zmov { x with a := 0, c := 0, qb := true, b := 15 }] : List Instr).all fun c => c.wellFormed && (laneRule c).isSome) = true ∧
    (Instr.zcvtn ⟨false, false, 2, 0, 1, 7, 0⟩).wellFormed = true ∧ (Instr.zcvtw ⟨false, false, 0, 0, 1, 7, 1⟩).wellFormed = true ∧
    sillAt (silled id fun r => { r with words := [0, 0] }) (fun u r => u.miss == 0 && decide (u.pc + 1 < r.words.length)) = true := by
  decide +kernel

/-- ZLD, ZST and the words without a register: at a word with another after it, at the last word with another atom, another unit and neither; a cursor that the step has stored to; a mismatch at first and in the replay; and an atom with uncorrectable data. -/
theorem witness_sill_steps :
    let cursor (u : SillUnit) (r : SillRun) : Option Nat := (u.atoms.head?).bind fun a => r.pa (a + 0 * r.planes.2)
    let at_ (u : SillUnit → SillUnit) (p : State → SillUnit → SillRun → Bool) : Bool := let s := silled u fun r => { r with words := [0, 0], rlen := 64 }
      sillAt s fun u r => decide (cursor u r = some placedAtom) && p s u r
    at_ id (fun _ u r => decide (u.pc + 1 < r.words.length)) = true ∧
    at_ (fun u => { u with pc := 1, atoms := [placedAtom, placedAtom + 32] }) (fun _ u r => decide (r.words.length ≤ u.pc + 1) && u.atoms.tail == [placedAtom + 32]) = true ∧
    at_ (fun u => { u with pc := 1, rest := [1] }) (fun _ u r => decide (r.words.length ≤ u.pc + 1) && u.atoms.tail == [] && (nextUnit 0 r u).isSome) = true ∧
    at_ (fun u => { u with pc := 1 }) (fun s u r => decide (r.words.length ≤ u.pc + 1) && u.atoms.tail == [] && u.rest == [] && u.miss == 0 && !s.bad placedAtom 32 && (u.buf.find? (·.1 = placedAtom)).isNone) = true ∧
    at_ (fun u => { u with buf := [(placedAtom, 5)] }) (fun _ u _ => (u.buf.find? (·.1 = placedAtom)) == some (placedAtom, 5)) = true ∧
    at_ (fun u => { u with miss := 1 }) (fun _ u _ => u.miss != 0 && !u.replayed) = true ∧ at_ (fun u => { u with miss := 1, replayed := true }) (fun _ u _ => u.miss != 0 && u.replayed) = true ∧
    (let s : State := { silled id id with poison := [placedAtom / 32] }; sillAt s fun u r => decide (cursor u r = some placedAtom) && u.buf == [] && s.bad placedAtom 32) = true := by
  decide +kernel

/-! ### What else happens in a group (R127, R145, R146, R149, R160, R174, R271 to R275, R283) -/

/-- The context's handler image. -/
def withHandler (s : State) : State := { s with ctxs := s.ctxs.map fun c => { c with code := vmod c.code 47 fun e => { e with base := 0x500000 } } }

/-- What a test says of the team and the group of the event. -/
def atGroup (s : State) (p : Team → Group → Bool) : Bool :=
  match s.team? s.operand.g.ctx s.operand.g.vteam, s.group? s.operand.g with
  | some t, some g => p t g
  | _, _ => false

def failing : Failing := ⟨5, 0, 0, [], [], [], 1, FaultEntry.zero, false⟩

/-- LONG_LATENCY_COMPLETION of an operation and of a late fault; STRAND_FREE of strand 15, not there, not ended, with a load in flight, and of an ended one; HANDLER_ENTRY not due, and due with an image and without one; GROUP_WATCHDOG not due, and due outside and inside the handler, with and without a trap; DBGSTOP not due and due. -/
theorem witness_group_events :
    let ended (k : Nat) (s : State) : State := inGroup (fun g => { g with strands := vmod g.strands k fun _ => { g.strand 0 with state := .ended } }) s
    let idle (g : Group) (k : Nat) : Bool := g.loads.all (·.sid ≠ k) && g.longs.all (·.sid ≠ k) && g.failing.all (·.sid ≠ k) && g.sb.all (·.sid ≠ k)
    let draining (s : State) : State := inGroup (fun g => { g with trap := .draining, record := { FaultRecord.zero with fset := 1 } }) s
    let entry (s : State) (t : Team) (g : Group) : Bool := decide (g.trap = .draining) && g.drained s.cycle && s.bentRuns t
    let dead (n : Nat) (s : State) : State := inGroup (fun g => { g with watch := n }) (inStrand (fun st => { st with state := .waiting, why := 1 }) s)
    let watch (s : State) (t : Team) (g : Group) : Bool := g.everyone.any (fun x => decide (x.2.why ≠ 0)) && decide (2 ^ (s.core t.core).wdlog ≤ g.watch) && s.bentRuns t
    let stop (s : State) (t : Team) (g : Group) : Bool := g.dbg && !(g.loads.any (fun l => decide (l.dest ≠ .store)) || !g.longs.isEmpty || !g.failing.isEmpty || g.marks.any (·.pending)) && decide (g.trap = .none) && s.bentRuns t
    let asked (s : State) : State := inGroup (fun g => { g with dbg := true }) s
    let at_ (k : Nat) (s : State) (p : State → Team → Group → Bool) : Bool := let s := due 5 k (withHandler s); atGroup s (p s)
    at_ 0 (inGroup (fun g => { g with longs := [⟨5, 0, 0, 0, 1, [(3, Lanes.zero)]⟩] }) ready) (fun _ _ g => (g.longs.find? (·.id = 5)).isSome && !g.ended) = true ∧
    at_ 0 (inGroup (fun g => { g with failing := [failing] }) ready) (fun _ _ g => (g.longs.find? (·.id = 5)).isNone && (g.failing.find? (·.id = 5)).any (!·.raised) && decide (g.trap ≠ .handling)) = true ∧
    at_ 15 ready (fun _ _ g => !g.ended && !(g.strand 15).valid) = true ∧ at_ 0 ready (fun _ _ g => decide ((g.strand 0).state ≠ .ended)) = true ∧
    at_ 15 (inGroup (fun g => { g with loads := [{ loading 0 .nonres .gated with sid := 15 }] }) (ended 15 ready)) (fun _ _ g => !idle g 15) = true ∧
    at_ 15 (ended 15 ready) (fun _ _ g => !g.ended && (g.strand 15).valid && decide ((g.strand 15).state = .ended) && idle g 15) = true ∧
    at_ 0 ready (fun s t g => !entry s t g && !watch s t g && !stop s t g) = true ∧ at_ 0 (draining ready) (fun s t g => entry s t g && decide ((s.handlerCode 0).base ≠ 0)) = true ∧
    (let s := due 5 0 (draining ready); atGroup s fun t g => entry s t g && decide ((s.handlerCode 0).base = 0) && runsIn s t.bent) = true ∧
    at_ 0 (dead (2 ^ 30 - 1) ready) (fun s t g => (s.core t.core).wdlog == 30 && !watch s t g) = true ∧
    at_ 0 (dead (2 ^ 30) ready) (fun s t g => watch s t g && decide (g.trap = .none)) = true ∧
    at_ 0 (dead (2 ^ 30) (draining ready)) (fun s t g => watch s t g && decide (g.trap = .draining)) = true ∧
    at_ 0 (dead (2 ^ 30) handling) (fun s t g => watch s t g && decide (g.trap = .handling) && runsIn s t.bent) = true ∧
    at_ 0 (asked (inGroup (fun g => { g with failing := [failing] }) ready)) (fun s t g => !stop s t g) = true ∧ at_ 0 (asked ready) (fun s t g => stop s t g) = true := by
  decide +kernel

/-- STARVATION_QUEUE_ENTRY after 255 cycles and after 256, and of a strand that stands already; FAIRNESS_TIMER below FAIRINT and at it, with two ready strands; BSPILL with reserved bits, of no team, of an entry that is the issuing team's, and of one that is not. -/
theorem witness_group_scheduling :
    let starved (s : State) : Bool := atGroup s fun t g => (g.strand 0).valid && (g.strand 0).isReady && !(((s.core t.core).starve.getD (g.gidx % 4) []).filter s.starving).contains (s.operand.g, 0) &&
      decide ((g.strand 0).readyAt + 256 ≤ s.cycle)
    let aged (n : Nat) : State := due 0 0 { inStrand (fun st => { st with readyAt := 0 }) ready with cycle := n }
    let fair (n : Nat) : State := due 0 0 ((inGroup (fun g => { g with fair := n }) (withOther ready)).modCore 0 fun c => { c with fairint := 64 })
    let word (v num : Nat) : DWord := BitVec.ofNat 64 (v * 256 + num * 2 ^ 24)
    let spill (s : State) (v : Nat) (w : DWord) : State := { inTeam (fun t => { t with spillbase := 0x600000 }) s with operand := { g := ⟨0, BitVec.ofNat 16 v, 0⟩, n := 0, v := w } }
    let entry (s : State) (num : Nat) (p : Team → BarEntry → Bool) : Bool := let n := s.operand.v.toNat
      (s.anyTeam? (BitVec.ofNat 8 (n % 256)) (BitVec.ofNat 16 (n / 256 % 65536))).any fun o => (s.bar? o num).any fun e => e.ctx == o.ctx && e.vteam == o.vteam && e.num == num && p o e
    starved (aged 255) = false ∧ starved (aged 256) = true ∧ starved ((aged 256).modCore 0 fun c => { c with starve := vmod c.starve 0 fun _ => [(placedRef.g, 0)] }) = false ∧
    atGroup (fair 63) (fun t g => decide (g.fair < ((fair 63).core t.core).fairint)) = true ∧ atGroup (fair 64) (fun t g => decide (((fair 64).core t.core).fairint ≤ g.fair) && ((g.readyOrder.find? fun y => orderBefore (g.strand g.fairLast).order y.2.order).or g.readyOrder.head?).isSome) = true ∧
    (spill ready 1 (BitVec.ofNat 64 (2 ^ 30))).operand.v.toNat = 2 ^ 30 ∧ ((spill ready 1 (word 9 3)).anyTeam? 0 9).isNone = true ∧
    entry (spill (withBar 4 0 0 false ready) 0 (word 0 3)) 3 (fun _ e => !(spill (withBar 4 0 0 false ready) 0 (word 0 3)).spillable 0 0 e) = true ∧
    (let s := spill (withBar 4 0 0 false ready) 1 (word 0 3)
     entry s 3 fun o e => s.spillable 0 1 e && (s.spillPlace o 3 .write).2 == some (0x600000 + 48) && !(s.spillPlace o 3 .write).1.held (0x600000 + 48) && ((s.core (o.homeOf 3)).barSlot? o 3).isSome) = true := by
  decide +kernel

/-! ### Matrix passes at work (R249 to R251, R258 to R266) -/

/-- A pass of the placed team with one signature. -/
def onePass (desc : DWord) : Pass := ⟨7, 0, 0, 0, 3, desc, [signed 0 0], 0, none, false, none⟩

/-- An engine busy, idle, quarantined with a pass in its table, and free with one and with two of them. -/
theorem witness_pass_arbitration :
    let at_ (e : Engine → Engine) (p : State → Engine → Bool) : Bool := let s := due 0 0 (withBar 4 0 1 false ready); let s := { s with teams := s.teams ++ s.teams.map fun t => { t with vteam := 1 }, engines := vmod s.engines 0 e }; p s (s.engines.getD 0 Engine.reset)
    at_ (fun e => { e with running := some (onePass passDesc) }) (fun _ e => e.running.isSome) = true ∧
    at_ id (fun s e => e.running.isNone && !e.quarantined && noBarrierWait s && s.eligibles [] e.table == []) = true ∧
    at_ (fun e => { e with table := [onePass passDesc] }) (fun s e => choosePass e.active s.cycle (s.eligibles [] e.table) == some (onePass passDesc)) = true ∧
    at_ (fun e => { e with table := [{ onePass passDesc with prio := 2, vteam := 1 }, { onePass (passDesc ||| 0x04000000) with id := 8 }] }) (fun s e =>
      (choosePass e.active s.cycle (s.eligibles [] e.table)).any (fun p => p.id == 8) && (s.eligibles [] e.table).all fun q => !q.first && decide (s.cycle ≤ q.entered + 4096)) = true ∧
    at_ (fun e => { e with quarantined := true, table := [onePass passDesc] }) (fun s e => e.running.isNone && noBarrierWait s && (s.team? 0 0).any fun t => t.groups.all (!·.ended) && barFound s t (Desc.bar ⟨passDesc⟩) fun z => decide (z.arrive + 1 < z.expect)) = true := by
  decide +kernel

/-- A running pass whose acquire waits, one that finds no weights, one that loads its own, and one that the active plane fits. -/
theorem witness_passes_complete :
    let plane : Plane := ⟨0, 0, .i8, false, 64, 32, []⟩
    let bare := passDesc &&& ~~~0x40000#64
    let at_ (p : Pass) (a : Option Plane) (f : State → State) (q : State → Engine → Bool) : Bool := let s := f (due 0 0 (withBar 4 0 1 false ready))
      let s := { s with engines := vmod s.engines 0 fun e => { e with running := some p, active := a } }
      q s (s.engines.getD 0 Engine.reset) && noBarrierWait s && (s.team? p.ctx p.vteam).any fun t => t.groups.all (!·.ended) && barFound s t (Desc.bar ⟨p.desc⟩) fun z => decide (z.arrive + 1 < z.expect)
    let behind_ (s : State) : State := inGroup (fun g => { g with sb := [unreleased], nextId := 2 }) s
    at_ { onePass passDesc with acqw := some ⟨placedRef.g, 0, ⟨.team, 1, 9, 9, none, false, none, false⟩⟩ } none behind_ (fun s e => e.running.any fun p => s.acquireWaits p.acqw) = true ∧
    at_ (onePass bare) none id (fun s e => e.running.any fun p => !s.acquireWaits p.acqw && !p.loadw && p.plane.isNone && !e.active.any (·.fits p)) = true ∧
    at_ (onePass passDesc) none id (fun s e => e.miss == 0 && e.running.any fun p => !s.acquireWaits p.acqw && p.loadw && (p.sigs.head?.bind (·.pd)) == some 128 && decide (128 + Desc.m ⟨p.desc⟩ ≤ 256)) = true ∧
    at_ (onePass bare) (some plane) id (fun s e => e.miss == 0 && e.running.any fun p => !s.acquireWaits p.acqw && !p.loadw && p.plane.isNone && plane.fits p) = true := by
  decide +kernel

/-! ### Sill runs, scrubbing and energy (R229, R284 to R286, R299, R434, R444 to R447, R454 to R456) -/

/-- A machine with one run on stack 0, no unit of which is at work, as an event's operand. -/
def withRun (r : SillRun → SillRun) (f : State → State) : State :=
  let s := State.reset.placeSill 0
  f { s with agenda := [], runs := [r (placedRun 0)], stackCtls := vmod s.stackCtls 0 fun _ => ⟨[0], 0, none⟩, operand := { n := 0 } }

/-- A run that may not start, a void one and another that may; a stack without a wave to run, with one and with none left; a run not ended, and ended void, stopped and run, for a packet and for a token; a codeword with two errors, with one and with none; an energy fold. -/
theorem witness_runs_and_upkeep :
    let queued (r : SillRun) : SillRun := { r with stage := .queued }
    let run (s : State) (p : SillRun → Bool) : Bool := (s.run? s.operand.n).any p
    let work : Work := ⟨4, 0, 0, 0, .sill, 0, 0, 0, false, 0, 0, false, .todo⟩
    let ready_ (s : State) : State := { s with works := [work] }
    let wave (s : State) (r : SillRun) (w : Nat) : Bool := decide ((s.stack 0).wavesDone ≤ w) && (r.homeAtoms 0).any fun a => sillUnitOf a.1 / 1536 = w
    let high (r : SillRun) : SillRun := { r with rbase := 0x240000, pages := [(0x240000, 0x240000)] }
    run (withRun id id) (fun r => !startable (withRun id id) r) = true ∧
    run (withRun queued id) (fun r => startable (withRun queued id) r && !r.isVoid) = true ∧
    run (withRun (fun r => { queued r with words := [0xFFFFFFFF] }) id) (fun r => startable (withRun queued id) r && r.isVoid) = true ∧
    (withRun queued id).waveRun 0 = none ∧
    (let s := withRun id id; (s.waveRun 0).any fun r => !s.quarantinedBank r && (List.range 4).find? (wave s r) == some 0) = true ∧
    (let s := withRun high id; (s.waveRun 0).any fun r => !s.quarantinedBank r && (List.range 4).find? (wave s r) == some 3) = true ∧
    (let s := { withRun id id with stackCtls := vmod (withRun id id).stackCtls 0 fun c => { c with wavesDone := 1 } }; (s.waveRun 0).any fun r => ((List.range 4).find? (wave s r)).isNone && s.runEnded r) = true ∧
    run (withRun queued id) (fun r => !(withRun queued id).runEnded r) = true ∧
    (([.void, .aborted] : List SillStage).all fun g => let s := withRun (fun r => { r with stage := g, origin := .packet 4 }) ready_
      run s fun r => s.runEnded r && r.origin == .packet 4 && (s.works.find? (·.id = 4)).any (·.code == 0)) = true ∧
    (let s := withRun (fun r => { r with stage := .void, origin := .team 0 0 (some (63, 255)) }) (fun s => { s with teams := ready.teams, bents := ready.bents, heldWrites := [⟨0x300004, [1], none⟩] })
     run s fun r => s.runEnded r && r.sigaddr == 0 && noEventWait s && (s.anyTeam? 0 0).isSome && (s.heldWrites.filter fun w => r.holds w.pa).all fun w => !(s.runs.filter (·.id ≠ r.id)).any (·.holds w.pa)) = true ∧
    (let s := { withRun id id with stackCtls := vmod (withRun id id).stackCtls 0 fun c => { c with wavesDone := 4 }, heldWrites := [⟨0x300004, [1], none⟩], runs := [{ placedRun 0 with origin := .team 0 0 (some (0, 1)) }], teams := ready.teams, bents := ready.bents }
     run s fun r => s.runEnded r && decide (r.stage = .running) && (s.heldWrites.filter fun w => r.holds w.pa) == [⟨0x300004, [1], none⟩] && noEventWait s) = true ∧
    (let w := memTop / 32 - 1; let s (a b : List Nat) : State := { ready with poison := a, corrupt := b, operand := { n := 3, k := w } }
     32 * w < memTop ∧ w ∈ (s [w] []).poison ∧ ((s [w] []).root.log (dieOfPa (32 * w)) 3 = [] ∧ w ∈ (s [] [w]).corrupt ∧ w ∉ (s [] [w]).poison ∧ w ∉ (s [] []).corrupt)) ∧
    ((ready.modCore 255 fun c => { c with energy := [((0, 5), 7)] }).ctx? 0).any (fun x => decide (x.energy < 2 ^ 48)) = true := by
  decide +kernel

/-! ### The device, its links and its clock (R21 to R24, R31 to R35, R38, R297) -/

/-- A flash slot whose version is below the fuses' is not one to boot from. -/
theorem not_bootable {r : Root} {f : FlashSlot} (h : f.version < r.fuseVersion) : ¬ bootable r f := fun b => absurd b.2.2.2 (by omega)

/-- A public key of RFC 8032, the digest of an empty image (FIPS 202), and the signature over it that RFC 8032's procedure makes with the private key of 57 zero bytes, all computed by another program. -/
def signedSlot : FlashSlot :=
  { FlashSlot.blank with
    digest := leBytes 0xbec4b7b3ac2e294086b49a47491c82fcf692b5679d0105cb00f2c0d8ddc45dd72f76d56e64270cb5821bb862ea52cd3f24eb3e74eb3f3b23138da80b2bddb946 64
    key := leBytes 0x80c4321cb2699166f1a829259d8f503743f0cfceca127354d652fe62b9657f9afd7defac07f809e1bdae42a4f1d43282b2498a8703fe3a5b 57
    signature := leBytes 0xf01bf37965ae23148fffb657a3ebec112a760f35b5452f5777df056add44ad281c4b779b3584ed85b0bffaabfdd53f88fb9bf6b7e25816f806e702bb58e696a0798607256feec92b206f317b7cff2c22c2c6355bc47ae052614919a574b6c974b76ce336d70710d459568310819dec241 114 }

/-- SHAKE256 and Ed448 against values from outside the model. -/
theorem test_signed_slot : (shake256 signedSlot.image 64 == signedSlot.digest) = true ∧ ed448Verify signedSlot.key signedSlot.digest signedSlot.signature = true := by
  decide +kernel

/-- A device not running with two slots below its fuses' version, one whose slot passes, and one running; a boot with every part trained and ports of each kind, and boots without a stack or a die-to-die link. -/
theorem witness_boot : ready.root.phase = .running ∧ State.reset.root.phase ≠ .running ∧
    (∀ f : FlashSlot, f.version = 0 → ¬ bootable { State.reset.root with fuseVersion := 1 } f) ∧
    bootable { State.reset.root with fuseKeyHash := Config.keyHash signedSlot.key, slotA := signedSlot } signedSlot :=
  ⟨by decide, by decide, fun f h => not_bootable (by simp [h]), by decide, by decide, beq_iff_eq.mp test_signed_slot.1, rfl, test_signed_slot.2, Nat.zero_le _⟩

/-- A shutdown below 115 °C and at it; a slew of die 3 that moves it; a clock not held, held, and without an entry in its log. -/
theorem witness_device_events :
    (ready.root.phase = .running ∧ (114 : Nat) < 115 ∧ ({ ready with root := { ready.root with phase := .shutDown } } : State).root.phase ≠ .running) ∧
    (let s : State := { ready with operand := { n := 3, k := 4 }, dieOff := vmod ready.dieOff 3 fun _ => 1 }
     s.timeHeld = false ∧ s.time % 1000 = 0 ∧ s.dieOff.getD 3 0 = 1 ∧ (s.operand.k : Int) - 2 = s.dieOff.getD 3 0 + 1) ∧
    (ready.operand.flag = false ∧ ready.timeHeld = false ∧ ready.root.log (ready.operand.n % 4) 0 = []) := by
  decide +kernel

/-- A machine with ports 0 and 23 changed. -/
def withPorts (f : Port → Port) (s : State) : State := { s with ports := vmod (vmod s.ports 0 f) 23 f }

/-- A number of so many bytes is below 256 to that power. -/
theorem leNat_lt (l : List Byte) : leNat l < 256 ^ l.length := by
  induction l with
  | nil => simp [leNat]
  | cons b l ih => simp only [leNat, List.length_cons, Nat.pow_succ]; have := b.isLt; omega

/-- A port down, retraining, and up; one whose flit comes in sequence, for every flit that passes its checks; a flit of each kind that passes them; and for every flit, one of the clauses. -/
theorem witness_flits :
    (([0, 23] : List Nat).all fun k =>
      !(ready.ports.getD k Port.reset).up && ((withPorts (fun p => { p with training := true }) ready).ports.getD k Port.reset).training &&
      (let p := (withPorts (fun p => { p with up := true, rxFailed := true, replays := 7 }) ready).ports.getD k Port.reset; p.up && !p.training && p.rxFailed)) = true ∧
    (∀ b c, flitPasses b c → let s := withPorts (fun p => { p with up := true, rxExpect := BitVec.ofNat 12 (fld c 0 8 / 2 ^ 52) }) ready
      (s.ports.getD 0 Port.reset).up = true ∧ fld c 0 8 / 2 ^ 52 = (s.ports.getD 0 Port.reset).rxExpect.toNat) ∧
    ∀ (b : List Byte) (p : Port), (∃ c, flitPasses b c ∧ fld c 0 8 / 2 ^ 52 = p.rxExpect.toNat) ∨ (∀ c, ¬ flitPasses b c) ∨
      (∃ c, flitPasses b c ∧ fld c 0 8 / 2 ^ 52 ≠ p.rxExpect.toNat ∧ p.rxFailed = false) ∨ ∃ c, flitPasses b c ∧ fld c 0 8 / 2 ^ 52 ≠ p.rxExpect.toNat ∧ p.rxFailed = true := by
  refine ⟨by decide +kernel, fun b c h => ⟨rfl, ?_⟩, fun b p => ?_⟩
  · have hc : fld c 0 8 < 256 ^ 8 := Nat.lt_of_lt_of_le (leNat_lt _) (Nat.pow_le_pow_right (by decide) (by rw [List.length_take]; exact Nat.min_le_left 8 _))
    have : ((withPorts (fun p => { p with up := true, rxExpect := BitVec.ofNat 12 (fld c 0 8 / 2 ^ 52) }) ready).ports.getD 0 Port.reset).rxExpect = BitVec.ofNat 12 (fld c 0 8 / 2 ^ 52) := rfl
    rw [this, BitVec.toNat_ofNat, Nat.mod_eq_of_lt (by omega)]
  · by_cases h : ∃ c, flitPasses b c
    · obtain ⟨c, hc⟩ := h
      by_cases he : fld c 0 8 / 2 ^ 52 = p.rxExpect.toNat
      · exact Or.inl ⟨c, hc, he⟩
      · cases hf : p.rxFailed
        · exact Or.inr (Or.inr (Or.inl ⟨c, hc, he, rfl⟩))
        · exact Or.inr (Or.inr (Or.inr ⟨c, hc, he, rfl⟩))
    · exact Or.inr (Or.inl fun c hc => h ⟨c, hc⟩)

/-- A port that retrains for the second and the third time, with nothing held and something, with no other port up, with another one up, and nothing in its die's log; a die-to-die link up, down for the second and for the third time. -/
theorem witness_training :
    (([0, 23] : List Nat).all fun k => ([1, 2] : List Nat).all fun n => ([[], [Txn.zero]] : List (List Txn)).all fun h => let s := withPorts (fun p => { p with training := true, retrains := n, held := h }) ready
      (s.ports.getD k Port.reset).training && decide ((s.ports.getD k Port.reset).retrains = n) && s.root.log (k / 6) 4 == [] && (List.range 24).all fun j => decide (j = k) || !(s.ports.getD j Port.reset).up) = true ∧
    (let s := withPorts (fun p => { p with training := true, retrains := 2, unacked := [(0, Txn.zero)] }) { ready with ports := vmod ready.ports 22 fun p => { p with up := true } }
     (s.ports.getD 23 Port.reset).training && (s.ports.getD 22 Port.reset).up) = true ∧
    (([⟨true, 7, 0⟩, ⟨false, 0, 1⟩, ⟨false, 0, 2⟩] : List DieLink).all fun l => let s : State := { ready with dieLinks := vmod ready.dieLinks 3 fun _ => l }
      decide (s.root.phase = .running) && s.bents.all (fun b => b.st != .cmt) && (s.dieLinks.getD 3 ⟨false, 0, 0⟩) == l) = true := by
  decide +kernel

/-! ### Ridge requests and completions (R25 to R27, R39, R51 to R55, R71) -/

/-- A machine with an identity and port 0 up, and a transaction that has come. -/
def linked (r : Txn) (s : State) : State :=
  { s with root := { s.root with idset := true, devNum := 5, hostNum := 9 }, ports := vmod s.ports 0 fun p => { p with up := true }, operand := { t := r } }

/-- A transaction from the host, and one from device 0, which commands context 1. -/
def fromHost (op : BitVec 6) : Txn := { Txn.zero with dst := 5, src := 9, op := op }
def fromOwner (op : BitVec 6) : Txn := { Txn.zero with dst := 5, ctx := 1, op := op }

/-- What a test says of the context of an accepted request. -/
def accepted (s : State) (p : Txn → Ctx → Bool) : Bool :=
  let r := s.operand.t
  decide (s.root.phase = .running ∧ s.root.idset = true ∧ r.dst = s.root.devNum ∧ isCompletion r = false ∧ wellFormed r = true) &&
    (s.ctx? r.ctx).any fun c => decide (if r.ctx = 0 then r.src = s.root.hostNum else r.src = c.owner) && p r c

/-- What accepted finds meets the hypothesis of the statements. -/
theorem accepted_here {s : State} {p : Txn → Ctx → Bool} (h : accepted s p = true) : ∃ r c, Accepted s r c ∧ p r c = true :=
  let ⟨reach, h⟩ := (Bool.and_eq_true ..).mp h
  let ⟨c, hc, h⟩ := (Option.any_eq_true ..).mp h
  let ⟨commands, hp⟩ := (Bool.and_eq_true ..).mp h
  let ⟨h1, h2, h3, h4, h5⟩ := of_decide_eq_true reach
  ⟨s.operand.t, c, ⟨⟨rfl, h1, h2, h3⟩, h4, h5, hc, of_decide_eq_true commands⟩, hp⟩

/-- Tables of context 1 that lead virtual page 0 to a level-0 entry (R182, R184). -/
def walked (e : Nat) : State :=
  withMem 0x400000 (leBytes 0x401001 8) (withMem 0x401000 (leBytes 0x402001 8) (withMem 0x402000 (leBytes 0x403001 8) (withMem 0x403000 (leBytes 0x404001 8) (withMem 0x404000 (leBytes e 8) (user [])))))

/-- Requests before an identity, for another device, malformed, and from a source without command, of context 0, of context 1, and of none. -/
theorem witness_requests_refused :
    let reach (r : Txn) : Bool := let s := linked r (user []); decide (s.root.phase = .running) && s.root.idset && s.operand.t.dst == s.root.devNum
    isCompletion (fromHost 0) = false ∧ ready.root.idset = false ∧ (linked { fromHost 0 with dst := 6 } ready).waiting.contains { fromHost 0 with dst := 6 } = false ∧ (linked { fromHost 0 with dst := 6 } ready).root.devNum ≠ 6 ∧
    (([{ fromHost 0x0C with rsv0 := 1 }, { fromHost 0x0C with rsv1 := 128 }, { fromHost 0x01 with ndata := 9 }, fromHost 0x03, fromHost 0x3F, fromHost 0x00] : List Txn).all reach) = true ∧
    wellFormed { fromHost 0x00 with src := 8, dw2 := 1 } = true ∧ wellFormed { fromOwner 0x00 with src := 8, dw2 := 1 } = true ∧ ((linked { fromOwner 0x00 with src := 8, dw2 := 1 } (user [])).ctx? 1).all (fun c => decide (c.owner ≠ 8)) = true ∧
    wellFormed { fromHost 0x0C with src := 8, dw2 := 1, ndata := 1 } = true ∧ ((linked Txn.zero (user [])).ctx? 7).isNone = true := by
  decide +kernel

/-- MEMORY_READ of a line's first and last byte, beyond memory, of a page not allowed, absent, with an unreadable entry, without a frame, and of uncorrectable data. -/
theorem witness_memory_reads :
    let read (a : BitVec 48) (n : Nat) : Txn := { fromOwner 0x00 with addr := a, dw2 := BitVec.ofNat 64 n }
    let at_ (r : Txn) (s : State) (p : Place → Bool) : Bool := let s := linked r s
      accepted s fun r _ => r.op == 0x00 && decide (r.addr.toNat / 128 = (r.addr.toNat + dw2 r 0 9 - 1) / 128) && s.poison == [] && s.l2bad == [] && p (s.place ⟨r.ctx, none, none, none⟩ r.addr.toNat .read).2
    let here (p : Place) : Bool := match p with | .here _ _ => true | _ => false
    at_ { fromHost 0x00 with addr := 0x30007F, dw2 := 1 } ready here = true ∧ at_ (read 0 128) (walked 0x3000FA) here = true ∧
    at_ { fromHost 0x00 with addr := BitVec.ofNat 48 memTop, dw2 := 1 } ready (· == .prot) = true ∧ at_ (read 0 1) (walked 0x300002) (· == .prot) = true ∧ at_ (read 0 1) (walked 3) (· == .nonres) = true ∧
    at_ (read 0 1) (walked 4) (· == .hold) = true ∧
    (let s := linked (read 0 1) { walked 0x3000FA with poison := [0x404000 / 32] }; accepted s fun r _ => (s.place ⟨r.ctx, none, none, none⟩ r.addr.toNat .read).2.lost?.isSome) = true ∧
    (let s := linked { fromHost 0x00 with addr := BitVec.ofNat 48 (memTop - 32), dw2 := 32 } { ready with poison := [memTop / 32 - 1] }
     accepted s fun r _ => s.poison.contains (r.addr.toNat / 32) && decide (65536 ≤ r.addr.toNat ∧ r.addr.toNat < memTop)) = true := by
  decide +kernel

/-- MEMORY_WRITE in context 0 up to the end of memory and beyond it, and in context 1 of a page, of one that may not be written, and of an absent one; ATOMIC of each operation, and of a page not allowed, on a peer, and absent. -/
theorem witness_memory_writes :
    let write (r : Txn) (n : Nat) : Txn := { r with op := 0x01, ndata := BitVec.ofNat 4 n, dw2 := 1 }
    let host (a n : Nat) : Bool := let s := linked (write { fromHost 0 with addr := BitVec.ofNat 48 a } n) ready; accepted s fun r _ => r.op == 0x01 && r.ctx == 0 && s.runs == [] && s.poison == [] && s.l2bad == []
    let own (need : Need) (r : Txn) (e : Nat) (p : Place → Bool) : Bool := let s := linked r (walked e)
      accepted s fun r _ => r.ctx != 0 && s.runs == [] && s.poison == [] && s.l2bad == [] && p (s.place ⟨r.ctx, none, none, none⟩ r.addr.toNat need).2
    let here (p : Place) : Bool := match p with | .here pa _ => decide (65536 ≤ pa) | _ => false
    let atomic (op : Nat) : Txn := { fromOwner 0x02 with dw2 := BitVec.ofNat 64 op, ndata := 1, data := List.replicate 32 0 }
    host (memTop - 128) 4 = true ∧ host (memTop - 96) 4 = true ∧ host 65536 1 = true ∧
    own .write (write (fromOwner 1) 4) 0x3000FA here = true ∧ own .write (write (fromOwner 1) 1) 0x3000EA (· == .prot) = true ∧ own .write (write (fromOwner 1) 1) 0x300002 (· == .prot) = true ∧ own .write (write (fromOwner 1) 1) 3 (· == .nonres) = true ∧
    ((List.range 8).all fun op => ([0, 16] : List Nat).all fun w => own .both (atomic (op + w)) 0x3000FA here) = true ∧
    own .both (atomic 0) 0x300002 (· == .prot) = true ∧ (let s := linked (atomic 0) (walked (2 ^ 63 + 3 * 2 ^ 53 + 0x3000FA)); accepted s fun r _ =>
      match s.place ⟨r.ctx, none, none, none⟩ r.addr.toNat .both with
      | (v, .peer d pa) => decide (32 ≤ r.data.length) && (match v.fresh.1.request d (atomicTxn r.ctx pa (r.dw2.toNat % 16) 4 (leNat (r.data.take 4)) (r.dw3.toNat % 2 ^ (8 * 4))) (.forward v.fresh.2) with | .sent _ => true | _ => false)
      | _ => false) = true ∧ own .both (atomic 0) 3 (· == .nonres) = true := by
  decide +kernel

/-- A completion with a status and data for the request with tag 4095 of device 3. -/
def answer (status nd : Nat) : Txn := { Txn.zero with dst := 5, src := 3, vc := 1, op := if nd = 0 then 0x04 else 0x03, ndata := BitVec.ofNat 4 nd, dw2 := BitVec.ofNat 64 (status + 256 * 4095), data := List.replicate (32 * nd) 1 }

/-- Completions that answer nothing, a message, what nothing waits for, a signal of a run, one of a packet that was performed or not, a request sent on that was met or not, a line, a part of a load that came and one of an absent page, a store, a copy with both failures, and a system copy. -/
theorem witness_completions :
    let at_ (c : Txn) (w : Await) (f : State → State) (p : State → Request → Bool) : Bool := let s := linked c (f { ready with outstanding := [⟨4095, 5, 3, w⟩] })
      decide (s.root.phase = .running) && s.root.idset && isCompletion c && wellFormed c && (s.outstanding.find? fun r => r.tag = dw2 c 8 12 && r.peer = c.src && r.self = c.dst).any (p s)
    let load := withLoad (loading 0 (.remote 3 0 0x300000) (.remote 0))
    let part (s : State) : Bool := (s.group? placedRef.g).any fun x => (x.loads.find? (·.id = 5)).any fun l => (l.parts.find? (·.lane = 3)).isSome
    let copy (s : State) : State := s.modCore 0 fun k => { k with copies := [{ copyOf 0 0x7F00000000000000 false with out := 1 }] }
    let sysCopy (s : State) : State := { s with sysCopies := [⟨2, 0, 4, 0, 0, 0, 64, some 3, false, [], 1, false, 0, []⟩] }
    let work (s : State) : State := { s with works := [⟨4, 0, 0, 0, .copy, 0x300000, 1, 0, true, 0, 0, false, .out⟩] }
    let reply (s : State) : State := { s with replies := [⟨9, 0, [], 1, Txn.zero⟩] }
    (let s := linked (answer 0 1) ready; wellFormed (answer 0 1) && s.outstanding == []) = true ∧
    (([.message, .stray, .signal none] : List Await).all fun w => at_ (answer 0 0) w id (fun _ r => r.want == w)) = true ∧
    (([0, 5] : List Nat).all fun n => at_ (answer n 0) (.signal (some (.queue 4))) work (fun s _ => (s.works.find? (·.id = 4)).isSome)) = true ∧
    (([0, 5] : List Nat).all fun n => at_ (answer n 0) (.forward 9) reply (fun s _ => (s.replies.find? (·.id = 9)).isSome)) = true ∧ at_ (answer 0 4) (.line 255 9 true) id (fun _ _ => true) = true ∧
    at_ (answer 0 1) (.loadPart placedRef.g 5 3) load (fun s _ => part s) = true ∧ at_ (answer 5 1) (.loadPart placedRef.g 5 3) load (fun s _ => part s) = true ∧
    at_ (answer 0 0) (.storeAck placedRef.g 5) id (fun s _ => (s.group? placedRef.g).any (·.loads == [])) = true ∧
    (([4, 5] : List Nat).all fun n => at_ (answer n 0) (.copy 0 1 0 64 true) copy fun s _ => ((s.core 0).copies.find? (·.id = 1)).isSome) = true ∧
    at_ (answer 4 0) (.sysCopy 2 0 64 true) sysCopy (fun s _ => (s.sysCopies.find? (·.id = 2)).isSome) = true := by
  decide +kernel

/-- Queue operations on an absent queue, on a mapped one and on one that is switched out: each with the tails at the limit and beyond it, a device queue, the bootstrap queue before its first write, and a queue in error with and without a consumed packet. -/
theorem witness_queue_operations :
    let op (r : Txn) (k q : Nat) (v : DWord) : Txn := { r with op := 0x08, dw2 := BitVec.ofNat 64 (k + 256 * q), dw3 := v }
    let at_ (r : Txn) (s : State) (p : Queue → Bool) : Bool := let s := linked r s; accepted s fun r c => r.op == 0x08 && decide (1 ≤ dw2 r 0 8 ∧ dw2 r 0 8 ≤ 5) && p (s.queueNow c (dw2 r 8 4))
    let own := withQueue (devQueue 0 16) (user [])
    let out := withMem (0x4000 + 64 + 32 * 5 + 16) (leBytes 8 4 ++ leBytes 4 4) (withQueue { devQueue 0 0 with slot := none, tail := 7, progress := 3, error := true } (user []))
    let tail (v : Word) (x : Queue) : Nat := (v - x.progress).toNat
    (([1, 2, 3, 4, 5] : List Nat).all fun k => at_ (op (fromOwner 8) k 15 0) own (·.ring == 0) && at_ (op (fromOwner 8) k 5 0) own (fun x => x.ring != 0 && x.slot.isSome && x.kind == 0) &&
      at_ (op (fromOwner 8) k 5 0) out fun x => x.ring != 0 && x.slot.isNone && x.tail == 7 && x.progress == 3 && x.error) = true ∧
    at_ (op (fromOwner 8) 1 5 0) (withQueue (devQueue 1 0) (user [])) (·.kind == 1) = true ∧ at_ (op (fromOwner 8) 1 5 17) own (fun x => decide (2 ^ x.logsize < tail 17 x)) = true ∧
    at_ (op (fromOwner 8) 1 5 16) own (fun x => decide (tail 16 x ≤ 2 ^ x.logsize)) = true ∧
    at_ (op (fromHost 8) 1 0 1) (withMem 0x4040 (leBytes 0x800000 8 ++ [16#8, 0#8]) ready) (fun x => decide (x.ring ≠ 0 ∧ x.latched = false ∧ x.kind = 0 ∧ 4 ≤ x.logsize ∧ x.logsize ≤ 16 ∧ tail 1 x ≤ 2 ^ x.logsize)) = true ∧
    at_ (op (fromHost 8) 1 0 1) (withMem 0x4040 (leBytes 0x800000 8 ++ [3#8, 0#8]) ready) (fun x => decide (x.ring ≠ 0 ∧ x.latched = false ∧ x.logsize < 4)) = true ∧
    at_ (op (fromOwner 8) 5 5 0) (withQueue (devQueue 1 0) (user [])) (fun x => x.kind == 1) = true ∧ at_ (op (fromOwner 8) 5 5 0) own (fun x => !x.error) = true ∧
    (([true, false] : List Bool).all fun b => at_ (op (fromOwner 8) 5 5 0) (withQueue { devQueue 0 16 with error := true, consumed := b } (user [])) fun x => x.error && x.consumed == b) = true := by
  decide +kernel

/-- ENERGY_READ and ENERGY_CLEAR of a counter at its top; MAILBOX_POST to no team, to a full mailbox and to one with a place left; and a management message. -/
theorem witness_other_requests :
    let at_ (r : Txn) (f : State → State) (p : State → Bool) : Bool := let s := linked r (f ready); accepted s fun _ _ => p s
    let q (k : Nat) : Txn := { fromHost 0x08 with dw2 := BitVec.ofNat 64 k }
    let post (v mb : Nat) : Txn := { fromHost 0x09 with dw2 := BitVec.ofNat 64 (v + 65536 * mb), dw3 := 5 }
    let mail (n : Nat) : State → State := inTeam fun t => { t with mbs := vmod t.mbs 7 fun _ => List.replicate n 1 }
    let full (s : State) : Option Bool := (s.anyTeam? 0 (BitVec.ofNat 16 (dw2 s.operand.t 0 16))).map (·.mbFull (dw2 s.operand.t 16 3))
    (([6, 7] : List Nat).all fun k => at_ (q k) (fun s => { s with ctxs := s.ctxs.map fun c => { c with energy := 2 ^ 48 - 1 } }) fun s => s.ctxs.all fun c => decide (c.energy < 2 ^ 48)) = true ∧
    at_ (post 9 0) id (fun s => full s == none) = true ∧ at_ (post 0 7) (mail 8) (fun s => full s == some true) = true ∧ at_ (post 0 7) (mail 7) (fun s => full s == some false) = true ∧
    at_ { fromHost 0x0C with dw2 := 1, ndata := 8 } id (fun _ => true) = true := by
  decide +kernel

/-! ### The root controller's commands (R36 to R39, R294, R298, R300 to R303) -/

/-- A command that has come over the sideband or over Ridge. -/
def commanded (ridge : Bool) (b : List Byte) (s : State) : State := { s with operand := { m := ⟨ridge, b⟩ } }

/-- Each command with its operands at both ends of their ranges and beyond them, on a running device; a code that is not the row's, a device in reset and in recovery, and a stack with a run and without one. -/
theorem witness_commands :
    (([0x20, 0x10, 0x11, 0x12, 0x13, 0x14, 0x15, 0x16, 0x21] : List Nat).all fun c => commands.any (fun x => x.1 == c) && (commanded true [BitVec.ofNat 8 c] ready).operand.m.bytes.head? == some (BitVec.ofNat 8 c)) = true ∧
    ready.root.phase = .running ∧ State.reset.root.phase = .inReset ∧ ({ State.reset.root with phase := .recoveryOnly }).phase ≠ .inReset ∧
    (ready.ctxs.all (fun c => c.num == 0) && (user []).ctxs.any fun c => c.num != 0) = true ∧
    (([0, 1, 2] : List Nat).all fun k => let c : Scrub := ready.root.scrub.getD k ⟨0, true, 0, 0⟩; decide (c.profile < 3 ∧ c.cethr < 256 ∧ c.period < 2 ^ 32)) = true ∧
    (let e : LogEntry := ⟨0, 7, 0x22, 4, 3, 0, 1, 0, 0, 0, 0⟩; (({ ready.root with logs := [e] } : Root).log 3 7)[0]? = some e) ∧
    (ready.teams.any (fun t => decide (t.core = 0)) && ready.teams.all fun t => decide (t.core ≠ 255)) = true ∧
    (let s := silled id id; (s.stack 0).queue.any fun id => (s.run? id).any fun r => (r.homeAtoms 0).any fun a => decide (sillUnitOf a.1 / 6144 = 0)) = true ∧ (ready.stack 11).queue = [] ∧
    (withPasses 1 ready).engines.getD 0 Engine.reset ≠ Engine.reset ∧ (let e := ready.engines.getD 63 Engine.reset; e.table = [] ∧ e.running.isSome = false ∧ e.freeze.isSome = false) ∧
    ∀ k n t, Config.selfTest k n t = true ∨ Config.selfTest k n t = false :=
  ⟨by decide +kernel, by decide +kernel, by decide +kernel, by decide +kernel, by decide +kernel, by decide +kernel, by decide +kernel, by decide +kernel, by decide +kernel, by decide +kernel,
    by decide +kernel, by decide +kernel, fun k n t => by cases Config.selfTest k n t <;> simp⟩

/-- An SPDM request that is listed and one that is not, with a request under way and without; a command that is not listed; a slot that the device booted from, and another; and the lifetime counts an hour old and younger. -/
theorem witness_attestation :
    spdmRows.any (fun x => x.1 == 0xE0#8) = true ∧ spdmRows.all (fun x => x.1 != 0x80#8) = true ∧ commands.all (fun x => BitVec.ofNat 8 x.1 != 0x22#8) = true ∧ ready.root.spdmBusy = none ∧ ready.root.phase ≠ .inReset ∧ ready.root.phase ≠ .recoveryOnly ∧
    (let m : MgmtReq := ⟨false, [0x12, 0xE0, 0, 0]⟩; (([0, 1] : List Nat).all fun k => let s : State := { ready with root := { ready.root with spdmBusy := some m }, operand := { m := m, k := k } }; s.root.spdmBusy == some m && s.operand.k == k && s.operand.m == m) = true) ∧
    ({ ready with root := { ready.root with booted := some true }, operand := { flag := true } } : State).root.booted = some true ∧ ready.root.booted ≠ some ready.operand.flag ∧
    ready.root.lifeAt + 3600 * 10 ^ 9 ≤ 3600 * 10 ^ 9 ∧ ready.time < ready.root.lifeAt + 3600 * 10 ^ 9 := by
  decide +kernel

/-! ### Packets (R45, R46, R55 to R66, R85, R87) -/

/-- The bytes that a read for the Z9 gives. -/
def bytesOf : Got → Option (List Byte)
  | .bytes b => some b
  | _ => none

theorem bytesOf_is {g : Got} {b : List Byte} (h : bytesOf g = some b) : g = .bytes b := by
  cases g with
  | bytes b' => exact congrArg _ (Option.some.inj h)
  | prot | nonres | bad => exact absurd h (by simp [bytesOf])

/-- What a test says of the packet that is due, as it has been read. -/
def slotRead (s : State) (p : State → Ctx → Nat → Queue → List Byte → Bool) : Bool := (s.ctx? s.operand.ctx).any fun c =>
  let q := s.operand.q.toNat
  let x := s.queueNow c q
  decide (x.slot.isSome = true ∧ x.error = false ∧ x.tail ≠ x.progress ∧ s.root.phase = .running) &&
    (landed (s.readSpan ⟨c.num, none, none, none⟩ (x.ring + 128 * (x.progress.toNat % 2 ^ x.logsize)) 128 .read)).any fun r => (bytesOf r.2).any (p (r.1.dropStage 0) c q x)

/-- What slotRead finds meets the hypothesis of the statements. -/
theorem slotRead_here {s : State} {p : State → Ctx → Nat → Queue → List Byte → Bool} (h : slotRead s p = true) : ∃ u c q x b, SlotRead s u c q x b ∧ p u c q x b = true :=
  let ⟨c, hc, h⟩ := (Option.any_eq_true ..).mp h
  let ⟨hx, h⟩ := (Bool.and_eq_true ..).mp h
  let ⟨⟨v, g⟩, hv, h⟩ := (Option.any_eq_true ..).mp h
  let ⟨b, hb, h⟩ := (Option.any_eq_true ..).mp h
  let ⟨h1, h2, h3, h4⟩ := of_decide_eq_true hx
  ⟨v.dropStage 0, c, _, _, b, ⟨hc, rfl, rfl, h1, h2, h3, h4, v, (landed_is hv).trans (congrArg (Res.ok v) (bytesOf_is (g := g) hb)), rfl⟩, h⟩

/-- A packet of a type that is due, as a test. -/
def packetAs (ty : Nat) (u : State) (c : Ctx) (q : Nat) (x : Queue) (b : List Byte) : Bool :=
  decide (x.wait = none ∧ fld b 0 1 = ty ∧ (ty = 1 ∨ (x.kind ≠ 1 ∧ (ty ≤ 6 ∨ (ty = 7 ∧ c.num = 0)))) ∧ fld b 0 8 < 2 ^ 15 ∧ fld b 0 8 / 512 % 4 ≠ 3 ∧ fld b 0 8 / 2048 % 4 ≠ 3 ∧
    (x.kind = 1 ∨ fld b 0 8 / 8192 % 4 ≤ (if c.num = 0 then 3 else c.cprio)) ∧ fld b 8 8 % 8 = 0) && (!(fld b 0 8).testBit 8 || u.works.all fun w => !decide (w.ctx = c.num ∧ w.q.toNat = q))

/-- A packet that is due, with a test of it, meets the hypothesis of the statements. -/
theorem packetAs_here {s : State} {ty : Nat} {p : State → Ctx → Nat → Queue → List Byte → Bool} (h : slotRead s (fun u c q x b => packetAs ty u c q x b && p u c q x b) = true) :
    ∃ u c q x b, PacketDue s u c q x b ty ∧ p u c q x b = true := by
  obtain ⟨u, c, q, x, b, hr, hp⟩ := slotRead_here h
  simp only [packetAs, Bool.and_eq_true, decide_eq_true_eq, Bool.or_eq_true, Bool.not_eq_true', List.all_eq_true, decide_eq_false_iff_not] at hp
  obtain ⟨⟨⟨h1, h2, h3, h4, h5, h6, h7, h8⟩, h9⟩, h10⟩ := hp
  refine ⟨u, c, q, x, b, ⟨hr, h1, h2, h3, h4, h5, h6, h7, h8, fun ht w hw => ?_⟩, h10⟩
  rcases h9 with h9 | h9
  · rw [h9] at ht; cases ht
  · exact h9 w hw

/-- A packet in slot 0 of the ring of queue 5 of context 0, which is due. -/
def packed (b : List Byte) (f : Queue → Queue) (s : State) : State := { withMem 0x800000 b (s.modCtx 0 fun c => { c with queues := vmod c.queues 5 fun _ => f (devQueue 0 1) }) with operand := { ctx := 0, q := 5 } }

/-- A packet's header with its type and flags, no signal, and more bytes, to 128. -/
def pkt (h : Nat) (b : List Byte) : List Byte := leBytes h 8 ++ List.replicate 16 0 ++ b ++ List.replicate (104 - b.length) 0

/-- A launch of a grid of g bents in x, of one team with units of scratch, flags and one role of groups. -/
def launchOf (g units flags groups : Nat) : List Byte :=
  pkt 1 (leBytes 0x500000 8 ++ leBytes g 2 ++ leBytes 1 2 ++ leBytes 1 2 ++ [1, 1, BitVec.ofNat 8 units, BitVec.ofNat 8 flags, 1, 0, BitVec.ofNat 8 groups, 32, 0, 0])

theorem launch_fields : LaunchFields (launchOf 1 14 4 1) ∧ LaunchFields (launchOf 1 14 12 2) ∧ ¬ LaunchFields (launchOf 0 1 4 1) ∧ ¬ LaunchFields (launchOf 1 15 4 1) := by
  refine ⟨?_, ?_, ?_, ?_⟩ <;> unfold LaunchFields <;> decide +kernel

/-- A code image at the entry point of the launches, and launch records at 0x900000. -/
def coded (s : State) : State :=
  { s with ctxs := s.ctxs.map fun c => { c with code := vmod c.code 47 fun _ => ⟨0x500000, 64, 1, 0x30, 0, 0, 0, 0, 0, 0⟩ }, dcb := { s.dcb with lrbase := 0x900000, lrlen := 1 } }

/-- Packets of each type that a queue does not admit, with each header that is refused, and one held by ORDER; launches that do not fit, without code, without a record slot, and with both, from a queue of a team. -/
theorem witness_launch_packets :
    let at_ (b : List Byte) (f : Queue → Queue) (g : State → State) (p : State → Ctx → Nat → Queue → List Byte → Bool) : Bool := slotRead (packed b f (g ready)) p
    let device (x : Queue) : Queue := { x with kind := 1 }
    let due (b : List Byte) (f : Queue → Queue) (g : State → State) (p : State → Ctx → Bool) : Bool := slotRead (packed b f (g ready)) fun u c q x b => packetAs 1 u c q x b &&
      (decide (u.ctx? c.num = some c) && (List.range 48).all (fun k => !u.bad (c.desc + 1024 + 64 * k) 64 && fld (memRead u.mem (c.desc + 1024 + 64 * k) 64) 15 1 % 2 == 0) && b.length == 128 && p u c)
    let good (e : CodeEntry) : Bool := decide (e.base ≠ 0 ∧ e.base ≤ 0x500000 ∧ 0x500000 < e.base + e.size) && e.note == 0x30
    let work : Work := ⟨4, 0, 5, 0, .copy, 0, 0, 0, false, 0, 0, false, .todo⟩
    (([0, 8, 255] : List Nat).all fun ty => at_ (pkt ty []) id id fun _ _ _ x b => fld b 0 1 == ty && x.wait.isNone) = true ∧ at_ (pkt 2 []) device id (fun _ _ _ x b => x.kind == 1 && fld b 0 1 == 2) = true ∧
    (([2 ^ 15, 3 * 512, 3 * 2048] : List Nat).all fun h => ([1, 2, 3, 4, 5, 6] : List Nat).all fun ty => at_ (pkt (h + ty) []) id id fun _ _ _ _ b => fld b 0 1 == ty && !decide (ty = 2 ∧ fld b 24 8 % 64 = 0 ∧ 1 ≤ fld b 32 4 ∧ fld b 32 4 ≤ 4096)) = true ∧
    at_ (pkt (256 + 4) []) id (fun s => { s with works := [work] }) (fun u c q _ b => (fld b 0 8).testBit 8 && u.works.any fun w => decide (w.ctx = c.num ∧ w.q.toNat = q)) = true ∧
    due (launchOf 0 1 4 1) id coded (fun _ _ => true) = true ∧ fitsEmpty (launchRoles (launchOf 1 14 12 2)) 14 true = false ∧ due (launchOf 1 14 12 2) id coded (fun _ _ => true) = true ∧
    fitsEmpty (launchRoles (launchOf 1 14 4 1)) 14 false = true ∧ due (launchOf 1 14 4 1) id id (fun _ c => (List.range 48).all fun k => !good (c.code.getD k .empty)) = true ∧
    due (launchOf 1 14 4 1) id (fun s => { coded s with dcb := s.dcb }) (fun u c => u.freeSlot.isNone && good (c.code.getD 47 .empty) && (List.range 47).all fun k => (c.code.getD k .empty).base == 0) = true ∧
    due (launchOf 1 14 4 1) id coded (fun u c => u.freeSlot == some 0x900000 && u.runs == [] && good (c.code.getD 47 .empty)) = true ∧
    at_ (launchOf 1 14 4 1) (fun x => { x with kind := 1, parents := [(0, 0)] }) coded (fun u c q x b => packetAs 1 u c q x b && x.parents.find? (·.1 = x.progress) == some (0, 0) && (u.anyTeam? c.num 0).isSome) = true := by
  decide +kernel

/-- Copies with each field that is refused and without one; signals with each field that is refused, without an address, with each condition met and not met, of a page that is absent, and rechecked; posts to no team, to a full mailbox and to one with a place left, and waiting; runs that fail their checks, with a full queue and without; completion signals of work that has not ended, of work without a signal, of work that failed, and of one with a signal. -/
theorem witness_other_packets :
    let due (ty : Nat) (b : List Byte) (g : State → State) (p : State → Ctx → Queue → List Byte → Bool) : Bool := slotRead (packed (pkt ty b) id (g ready)) fun u c q x b => packetAs ty u c q x b &&
      (decide (u.ctx? c.num = some c) && b.length == 128 && p u c x b)
    let copyp (src dst len dev : Nat) : List Byte := leBytes src 8 ++ leBytes dst 8 ++ leBytes len 8 ++ leBytes dev 2
    let badCopy (p : List Byte) : Bool := let len := fld p 40 8
      decide (len = 0 ∨ 2 ^ 40 < len ∨ fld p 48 2 / 1024 % 32 ≠ 0 ∨ fld p 50 78 ≠ 0 ∨ (fld p 48 2 < 32768 ∧ fld p 24 8 < fld p 32 8 + len ∧ fld p 32 8 < fld p 24 8 + len))
    let sig (a : Nat) (v : DWord) (cond : Nat) : List Byte := leBytes a 8 ++ leBytes v.toNat 8 ++ leBytes cond 1
    let holds (cond : Nat) (val m : DWord) : Bool := match cond with | 0 => decide (val.toInt ≤ m.toInt) | 1 => m == val | 2 => m != val | _ => decide (m.toInt < val.toInt)
    let reads (cond : Nat) (v : DWord) (h : Bool) : Bool := due 5 (sig 0x600000 v cond) id fun u c _ _ => okAnd (u.readSpan ⟨c.num, none, none, none⟩ 0x600000 8 .read) fun _ g => match g with
      | .bytes b => holds cond v (BitVec.ofNat 64 (leNat b)) == h
      | _ => false
    let mail (n : Nat) : State → State := inTeam fun t => { t with mbs := vmod t.mbs 7 fun _ => List.replicate n 1 }
    let post (v mb : Nat) : List Byte := leBytes v 2 ++ [BitVec.ofNat 8 mb, 0, 0, 0, 0, 0] ++ leBytes 5 8
    let full (u : State) (c : Ctx) (v : BitVec 16) (mb : Nat) : Option Bool := (u.anyTeam? c.num v).map (·.mbFull mb)
    let sill (plen : Nat) : List Byte := (runDesc 3 plen 32).drop 24
    let waits (w : QWait) (ty : Nat) : Bool := slotRead (packed (pkt ty []) (fun x => { x with wait := some w }) ready) fun _ _ _ x _ => x.wait == some w
    let work (e : Bool) (rel at_ : Nat) (code : BitVec 8) (a : Nat) : State := { withQueue (devQueue 0 1) ready with works := [⟨4, 0, 5, 0, .copy, a, 3, rel, e, code, at_, false, .todo⟩], operand := { n := 4 } }
    let signalled (s : State) (p : Work → Queue → Bool) : Bool := s.partsOut (.queue 4) == false && (s.works.find? (·.id = 4)).any fun w => (s.ctx? w.ctx).any fun c => let x := s.queueNow c 5; x.slot.isSome && x.latched && w.sig == .todo && p w x
    let runOf (k : Nat) (o : SillOrigin) : SillRun := { placedRun 0 with id := k, stage := .ending, origin := o }
    (([(0, 0x600000, 0, 0), (0, 0x600000, 2 ^ 40 + 1, 0), (0, 0x600000, 1, 1024), (0x600000, 0x600000, 1, 0), (0x600000, 0x60003F, 64, 0)] : List (Nat × Nat × Nat × Nat)).all fun x => due 4 (copyp x.1 x.2.1 x.2.2.1 x.2.2.2) id fun _ _ _ b => badCopy b) = true ∧
    (([(0x600000, 0x600040, 64, 0), (0, 0, 2 ^ 40, 32768 + 1023)] : List (Nat × Nat × Nat × Nat)).all fun x => due 4 (copyp x.1 x.2.1 x.2.2.1 x.2.2.2) id fun _ _ _ b => !badCopy b) = true ∧
    (due 5 (sig 4 0 0) id fun _ _ _ b => decide (fld b 24 8 % 8 ≠ 0)) = true ∧ (due 5 (sig 8 0 4) id fun _ _ _ b => decide (3 < fld b 40 1)) = true ∧ (due 5 (sig 0 0 3) id fun _ _ _ b => decide (fld b 24 8 = 0 ∧ fld b 41 87 = 0)) = true ∧
    (reads 0 0 true && reads 0 1 false && reads 1 0 true && reads 1 1 false && reads 2 1 true && reads 2 0 false && reads 3 1 true && reads 0 (-1) true && reads 3 0 false) = true ∧
    (due 5 (sig memTop 0 0) id fun u c _ _ => okAnd (u.readSpan ⟨c.num, none, none, none⟩ memTop 8 .read) fun _ g => g == .prot) = true ∧
    waits (.signal 8 0 3 0) 5 = true ∧ waits (.mailbox 0 7 1) 6 = true ∧
    (due 6 (post 9 0) id fun u c _ _ => full u c 9 0 == none) = true ∧ (due 6 (post 0 7) (mail 8) fun u c _ _ => full u c 0 7 == some true) = true ∧ (due 6 (post 0 7) (mail 7) fun u c _ b => full u c 0 7 == some false && fld b 26 1 == 7) = true ∧
    (due 6 (post 0 8) id fun _ _ _ b => decide (8 ≤ fld b 26 1)) = true ∧
    (due 3 (sill 0) id fun u c _ b => okAnd (u.checkRun ⟨c.num, none, none, none⟩ ⟨b⟩) fun _ r => r == .fail 3) = true ∧
    (due 3 (sill 64) (withRuns 31) fun u c _ b => okAnd (u.checkRun ⟨c.num, none, none, none⟩ ⟨b⟩) fun v r => decide ((v.stack 0).queue.length < 32) && match r with | .ok _ ps => ps == [(0x600000, 0x600000)] | _ => false) = true ∧
    (due 3 (sill 1) (withRuns 32) fun u c _ b => okAnd (u.checkRun ⟨c.num, none, none, none⟩ ⟨b⟩) fun v r => decide (32 ≤ (v.stack 0).queue.length) && match r with | .ok _ ps => ps == [(0x600000, 0x600000)] | _ => false) = true ∧
    signalled (work false 0 0 0 0) (fun w _ => !w.ended) = true ∧ signalled (work true 1 1 0 0) (fun w _ => decide (w.rel ≠ 0 ∧ ready.time < w.relTime)) = true ∧
    signalled (work true 1 0 0 0) (fun w _ => decide (w.sigaddr = 0 ∧ w.code = 0 ∧ w.relTime ≤ ready.time)) = true ∧
    (let s := work true 0 0 0 0; let r := runOf 7 (.packet 4); signalled { s with runs := [r] } fun w _ => w.sigaddr == 0 && w.code == 0 && r.stage == .ending && r.origin == .packet w.id) = true ∧
    (let s := work true 0 0 0 0; ({ s with works := s.works.map fun w => { w with sig := .out } } : State).works.any (·.sig == .out)) = true ∧
    (work true 0 0 0 0).runs = [] ∧ ({ ready with grids := [{ placedGrid with origin := .queue 4, ended := true, parts := [⟨1, true, []⟩] }] } : State).partsOut (.queue 4) = true ∧
    (let s := withQueue { devQueue 0 1 with progress := 1 } (work true 0 0 6 0); signalled s fun w x => decide (w.sigaddr = 0 ∧ w.code ≠ 0 ∧ x.progress = w.counter + 1 ∧ x.error = false)) = true ∧
    signalled (work true 0 0 0 0x600008) (fun w _ => decide (w.sigaddr ≠ 0 ∧ w.sigaddr < 2 ^ 57 ∧ w.noSignal = false) && (ready.place ⟨w.ctx, none, none, none⟩ w.sigaddr .both).2 == .here 0x600008 false && ready.runs == [] && ready.poison == [] && ready.l2bad == []) = true := by
  decide +kernel

/-! ### Task graphs and system copies (R64, R115 to R118) -/

/-- A node of a graph in memory (R115). -/
def nodeOf (kind npred body : Nat) (succ : List Nat) : List Byte :=
  [BitVec.ofNat 8 kind, 0] ++ leBytes npred 2 ++ leBytes 0 4 ++ leBytes body 8 ++ leBytes succ.length 2 ++ (let b := succ.flatMap fun k => leBytes k 2; b ++ List.replicate (46 - b.length) 0)

def graphOf (a n : Nat) : List Byte := pkt 2 (leBytes a 8 ++ leBytes n 4)

/-- Graph packets with each field that is refused, of nodes that cannot be read, with a bad node, a wrong count of edges and an edge to itself, with a body that fails its checks, and one that is taken. -/
theorem witness_graph_packets :
    let due (p : List Byte) (m : List Byte) (f : State → Ctx → List Byte → Bool) : Bool := slotRead (packed p id (coded (withMem 0x600000 m ready))) fun u c q x b => packetAs 2 u c q x b && (decide (u.ctx? c.num = some c) && b.length == 128 && f u c b)
    let names (p : List Byte) : Bool := decide (fld p 24 8 % 64 = 0 ∧ 1 ≤ fld p 32 4 ∧ fld p 32 4 ≤ 4096)
    let read (u : State) (c : Ctx) (a n : Nat) (f : State → List (NodeDesc × Pkt) → Bool) : Bool := okAnd (u.fetchNodes c a n) fun v r => decide (v.ctxs = u.ctxs ∧ v.works = u.works) && match r with
      | .ok ns => f v ns
      | .fail _ => false
    let nodes (m : List Byte) (n : Nat) (f : State → Ctx → List (NodeDesc × Pkt) → Bool) : Bool := due (graphOf 0x600000 n) m fun u c p => names p && fld p 36 92 == 0 && read u c 0x600000 n fun r _ => read (r.dropStage 0) c 0x600000 n fun v ns => f v c ns
    let edges (ds : List NodeDesc) (k : Nat) : Nat := (ds.map fun d => ((List.range (fld d.raw 16 2)).filter fun j => fld d.raw (18 + 2 * j) 2 = k).length).sum
    let sound (n : Nat) (ds : List NodeDesc) : Bool := ds.all (·.ok n) && (List.range ds.length).all fun k => fld (ds.getD k ⟨[]⟩).raw 2 2 == edges ds k
    (([graphOf 0x600020 1, graphOf 0x600000 0, graphOf 0x600000 4097] : List (List Byte)).all fun p => due p [] fun _ _ b => !names b) = true ∧
    due (pkt 2 (leBytes 0x600000 8 ++ leBytes 1 4 ++ [1])) (nodeOf 2 0 0 []) (fun u c p => names p && fld p 36 92 != 0 && read u c 0x600000 1 fun _ _ => true) = true ∧
    due (graphOf memTop 1) [] (fun u c p => names p && okAnd (u.fetchNodes c memTop 1) fun v r => decide (v.ctxs = u.ctxs) && match r with | .fail e => e == 6 | .ok _ => false) = true ∧
    nodes (nodeOf 3 0 0 []) 1 (fun _ _ ns => (ns.map (·.1)).any fun d => !d.ok 1) = true ∧ nodes (nodeOf 2 0 0 [1] ++ nodeOf 2 0 0 []) 2 (fun _ _ ns => let ds := ns.map (·.1); ds.all (·.ok 2) && fld (ds.getD 1 ⟨[]⟩).raw 2 2 != edges ds 1) = true ∧
    nodes (nodeOf 2 1 0 [0]) 1 (fun _ _ ns => let ds := ns.map (·.1); ds.all (·.ok 1) && fld (ds.getD 0 ⟨[]⟩).raw 18 2 == 0 && fld (ds.getD 0 ⟨[]⟩).raw 16 2 == 1) = true ∧
    nodes (nodeOf 2 0 0 [1] ++ nodeOf 0 1 0x700000 []) 2 (fun v c ns => sound 2 (ns.map (·.1)) && !cyclic (ns.map (·.1)) && okAnd ((v.dropStage 0).bodiesCheck c ns) fun w e => e != 0 && decide (w.ctxs = v.ctxs)) = true ∧
    nodes (nodeOf 2 0 0 [1] ++ nodeOf 2 1 0 []) 2 (fun v c ns => sound 2 (ns.map (·.1)) && !cyclic (ns.map (·.1)) && okAnd ((v.dropStage 0).bodiesCheck c ns) fun w e => e == 0 && decide (w.ctxs = v.ctxs)) = true := by
  decide +kernel

/-- Graph 4 with its nodes at 0x600000, and a node that its event names. -/
def inNode (k : Nat) (ns : List Node) (s : State) : State := { s with graphs := [⟨4, 0, 4, 0x600000, ns, none⟩], operand := { n := 4, k := k } }
def node (kind body : Nat) : Node := ⟨kind, 0, 0, body, [], 0, 0, 0, false, false, 0, 0, .todo, false⟩

/-- A launch body that is checked keeps the state. -/
theorem bodyCheck_launch {s : State} {c : Ctx} {p : Pkt} (h : bodyHeaderOk c 0 p = true) : s.bodyCheck c 0 p = .ok s (s.launchCheck c.num p) := by
  simp [State.bodyCheck, h]

/-- Nodes that are empty, that have started, with a body that fails, and with a launch that may start; nodes that have not ended, that have with a successor, that failed beside one at work, and that are the last. -/
theorem witness_nodes :
    let at_ (s : State) (f : Graph → Node → Ctx → Bool) : Bool := (s.graphs.find? (·.id = s.operand.n)).any fun g => (g.nodes[s.operand.k]?).any fun n => (s.ctx? g.ctx).any (f g n)
    let starts (g : Graph) (n : Node) : Bool := !n.started && n.left == 0 && g.failed.isNone
    let fetched (s : State) (f : State → Graph → Node → Ctx → List Byte → Bool) : Bool := at_ s fun g n c => starts g n && okAnd (s.fetchSpan c n.body 128) fun v b => match b with
      | .ok b => decide (v.graphs = s.graphs) && b.length == 128 && f (v.dropStage 0) g n c b
      | .fail _ => false
    let placed (s : State) : Bool := (s.place ⟨0, none, none, none⟩ (0x600000 + 48) .write).2 == .here 0x600030 false && s.runs == []
    let ends_ (code : BitVec 8) (succ : List Nat) : Node := { node 2 0 with started := true, ended := true, code := code, succ := succ }
    let ends (n : Node) : Bool := decide (n.ended = true ∧ n.completed = false ∧ n.rel = 0 ∧ n.sigaddr = 0 ∧ n.sig = .todo) && !ready.partsOut (.node 4 0)
    let other : Node := { node 2 0 with left := 1 }
    at_ (inNode 0 [node 2 0] ready) (fun g n _ => starts g n && n.kind == 2) = true ∧ at_ (inNode 0 [{ node 2 0 with started := true }] ready) (fun _ n _ => n.started) = true ∧
    fetched (inNode 0 [node 0 0x700000] ready) (fun u _ n c b => n.kind == 0 && okAnd ((u.swapAll c.num).bodyCheck c 0 ⟨b⟩) fun w e => e != 0 && w.graphs == u.graphs) = true ∧
    fetched (inNode 0 [node 0 0x700000] (coded (withMem 0x700000 (launchOf 1 14 4 1) ready))) (fun u _ n c b => let w := u.swapAll c.num
      n.kind == 0 && bodyHeaderOk c 0 ⟨b⟩ && w.launchCheck c.num ⟨b⟩ == 0 && w.freeSlot == some 0x900000 && w.graphs == u.graphs && (w.ctx? c.num).any fun d => (d.bind? (fld b 24 8) ((fld b 41 1).testBit 2)).isSome) = true ∧
    at_ (inNode 0 [{ node 2 0 with started := true }] ready) (fun _ n _ => !n.ended) = true ∧ at_ (inNode 0 [{ node 2 0 with started := true, ended := true, sig := .out }] ready) (fun _ n _ => n.sig == .out) = true ∧
    ({ ready with grids := [{ placedGrid with origin := .node 4 0, ended := true, parts := [⟨1, true, []⟩] }] } : State).partsOut (.node 4 0) = true ∧
    (at_ (inNode 0 [ends_ 0 [1], other] ready) (fun g n _ => ends n && decide (g.addr + 56 ≤ 2 ^ 57 ∧ n.code = 0 ∧ g.failed = none) && g.nodes.any fun m => decide (m ≠ n ∧ m.completed = false)) && placed (inNode 0 [ends_ 0 [1], other] ready)) = true ∧
    at_ (inNode 0 [ends_ 6 [], { node 2 0 with started := true }] ready) (fun g n _ => ends n && n.code != 0 && (g.nodes[1]?).any fun m => m.started && !m.completed) = true ∧
    (let s : State := { inNode 0 [ends_ 0 []] ready with works := [⟨4, 0, 5, 0, .graph, 0, 0, 0, false, 0, 0, false, .todo⟩] }; at_ s fun g n _ => ends n && n.code == 0 && g.failed.isNone && (s.works.find? (·.id = g.work)).isSome) = true := by
  decide +kernel

/-- A body of a Sill run in lines that a run at work holds, so that reading it changes nothing. -/
def sillBody : List Byte := pkt 3 ((runDesc 3 1 32).drop 24)
def sillNode : State := inNode 0 [node 1 0x501000] { withMem 0x501000 sillBody ready with runs := [{ placedRun 0 with rbase := 0x500000, rlen := 65536, pages := [(0x500000, 0x500000)] }] }

set_option maxRecDepth 20000 in
theorem witness_sill_node : ∃ g n c, NodeDue sillNode g 0 n c ∧ n.kind = 1 ∧ sillNode.fetchSpan c n.body 128 = .ok sillNode (.ok sillBody) ∧ bodyHeaderOk c 1 ⟨sillBody⟩ = true ∧
    (sillNode.dropStage 0).checkRun ⟨c.num, none, none, none⟩ ⟨sillBody⟩ = .ok (sillNode.dropStage 0) (.ok [0] [(0x600000, 0x600000)]) ∧ (sillNode.dropStage 0).graphs = sillNode.graphs ∧ ∀ i < 12, ((sillNode.dropStage 0).stack i).queue.length < 32 :=
  ⟨_, _, _, ⟨rfl, rfl, rfl, rfl, rfl, rfl, rfl⟩, rfl, by rfl, by decide +kernel, by rfl, rfl, by decide +kernel⟩

/-- A system copy to move, one whose requests are out, one that wrote to lines that a run holds, and one that is over, sound and failed. -/
theorem witness_system_copies :
    let at_ (y : SysCopy) (f : State → State) (p : State → SysCopy → Bool) : Bool := let s := f { ready with sysCopies := [y], operand := { n := 2 }, works := [⟨4, 0, 5, 0, .copy, 0, 0, 0, false, 0, 0, false, .todo⟩] }; (s.sysCopies.find? (·.id = s.operand.n)).any (p s)
    let copy : SysCopy := ⟨2, 0, 4, 0, 65536, memTop - 64, 64, none, false, [], 0, false, 0, []⟩
    at_ copy id (fun s c => decide (c.moved = false ∧ c.ctx = 0 ∧ c.remote = none ∧ 65536 ≤ c.src ∧ 65536 ≤ c.dst ∧ c.src + c.len ≤ memTop ∧ c.dst + c.len ≤ memTop ∧ c.src + c.len ≤ c.dst ∧ s.runs = [] ∧ s.poison = [] ∧ s.l2bad = [])) = true ∧
    at_ { copy with moved := true, out := 1 } id (fun _ c => c.moved && c.rest == [] && c.out != 0) = true ∧ at_ { copy with moved := true, held := [0x300000] } (fun s => { s with runs := [placedRun 0] }) (fun s c => c.moved && c.rest == [] && c.held.any s.held) = true ∧
    (([true, false] : List Bool).all fun b => at_ { copy with moved := true, failed := b } id fun s c => c.moved && c.rest == [] && c.out == 0 && !c.held.any s.held && (s.works.find? (·.id = c.work)).any (·.code == 0)) = true := by
  decide +kernel

/-! ### Contexts and code images (R40 to R44, R48, R67, R84, R87) -/

/-- A context-control packet (R67). -/
def ctl (op n q h a : Nat) : List Byte := pkt 7 ([BitVec.ofNat 8 op, BitVec.ofNat 8 n, BitVec.ofNat 8 q, BitVec.ofNat 8 h, 0, 0, 0, 0] ++ leBytes a 8)

theorem leNat_zeros (n : Nat) : leNat (List.replicate n (0 : Byte)) = 0 := by
  induction n with
  | zero => rfl
  | succ n ih =>
    rw [List.replicate_succ]
    show (0 : Byte).toNat + 256 * leNat (List.replicate n 0) = 0
    rw [ih]
    rfl

theorem fld_zeros (n o k : Nat) : fld (List.replicate n 0) o k = 0 := by
  unfold fld
  rw [List.drop_replicate, List.take_replicate]
  exact leNat_zeros _

theorem page_good : PageGood (List.replicate 4096 0) := by
  unfold PageGood
  simp only [List.drop_replicate, fld_zeros]
  decide

theorem page_bad : ¬ PageGood (List.replicate 576 0 ++ [1]) := fun h => absurd h.2.2.2.2.2.1 (by decide +kernel)

/-- Descriptors with uncorrectable data; operations that are not listed and with a reserved byte; pages out of place, and in place for a context that stands and for one that does not; contexts to destroy that stand in each way; queues to map that are absent, bad, mapped and free, at both ends of the slots; queues to unmap that are the bootstrap queue, not mapped, and mapped. -/
theorem witness_context_packets :
    let due (p : List Byte) (f : State → State) (g : State → Nat → List Byte → Bool) : Bool := slotRead (packed p id (f ready)) fun u c q x b => packetAs 7 u c q x b && (decide (c.num = 0 ∧ u.ctx? 0 = some c) && b.length == 128 && g u q b)
    let free (b : List Byte) : Bool := decide (fld b 28 4 = 0 ∧ fld b 40 88 = 0)
    let two (f : Ctx → Ctx) (s : State) : State := { s with ctxs := s.ctxs ++ [f { Ctx.system with num := 1, desc := 0x600000, queues := Vector.replicate 16 Queue.absent }] }
    let mapped (h : Nat) (c : Ctx) : Ctx := { c with queues := vmod c.queues 15 fun _ => { devQueue 0 0 with slot := some h } }
    let qd (s : State) : State := withMem (0x600000 + 64 + 32 * 15) (leBytes 0x800000 8 ++ [16#8, 1#8]) s
    let d (u : State) : List Byte := memRead u.mem (0x600000 + 64 + 32 * 15) 32
    let clean (u : State) : Bool := u.poison == [] && u.l2bad == []
    let good (u : State) : Bool := decide (fld (d u) 0 8 ≠ 0 ∧ fld (d u) 0 8 % 4096 = 0 ∧ 4 ≤ fld (d u) 8 1 ∧ fld (d u) 8 1 ≤ 16 ∧ fld (d u) 9 1 ≤ 1 ∧ fld (d u) 10 6 = 0)
    let slot (u : State) (n : BitVec 8) (k : Nat) : Option Nat := (u.ctx? n).bind fun y => (y.queues.getD k Queue.absent).slot
    let taken (u : State) (h : Nat) : Bool := u.ctxs.any fun z => (List.range 16).any fun j => decide ((z.queues.getD j Queue.absent).slot = some h)
    (([(1, ctl 1 1 0 0 0x700000), (3, ctl 3 1 15 63 0)] : List (Nat × List Byte)).all fun x => due x.2 (fun s => { two id s with poison := [(if x.1 = 1 then 0x700000 else 0x600000 + 64 + 32 * 15) / 32] }) fun u _ b => free b && fld b 24 1 == x.1 && (u.bad (if x.1 = 1 then 0x700000 else 0x600000 + 64 + 32 * 15) (if x.1 = 1 then 4096 else 32))) = true ∧
    (([0, 5, 255] : List Nat).all fun op => due (ctl op 1 0 0 0) id fun _ _ b => free b && fld b 24 1 == op) = true ∧ (([1, 2, 3, 4] : List Nat).all fun op => due (pkt 7 [BitVec.ofNat 8 op, 0, 0, 0, 1]) id fun u _ b => decide (fld b 28 4 ≠ 0) && u.poison == [] && u.l2bad == []) = true ∧
    (([0x700800, 0x8000, memTop] : List Nat).all fun a => due (ctl 1 1 0 0 a) id fun _ _ b => free b && decide (¬ (fld b 32 8 % 4096 = 0 ∧ 65536 ≤ fld b 32 8 ∧ fld b 32 8 < memTop))) = true ∧
    due (ctl 1 1 0 0 0x700000) (two id) (fun u _ b => free b && u.poison == [] && u.l2bad == [] && (u.ctx? 1).isSome) = true ∧ due (ctl 1 255 0 0 0x700000) id (fun u _ b => free b && u.poison == [] && u.l2bad == [] && (u.ctx? 255).isNone && decide (0x700000 % 4096 = 0)) = true ∧
    due (ctl 2 0 0 0 0) id (fun _ _ b => free b && fld b 25 1 == 0) = true ∧ due (ctl 2 1 0 0 0) id (fun u _ _ => (u.ctx? 1).isNone) = true ∧ due (ctl 2 1 0 0 0) (two (mapped 9)) (fun u _ b => free b && slot u 1 15 == some 9) = true ∧
    due (ctl 2 1 0 0 0) (two id) (fun u _ b => free b && (u.ctx? 1).isSome && (List.range 16).all fun k => slot u 1 k == none) = true ∧
    due (ctl 3 1 15 63 0) id (fun u _ b => free b && (u.ctx? 1).isNone) = true ∧ due (ctl 3 1 16 63 0) (two id) (fun _ _ b => free b && fld b 26 1 == 16) = true ∧ due (ctl 3 1 15 63 0) (two id) (fun u _ b => free b && clean u && fld (d u) 0 8 == 0) = true ∧
    due (ctl 3 1 15 63 0) (fun s => withMem (0x600000 + 64 + 32 * 15) [1#8] (two id s)) (fun u _ b => free b && clean u && fld (d u) 0 8 != 0 && !good u) = true ∧
    due (ctl 3 1 15 9 0) (fun s => qd (two (mapped 9) s)) (fun u _ b => free b && clean u && good u && slot u 1 15 == some 9) = true ∧ (([0, 64, 1] : List Nat).all fun h => due (ctl 3 1 15 h 0) (fun s => qd (two id s)) fun u _ b => free b && clean u && good u && decide (¬ (1 ≤ h ∧ h ≤ 63) ∨ taken u h = true)) = true ∧
    (([2, 63] : List Nat).all fun h => due (ctl 3 1 15 h 0) (fun s => qd (two id s)) fun u _ b => free b && clean u && good u && slot u 1 15 == none && !taken u h) = true ∧
    due (ctl 4 0 0 0 0) id (fun _ _ b => free b && fld b 25 1 == 0 && fld b 26 1 == 0) = true ∧ due (ctl 4 1 15 0 0) (two id) (fun u _ b => free b && slot u 1 15 == none && (u.ctx? 1).isSome) = true ∧
    due (ctl 4 1 15 0 0) (two (mapped 9)) (fun u q b => free b && slot u 1 15 == some 9 && u.runs == [] && q == 5) = true := by
  decide +kernel

/-- CODE_SWAP of an entry without SWAP, with grids bound to its previous image, and with neither. -/
theorem witness_code_swap :
    let at_ (swap : Byte) (f : CodeEntry → CodeEntry) (p : CodeEntry → Nat → Bool) : Bool := let s : State := { withMem (0x4000 + 1024 + 64 * 47 + 15) [swap] ready with ctxs := ready.ctxs.map (fun c => { c with code := vmod c.code 47 f }), operand := { ctx := 0, k := 47 } }
      s.runs == [] && (s.ctx? s.operand.ctx).any fun c => !s.bad (c.desc + 1024 + 64 * 47) 64 && p (c.code.getD 47 .empty) (fld (memRead s.mem (c.desc + 1024 + 64 * 47) 64) 15 1)
    at_ 0 id (fun _ n => n % 2 == 0) = true ∧ at_ 1 (fun e => { e with plive := 1 }) (fun e n => n == 1 && e.plive != 0) = true ∧ at_ 1 id (fun e n => n == 1 && e.plive == 0) = true := by
  decide +kernel

/-! ### The distributor (R95 to R103, R108, R111) -/

/-- A condition on every rectangle of a die, as a test. -/
def noRect (s : State) (b : Bent) (d : Nat) (p : Nat → Bool) : Bool :=
  (List.range 9).all fun x => (List.range 9).all fun y => !(decide (x + (bentDims s b).1 ≤ 8 ∧ y + (bentDims s b).2 ≤ 8) && p (64 * d + 8 * y + x))

theorem noRect_is {s : State} {b : Bent} {d : Nat} {p : Nat → Bool} (h : noRect s b d p = true) : NoRect s b d fun a => p a = true := by
  intro x y hx0 hy0 hp0
  have hx : x + (bentDims s b).1 ≤ 8 := hx0
  have hy : y + (bentDims s b).2 ≤ 8 := hy0
  have hp : p (64 * d + 8 * y + x) = true := hp0
  have := List.all_eq_true.mp (List.all_eq_true.mp h x (List.mem_range.mpr (by omega))) y (List.mem_range.mpr (by omega))
  simp only [hx, hy, and_self, decide_true, hp, Bool.and_self, Bool.not_true, Bool.false_eq_true] at this

/-- The rectangle at the first place of a die is the first that satisfies a condition. -/
theorem firstRect_is {s : State} {b : Bent} {d : Nat} {p : Nat → Bool} (h : (decide ((bentDims s b).1 ≤ 8 ∧ (bentDims s b).2 ≤ 8) && p (64 * d)) = true) : FirstRect s b d (64 * d) fun a => p a = true := by
  simp only [Bool.and_eq_true, decide_eq_true_eq] at h
  have h1 : 0 + (bentDims s b).1 ≤ 8 := by omega
  have h2 : 0 + (bentDims s b).2 ≤ 8 := by omega
  exact ⟨0, 0, h1, h2, by omega, h.2, fun x' y' _ _ hl => absurd hl (by omega)⟩

theorem noneQuarantined_is {s : State} {b : Bent} {a : Nat} : noneQuarantined s b a ↔ ((rectCores a (bentDims s b).1 (bentDims s b).2).all fun c => !s.root.quarCores.contains c) = true := by
  simp [noneQuarantined]

/-- Whether the bytes of every bent entry stand as the distributor wrote them, as a test. -/
def written (s : State) : Bool := s.bents.map (·.asWritten s) == s.bents

theorem written_is {s : State} (h : written s = true) : EntriesStand s := by
  unfold EntriesStand State.readEntries
  rw [beq_iff_eq.mp h]

/-- A launch record of the placed program's grid: its packet, and how many bents it has. -/
def recorded (bents : Nat) (s : State) : State := withMem (placedRecord + 200) (leBytes bents 8) (withMem placedRecord (launchOf bents 1 4 1) s)

/-- The placed grid's bents as they are given, none of them resident, as an event's operand names one. -/
def distributing (bs : List Bent) (f : State → State) : State :=
  f { recorded 2 ready with bents := bs, teams := [], operand := { n := 1 } }
def bentIn (id : Nat) (st : BentState) : Bent := { placedBent with id := id, st := st }

/-- A grid that has ended, and one of a context without queues and teams; a saved bent, one that waits, and no bent with and without a free entry; a hold of lower priority on the die that ranks first. -/
theorem witness_bent_requests :
    let rec_ (s : State) : State := { s with dcb := { s.dcb with lrbase := 0x900000, lrlen := 1 }, operand := { n := placedRecord } }
    let at_ (bs : List Bent) (f : State → State) (p : State → Grid → List Bent → Bool) : Bool := let s := rec_ (distributing bs f); written s && (s.grid? s.operand.n).any fun g => p s g (s.bents.filter (·.record = g.record))
    let back (b : Bent) : Bool := decide (b.st = .saved) && (!b.yielded || b.saved.any (·.stirred))
    let active (s : State) (g : Grid) : Bool := ((s.ctx? g.ctx).any fun c => (List.range 16).any fun k => (c.queues.getD k Queue.absent).slot.isSome) || s.teams.any fun t => t.ctx = g.ctx
    let apart (s : State) (g : Grid) : Bool := s.bents.all fun o => o.entry.all fun e => decide (e + 16 ≤ g.record ∨ g.record + 512 ≤ e)
    let next (s : State) (g : Grid) : Nat := fld (memRead s.mem g.record 512) 184 8
    at_ [] (fun s => { s with grids := [{ placedGrid with ended := true }] }) (fun _ g _ => g.ended) = true ∧ at_ [] (fun s => { s with grids := [{ placedGrid with failed := true }] }) (fun _ g _ => g.failed) = true ∧ at_ [] (fun s => { s with grids := [{ placedGrid with ctx := 7 }] }) (fun s g _ => !g.ended && !active s g) = true ∧
    at_ [bentIn 3 .wait, bentIn 2 .saved] id (fun s g m => !g.ended && !g.failed && active s g && (m.find? back).any (fun b => decide (s.bent? b.id = some b)) && apart s g) = true ∧
    at_ [{ bentIn 2 .saved with yielded := true }, { bentIn 3 .wait with entry := some 0x900000 }] (withMem 0x900000 (leBytes (2 ^ 50 * BentState.code .wait) 8)) (fun s g m => active s g && (m.find? back).isNone && (m.find? (·.st = .wait)).any (fun b => decide (s.bent? b.id = some b)) && apart s g) = true ∧
    at_ [] (fun s => recorded 0 s) (fun s g _ => active s g && decide (fld (memRead s.mem g.record 512) 200 8 ≤ next s g)) = true ∧
    at_ [bentIn 1 .run] id (fun s g m => active s g && (m.find? back).isNone && (m.find? (·.st = .wait)).isNone && decide (next s g < fld (memRead s.mem g.record 512) 200 8) && s.freeEntry == some 0x900000 && s.bents.all (fun o => decide (o.id ≠ s.nextId) || s.nextId == 1) && s.runs == [] && apart s g) = true ∧
    at_ [{ bentIn 9 .rsv with record := 0x30000 }] (fun s => { s with grids := [{ placedGrid with prio := 3 }, { placedGrid with record := 0x30000 }], dieHolds := vmod s.dieHolds 0 fun _ => some 9 }) (fun s g m => active s g && m == [] && s.freeEntry == some 0x900000 &&
      (s.rankDies g.record).head? == some 0 && (s.bent? 9).any fun o => decide (s.prioOf o < g.prio)) = true := by
  decide +kernel

/-- Requests: one behind another that can be granted; one whose die that ranks first takes it; one that no rectangle of any die takes, which holds a die or finds none; and a hold that may not commit and one that may. -/
theorem witness_request_grants :
    let kept (n : Nat) : Bent := { bentIn 1 .req with saved := ready.teams.map fun t => { t with keptConvs := List.replicate n ⟨0, 0, 0, 1, 0, []⟩ } }
    let b := bentIn 1 .req
    let takes (s : State) (b : Bent) (a : Nat) : Bool := s.rectTakes b (s.prioOf b) a
    let whole (s : State) (b : Bent) (a : Nat) : Bool := (rectCores a (bentDims s b).1 (bentDims s b).2).all fun c => !s.root.quarCores.contains c
    let alone (s : State) (b : Bent) : Bool := decide (s.requests.find? (·.id = s.operand.n) = some b ∧ s.bent? b.id = some b) && written s && (s.requests.takeWhile (·.id ≠ b.id)).isEmpty
    let sized (s : State) (b : Bent) : Bool := decide ((bentDims s b).1 ≤ 8 ∧ (bentDims s b).2 ≤ 8)
    let s2 := distributing [bentIn 0 .req, b] id
    let s1 := distributing [b] id
    let s3 := withMem (placedRecord + 38) [8, 8] (distributing [kept 17] id)
    let s4 := withMem (placedRecord + 38) [8, 8] <| distributing [kept 17] fun s => { s with dieHolds := Vector.replicate 4 (some 8) }
    let h (st : BentState) := distributing [{ bentIn 1 st with anchor := 64 }] fun s => { s with dieHolds := vmod s.dieHolds 1 fun _ => some 1 }
    ((s2.requests.takeWhile (·.id ≠ 1)).any fun o => (s2.tryGrant o).isSome) = true ∧ (s2.requests.find? (·.id = 1)).isSome = true ∧ written s2 = true ∧
    alone s1 b = true ∧ (s1.rankDies b.record).head? = some 0 ∧ (sized s1 b && takes s1 b 0) = true ∧ s1.stacksOk 0 b = true ∧
    alone s3 (kept 17) = true ∧ s3.rankDies b.record = [0, 1, 2, 3] ∧ ([0, 1, 2, 3].all fun d => noRect s3 (kept 17) d (takes s3 (kept 17))) = true ∧ s3.dieHolds.getD 0 none = none ∧ (sized s3 (kept 17) && whole s3 (kept 17) 0) = true ∧
    alone s4 (kept 17) = true ∧ ([0, 1, 2, 3].all fun d => noRect s4 (kept 17) d (takes s4 (kept 17)) && (s4.dieHolds.getD d none).isSome) = true ∧
    (let s := { h .req with operand := { n := 1 } }; written s = true ∧ s.dieHolds.getD 1 none = some 1 ∧ (s.bent? 1).any (fun b => decide (b.st ≠ .rsv) && (s.grid? b.record).isSome) = true) ∧
    (let s := { h .rsv with operand := { n := 1 } }; written s = true ∧ s.dieHolds.getD 1 none = some 1 ∧ (s.bent? 1).any (fun b => decide (b.st = .rsv) && takes s b 64 && (s.grid? b.record).any fun g => s.stacksOk g.ctx b) = true) := by
  decide +kernel

theorem leastNot_none (p : Nat → Bool) : ∀ n i, (∀ k, i ≤ k → k < i + n → p k = true) → leastNot p n i = none
  | 0, _, _ => rfl
  | n + 1, i, h => by
    unfold leastNot
    rw [if_pos (h i (Nat.le_refl i) (by omega))]
    exact leastNot_none p n (i + 1) fun k h1 h2 => h k (by omega) (by omega)

theorem lowestFree_none {used : List Nat} (h : ∀ k < 65536, used.contains k = true) : ∀ n, lowestFree used (n + 1) = none
  | n => by
    unfold lowestFree
    cases lowestFree used n with
    | none => rfl
    | some got => simp only; rw [leastNot_none]; intro k _ hk; rw [h k (by omega)]; rfl

/-- A fresh bent has no stack where its context has none left (R178). -/
theorem witness_no_stacks {s : State} {b : Bent} {n : Nat} (hb : b.saved = []) (hn : s.stackNeed b = n + 1) (hu : ∀ k < 65536, (s.stackUsed 0).contains k = true) : s.stacksOk 0 b = false := by
  unfold State.stacksOk
  rw [hb, hn, lowestFree_none hu]
  rfl

/-- Commits of a fresh bent of one team, of a saved one, of one that is not to commit and of one that is resident. -/
theorem witness_commits :
    let at_ (b : Bent) (f : State → State) (p : State → Bent → Bool) : Bool := let s := distributing [b] f; written s && (s.bent? s.operand.n).any (p s)
    let resident (s : State) : State := { s with teams := ready.teams.map fun t => { t with bent := 1 } }
    at_ (bentIn 1 .cmt) id (fun s b => decide (b.st = .cmt ∧ b.saved = []) && s.teams.all (fun t => t.bent ≠ b.id) && (s.grid? b.record).any fun g =>
      lowestFree (s.idsUsed g.ctx) ((bentDims s b).1 * (bentDims s b).2) == some [0] && lowestFree (s.stackUsed g.ctx) ((bentDims s b).1 * (bentDims s b).2 * (roleOfGidx (launchRoles (memRead s.mem b.record 512))).length) == some [0]) = true ∧
    at_ { bentIn 1 .cmt with saved := ready.teams } id (fun s b => decide (b.st = .cmt) && s.teams.all (fun t => t.bent ≠ b.id) && !b.saved.isEmpty && s.imageNow b == b.shot) = true ∧
    at_ { bentIn 1 .cmt with saved := ready.teams, image := some 2, shot := List.replicate 128 0 } (fun s => { s with dcb := { s.dcb with savebase := 0x10000000 } }) (fun s b => !b.saved.isEmpty && !b.shot.isEmpty && s.imageNow b == b.shot) = true ∧
    at_ (bentIn 1 .req) id (fun _ b => b.st != .cmt) = true ∧ at_ (bentIn 1 .cmt) resident (fun s b => s.teams.any (·.bent = b.id)) = true ∧
    at_ (bentIn 1 .cmt) (fun s => resident { s with root := { s.root with quarCores := [0] } }) (fun s b => b.doomed.isNone && s.teams.any (·.bent = b.id) && (rectCores b.anchor (bentDims s b).1 (bentDims s b).2).any (s.root.quarCores.contains ·)) = true ∧
    at_ { bentIn 1 .cmt with image := some 0 } resident (fun s b => b.image.isSome && s.teams.any (·.bent = b.id) && s.root.quarCores == []) = true ∧
    at_ (bentIn 1 .cmt) resident (fun s b => b.image.isNone && b.doomed.isNone && (s.teams.all fun m => m.waiters == [] && m.groups.all fun x => x.offers == 0) && s.preempt.isNone && s.root.quarCores == [] && s.teams.any fun t => decide (t.bent = b.id) && t.groups.any (!·.ended)) = true := by
  decide +kernel

/-- A spawn bin that is neither full nor over its time, that has no index free, and that is due with threads left over, and over its time with one. -/
theorem witness_spawn_bins :
    let at_ (n since cycle : Nat) (f : Team → Team) (p : State → SpawnBin → Team → Bool) : Bool :=
      let s : State := { inTeam (fun t => f { t with nroles := 2, roles := [⟨1, 256, false⟩, ⟨1, 64, true⟩] }) (ready.modCore 255 fun c => { c with bins := vmod c.bins 15 fun _ => some ⟨0, 0, 1, 0x100100, List.replicate n since, List.replicate n 7⟩ }) with operand := { n := 255, k := 15 }, cycle := cycle }
      ((s.core 255).bins.getD 15 none).any fun b => (s.team? b.ctx b.vteam).any (p s b)
    let due (s : State) (b : SpawnBin) (m : Team) : Bool := decide ((if m.legacy then 16 else 32) ≤ b.args.length) || b.times.head?.any fun first => decide (first + s.dcb.sbtime ≤ s.cycle)
    let free (m : Team) (b : SpawnBin) (i : Nat) : Bool := decide ((roleOfGidx m.roles)[i]? = some b.role) && m.groups.all fun x => x.gidx ≠ i
    at_ 31 0 2047 id (fun s b m => !due s b m) = true ∧ at_ 31 0 2048 id (fun s b m => due s b m && free m b 1 && !free m b 0) = true ∧ at_ 33 0 0 id (fun s b m => due s b m && free m b 1 && !free m b 0) = true ∧
    at_ 16 0 0 (fun t => { t with legacy := true }) (fun s b m => due s b m && free m b 1) = true ∧
    at_ 32 0 0 (fun t => { t with groups := t.groups ++ t.groups.map fun g => { g with gidx := 1 } }) (fun s b m => due s b m && (roleOfGidx m.roles).length == 2 && !free m b 0 && !free m b 1) = true := by
  decide +kernel

/-! ### Pre-emption, yield and the control blocks (R104 to R108, R114, R190, R191, R268, R278 to R280) -/

/-- The placed team's bent as it runs in context 1, with a save area. -/
def victims (st : BentState) (len : Nat) : State :=
  let s := user []
  { s with bents := [bentIn 1 st], teams := s.teams.map (fun t => { t with bent := 1 }), grids := [{ placedGrid with ctx := 1 }], dcb := { s.dcb with savebase := 0x10000000, savelen := len } }

/-- PREQ while BUSY, with each bad field, without a bent to stop, with one and room for its image, and with one and too little. -/
theorem witness_preemption :
    let write (v : Nat) (s : State) : State := { s with operand := { v := BitVec.ofNat 64 v } }
    let bad (s : State) : Bool := let v := s.operand.v.toNat
      decide (2 ^ 23 ≤ v ∨ BitVec.ofNat 8 v = 0 ∨ s.ctx? (BitVec.ofNat 8 v) = none ∨ v / 256 % 512 = 0 ∨ v / 2 ^ 17 % 16 = 0)
    let good := 1 + 256 * 1 + 2 ^ 17 * 15
    let runs (s : State) : List Bent := s.bents.filter (fun b => b.st = .run)
    let held (s : State) : Bool := (List.range 4).all fun k => (s.dieHolds.getD k none).isNone
    let of1 (s : State) (b : Bent) : Bool := (s.grid? b.record).any (·.ctx == 1)
    (([2 ^ 23 + good, good - 1, good + 1, good - 256, 1 + 256] : List Nat).all fun v => bad (write v (victims .run 10))) = true ∧ bad (write good (victims .run 10)) = false ∧ (victims .run 10).dcb.busy = false ∧
    (([victims .run 10, victims .saved 10, victims .run 2, victims .run 0] : List State).all fun s => written (write good s)) = true ∧ (let s := write good (victims .saved 10); s.bents.all (fun b => b.st != .run && b.st != .cmt) && held s) = true ∧
    (let s := write good (victims .run 2); (runs s).length == 1 && (s.bents.all fun b => b.st != .cmt) && (runs s).all fun b => of1 s b && decide (s.bent? b.id = some b) && s.findRun (s.imageUnits b) == some 0 && s.imageUnits b ≤ s.dcb.savelen && held s && (15 : Nat).testBit b.die) = true ∧
    (let s := write good (victims .run 0); (runs s).length == 1 && (s.bents.all fun b => b.st != .cmt) && (runs s).all fun b => of1 s b && decide (s.dcb.savelen < s.imageUnits b) && held s) = true := by
  decide +kernel

/-- Control-block writes, by the state they find: with no image and no grid, and with both. -/
theorem witness_control_blocks : ready.saveRuns = [] ∧ ({ ready with saveRuns := [(0, 1)] } : State).saveRuns ≠ [] ∧ ready.grids ≠ [] ∧ State.reset.grids = [] ∧
    (let v := 4 + 256 * 20 + 65536 * 65535 + 3; v / 8 % 32 = 0 ∧ v / 8192 % 8 = 0 ∧ v < 2 ^ 32 ∧ 4 ≤ v / 256 % 32 ∧ v / 256 % 32 ≤ 20 ∧ 100 ≤ v / 65536) ∧
    (let v := 0x800000 + 16; v / 32 % 128 = 0 ∧ v < 2 ^ 48 ∧ 6 ≤ v % 32 ∧ v % 32 ≤ 16) := by
  decide +kernel

/-- A bent that is not saved, one whose team is not ready, one saved by yield, and the last one of a pre-emption. -/
theorem witness_bent_saves :
    let at_ (f : State → State) (p : State → Bent → Bool) : Bool := let s := f { victims .saving 4 with operand := { n := 1 }, bents := [{ bentIn 1 .saving with image := some 2 }] }; written s && (s.bent? s.operand.n).any (p s)
    let isReady (s : State) (b : Bent) : Bool := s.teams.all fun m => decide (m.bent ≠ b.id) || s.saveReady m
    let busy (s : State) : State := { s with teams := s.teams.map fun t => { t with groups := t.groups.map fun g => { g with acks := [⟨1, 0, 0, 1, true, 0, 5, none, [], false⟩] } } }
    let p : Preempt := ⟨1, 1, 15, 3, [1], []⟩
    (let s := victims .run 4; (s.bent? 1).any fun b => b.st != .saving) = true ∧ at_ busy (fun s b => !isReady s b) = true ∧
    at_ id (fun s b => decide (b.st = .saving) && isReady s b && b.image == some 2 && s.preempt.isNone && s.runs == [] && b.entry.isNone) = true ∧
    at_ (fun s => { s with preempt := some p }) (fun s b => decide (b.st = .saving) && isReady s b && (s.preempt.any fun p => p.selected == [b.id]) && s.bents.all fun o => o.st != .run && o.st != .cmt) = true := by
  decide +kernel

/-- No request, a request that no die takes beside a bent that may be yielded with a save area and without one, and a bent being saved; and a restored bent that is not to commit, that waits for its order or its engine, and that may run. -/
theorem witness_yield_and_restore :
    let resting (t : Team) : Team := { t with children := [placedRecord], groups := t.groups.map fun g => { g with strands := vmod g.strands 0 fun st => { st with state := .ended } } }
    let y (len : Nat) (bs : List Bent) : State := let s := withMem placedRecord (launchOf 1 1 4 1) (victims .run len)
      { s with bents := bentIn 1 .run :: bs, teams := s.teams.map resting, root := { s.root with quarCores := List.range 256 }, dieHolds := Vector.replicate 4 (some 7), operand := { ctx := 1 } }
    let waits (s : State) : Bool := written s && s.requests.any fun b => (s.grid? b.record).any (·.ctx == 1) && (s.tryGrant b).isNone
    let mine (s : State) (b : Bent) : Bool := (s.grid? b.record).any (·.ctx == 1)
    let at_ (b : Bent) (f : State → State) (p : State → Bent → Bool) : Bool := let s := f { victims .cmt 4 with operand := { n := 1 }, bents := [b] }; written s && (s.bent? s.operand.n).any (p s)
    let ordered (s : State) (b : Bent) : Bool := s.teams.all fun m => decide (m.bent ≠ b.id) || m.groups.all fun g => decide (g.wmax ≤ s.timeOf b.die ∧ g.omax ≤ s.timeOf b.die) && (List.range 16).all fun k => !(g.rt.getD k ⟨false, 0, 0⟩).valid || decide ((g.rt.getD k ⟨false, 0, 0⟩).time ≤ s.timeOf b.die)
    let room (s : State) : Bool := s.teams.all s.engineRoom
    let b : Bent := { bentIn 1 .cmt with image := some 2 }
    let late (s : State) : State := { s with teams := s.teams.map fun t => { t with groups := t.groups.map fun g => { g with wmax := 9 } } }
    let full (s : State) : State := withPasses 32 { s with teams := s.teams.map fun t => { t with keptRun := some (passOf 0) } }
    (y 4 []).requests = [] ∧ written (y 4 []) = true ∧ (let s := y 4 [bentIn 2 .req]; waits s && (s.bents.filter fun b => mine s b && s.yieldable b).map (·.id) == [1] && (s.bents.all fun b => b.st != .saving) && (s.bent? 1).any fun b => s.findRun (s.imageUnits b) == some 0 && decide (s.imageUnits b ≤ s.dcb.savelen)) = true ∧
    (let s := y 0 [bentIn 2 .req]; waits s && (s.bent? 1).any fun b => s.yieldable b && decide (s.dcb.savelen < s.imageUnits b)) = true ∧
    (let s := y 4 [bentIn 2 .req, { bentIn 3 .saving with yielded := true }]; waits s && s.bents.any fun b => mine s b && decide (b.st = .saving) && b.yielded) = true ∧
    at_ { b with st := .run } id (fun _ b => b.st != .cmt) = true ∧ at_ b late (fun s b => !ordered s b && s.teams.any (·.bent = b.id) && s.root.quarCores == []) = true ∧ at_ b full (fun s b => ordered s b && !room s && s.teams.any (·.bent = b.id)) = true ∧
    at_ b id (fun s b => b.image == some 2 && ordered s b && room s && b.doomed.isNone && (s.teams.all fun m => s.iverOk b s.teams m) && s.preempt.isNone && s.root.quarCores == [] && s.teams.any fun m => decide (m.bent = b.id) && m.groups.any (!·.ended)) = true := by
  decide +kernel

/-! ### Paging, hot lists and migration (R182 to R184, R189 to R194, R204 to R209) -/

theorem chain_walked {s : State} {va : Nat}
    (h : ((([0x400000, 0x401000, 0x402000, 0x403000] : List Nat).all fun a => fld (memRead s.mem a 8) 0 8 == a + 0x1001) && va == 0) = true) :
    TableChain s va 4 0x400000 0x404000 := by
  simp only [List.all_cons, List.all_nil, Bool.and_true, Bool.and_eq_true, beq_iff_eq] at h
  obtain ⟨⟨h1, h2, h3, h4⟩, rfl⟩ := h
  simp [TableChain, h1, h2, h3, h4, memTop]

def ring (base n : Nat) : Ring := ⟨base, 6, BitVec.ofNat 32 n, 0⟩

/-- A machine whose ring of die d holds one frame, and the tables of context 1. -/
def backed (e d f : Nat) (n : Nat) : State :=
  let s := withMem 0x500000 (leBytes f 8) (walked e)
  { s with mcb := { s.mcb with ft := vmod s.mcb.ft d fun _ => ring 0x500000 n }, operand := { ctx := 1, n := d } }

def frameGood (s : State) (d f : Nat) : Bool :=
  let r := s.mcb.ft.getD d Ring.absent
  decide (r.base ≠ 0 ∧ r.tail ≠ r.head ∧ f = oldestFrame s r ∧ f % 65536 = 0 ∧ 65536 ≤ f ∧ f < memTop ∧ dieOfPa f = d)

theorem frameGood_is {s : State} {d f : Nat} (h : frameGood s d f = true) : goodFrame s d f := by
  simp only [frameGood, decide_eq_true_eq] at h
  exact h

/-- An entry that is no anonymous page, and one that is, with a frame and without one; no touch to append, one without a ring, with room and without it; and a RESOLVE with reserved bits and with none. -/
theorem witness_page_requests :
    let chain (s : State) (e : Nat) : Bool := ((([0x400000, 0x401000, 0x402000, 0x403000] : List Nat).all fun a => fld (memRead s.mem a 8) 0 8 == a + 0x1001)) && s.operand.v == 0 && s.walkCache.getD 3 [] == [] && s.poison == [] && s.l2bad == [] && (s.ctx? 1).any (·.ptroot == 0x400000) &&
      decide (fld (memRead s.mem 0x404000 8) 0 8 = e ∧ (e % 8 = 4 → e / 256 % 2 ^ 40 * 256 % 65536 = 0)) && s.runs == []
    let high := 9 * 48 * 2 ^ 30 + 0x200000
    let touch (app : Bool) : Touch := ⟨1, 5, 0, 3, 64, true, app, 100⟩
    let asks (p : Ring) (ts : List Touch) : State := { ready with mcb := { ready.mcb with pr := p }, touches := vmod ready.touches 2 fun _ => ts, operand := { n := 2 } }
    let wants (s : State) : Option Touch := (s.touches.getD 2 []).find? fun p => p.first && !p.appended
    chain (backed 5 3 high 1) 5 = true ∧ (chain (backed 0xFC 3 high 1) 0xFC && frameGood (backed 0xFC 3 high 1) 3 high) = true ∧ chain (backed 4 3 high 0) 4 = true ∧ ((backed 4 3 high 0).mcb.ft.getD 3 Ring.absent).tail = 0 ∧
    wants (asks (ring 0 0) [touch true]) = none ∧ wants (asks (ring 0 0) [touch true, touch false]) = some (touch false) ∧ ({ asks (ring 0 0) [] with prTold := true } : State).prTold = true ∧ ready.prTold = false ∧
    wants (asks (ring 0x500000 64) [touch false]) = some (touch false) ∧ 2 ^ 6 ≤ ((ring 0x500000 64).tail - 0).toNat ∧ ((ring 0x500000 63).tail - 0).toNat < 2 ^ 6 ∧ ready.runs = [] ∧ ready.root.lastIrq = [] ∧
    (2 ^ 56 + 2 ^ 41) / 2 ^ 41 % 2 ^ 15 ≠ 0 ∧ (2 ^ 56 + 5) / 2 ^ 41 % 2 ^ 15 = 0 ∧ (touch true).ctx = BitVec.ofNat 8 ((2 ^ 56 + 5) / 2 ^ 56) ∧ (touch true).page = (2 ^ 56 + 5) % 2 ^ 41 ∧ noEventWait ready = true ∧ (ready.anyTeam? 0 0).isSome = true := by
  decide +kernel

/-- Before and at the end of an interval, with a base of the hot lists and without one, with a grid and without; a header that waits for a die and one that may be written; a page with a migration under way, one that may move, and one that may not; and an old frame with a lease, with a full ring, and with neither. -/
theorem witness_hot_pages :
    let none_ (s : State) : Bool := (List.range 12).all fun k => (s.hot.getD k ⟨[], [], 0, [], none⟩).header.isNone
    let at_ (hotbase time : Nat) (s : State) : State := { s with mcb := { s.mcb with hotbase := hotbase, interval := 100 }, time := time }
    let short (s : State) : Bool := (List.range 12).all fun j => decide ((s.hot.getD j ⟨[], [], 0, [], none⟩).list.length ≤ 256)
    let headed : State := { at_ 0x600000 50 ready with hot := vmod ready.hot 11 fun h => { h with header := some (6, 2, 40) } }
    let others (s : State) : Bool := (List.range 11).all fun k => (s.hot.getD k ⟨[], [], 0, [], none⟩).header.isNone
    let moves (d : Nat) (s : State) : State := { s with mcb := { s.mcb with migen := true, hotbase := 0x600000, rel := ring 0x700000 0, miglim := 1 }, hot := vmod s.hot 0 fun h => { h with last := [⟨pageKey 1 0, 9, #v[1, 1, 1, 1] |> fun v => vmod v d fun _ => 2⟩] } }
    let high := 9 * 48 * 2 ^ 30 + 0x200000
    let leaf := 0x200000 + 0x80 + 2
    let free (s : State) : Bool := s.migrations.all fun m => !(decide (m.die = 3 ∧ m.ctx = 1 ∧ m.va = 0))
    let old : OldFrame := ⟨0x220000, 30⟩
    let releases (time n : Nat) : State := { ready with oldFrames := [old], mcb := { ready.mcb with rel := ring 0x700000 n }, time := time, operand := { n := 0x220000 } }
    (let s := at_ 0 99999 ready; none_ s && decide (s.time < s.hotAt + 1000 * s.mcb.interval)) = true ∧ (let s := at_ 0 100000 ready; none_ s && decide (s.hotAt + 1000 * s.mcb.interval ≤ s.time) && s.runs == [] && s.grids.length == 1) = true ∧
    (let s := { at_ 0x600000 100000 ready with grids := [] }; none_ s && decide (s.hotAt + 1000 * s.mcb.interval ≤ s.time) && s.runs == [] && short s) = true ∧
    (headed.hot.getD 11 ⟨[], [], 0, [], none⟩).header = some (6, 2, 40) ∧ others headed = true ∧ headed.time < headed.hotAt + 1000 * headed.mcb.interval ∧ ((List.range 4).all fun d => decide (40 ≤ headed.timeOf d)) = true ∧
    ((List.range 4).any fun d => decide (({ headed with time := 30 } : State).timeOf d < 40)) = true ∧
    (let s := backed leaf 3 high 20; free s && (s.mayMigrate 3 1 0).isNone) = true ∧
    (let s := moves 3 (backed leaf 3 high 20); free s && s.mayMigrate 3 1 0 == some (0x404000, 0x200000) && frameGood s 3 high && s.runs == [] && s.poison == [] && s.l2bad == []) = true ∧
    (let m : Migration := ⟨3, 1, 0, 0x404000, 0x200000, high⟩; let s := { backed leaf 3 high 20 with migrations := [m] }
     s.migrations.find? (fun m => m.die = 3 && m.ctx = 1 && m.va = 0) = some m ∧ m.pte + 8 ≤ m.newFrame) ∧
    (releases 30 0).oldFrames.find? (·.frame = 0x220000) = some old ∧ (releases 30 0).timeOf (dieOfPa 0x220000) ≤ 30 ∧ 30 < (releases 31 0).timeOf (dieOfPa 0x220000) ∧
    2 ^ 6 ≤ ((releases 31 64).mcb.rel.tail - (releases 31 64).mcb.rel.head).toNat ∧ ((releases 31 63).mcb.rel.tail - (releases 31 63).mcb.rel.head).toNat < 2 ^ 6 := by
  decide +kernel

/-! ### A step (R145, R304, R317, log 3) -/

/-- The words at a PC, with the state after they are fetched. -/
def fetched? (t : Team) (bounds : Nat × Nat) : Nat → DWord → State → Option (List Word × State)
  | 0, _, s => some ([], s)
  | n + 1, pc, s => (landed (s.fetchWord t bounds pc)).bind fun r => (fetched? t bounds n (pc + 4) r.1).map fun x => (r.2 :: x.1, x.2)

theorem fetched?_is {t : Team} {bounds : Nat × Nat} : ∀ n pc s ws v, fetched? t bounds n pc s = some (ws, v) → Fetches t bounds pc s ws v
  | 0, _, _, _, _, h => by cases h; rfl
  | n + 1, pc, s, ws, v, h =>
    let ⟨⟨s1, _⟩, h1, h⟩ := Option.bind_eq_some_iff.mp h
    let ⟨_, hx, e⟩ := Option.map_eq_some_iff.mp h
    by cases e; exact ⟨s1, landed_is h1, fetched?_is n _ _ _ _ hx⟩

/-- What the turn of the placed strand fetches, with its skip. -/
def fetching (s : State) (p : List Word → Bool) (skip : Bool) : Bool :=
  let u := beforeTurn s []
  decide (s.agenda = [.issue placedRef] ∧ u.flaws = []) && u.issuable placedRef && match u.team? 0 0, u.group? placedRef.g with
    | some t, some g =>
      let n := match u.fetchWord t (u.codeBounds t g false) (g.strand 0).pc with
        | .ok _ w => (Form.ofLen (w.extractLsb' 0 2)).words
        | _ => 0
      ((fetched? t (u.codeBounds t g false) n (g.strand 0).pc u).any fun x => p x.1 && x.1.length == (Form.ofLen ((x.1.getD 0 0).extractLsb' 0 2)).words) && ((g.strand 0).skips.head? == some true) == skip
    | _, _ => false

/-- The turn of a strand at an instruction of one word and of five, skipped and not, and at a word that is no instruction; a Sill unit's turn, an event's, and the first of the due turns. -/
theorem witness_steps :
    let at_ (ws : List Nat) : State := State.reset.placeYalhel (leNat (ws.flatMap fun w => leBytes w 4))
    fetching (at_ [0x100C1440]) (fun ws => (decodeWords ws).toOption == some (.iadd ⟨4#6, 3#8, 5#8⟩, 1)) false = true ∧
    fetching (at_ [0x0004000B, 0, 0x40000003, 0x24, 0x34]) (fun ws => (decodeWords ws).toOption.any (·.2 == 5)) false = true ∧
    fetching (inStrand (fun st => { st with skips := [true] }) (at_ [0x100C1440])) (fun ws => (decodeWords ws).toOption.any (·.2 == 1)) true = true ∧
    fetching (at_ [0x38]) (fun ws => (decodeWords ws).toOption == none) false = true ∧
    (let u := beforeTurn (State.reset.placeSill 0x98000000) []; (State.reset.placeSill 0x98000000).agenda = [.sill 0] ∧ u.flaws = [] ∧ u.sillFetch 0 = some 0x98000000#32 ∧ (readSill 0x98000000#32).isSome = true) ∧
    ({ ready with agenda := [.event .yieldSave {}] } : State).agenda = [.event .yieldSave {}] ∧ (beforeTurn ready []).flaws = [] ∧
    (let s := at_ [0x100C1440]; (s.team? 0 0).any fun t => t.ctx == 0 && !s.mcb.mode.getLsbD 1 && !s.bad (lineOf placedCode * 128) 128 && (s.core t.core).icache.all (·.line ≠ lineOf placedCode)) = true ∧
    placedCode + 4 ≤ memTop ∧ 65536 ≤ placedCode ∧ placedCode % 4 = 0 := by
  decide +kernel

/-- A turn that changes memory has done something. -/
theorem moved_of_mem {s t : State} (h : s.mem ≠ t.mem) : s.movedBy t = true :=
  decide_eq_true fun e => h (show s.bare.mem = t.bare.mem from congrArg (·.mem) e)

/-- The state that a turn gives next. -/
def nextOf : Out → Option State
  | .next s => some s
  | _ => none

theorem nextOf_is {x : Out} {s : State} (h : nextOf x = some s) : x = .next s := by
  cases x with
  | next s' => exact congrArg _ (Option.some.inj h)
  | fault | refused => exact absurd h (by simp [nextOf])

/-- Where a store waits to be released, its release is the first turn that is due, and it does something. -/
theorem witness_due_turn : ∃ (s : State) (x : Turn) (rest : List Turn) (s' : State), s.agenda = [] ∧ (beforeTurn s []).dueTurns = x :: rest ∧ (beforeTurn s []).turn x = .next s' ∧ (beforeTurn s []).movedBy s' = true := by
  have h : (let u := beforeTurn (inGroup (fun g => { g with sb := [unreleased] }) ready) []
    u.dueTurns.head?.any fun x => (nextOf (u.turn x)).any fun s' => decide (u.mem ≠ s'.mem)) = true := by decide +kernel
  let ⟨x, hx, h⟩ := (Option.any_eq_true ..).mp h
  let ⟨s', hs, h⟩ := (Option.any_eq_true ..).mp h
  let ⟨rest, hd⟩ := List.head?_eq_some_iff.mp hx
  exact ⟨_, x, rest, s', rfl, hd, nextOf_is hs, moved_of_mem (of_decide_eq_true h)⟩

/-! ### Encodings, slide reset, privilege, traps and memory (R269 to R275, R304 to R327, R391) -/

theorem witness_encodings : (Instr.iadd ⟨4#6, 3#8, 5#8⟩).WellFormed ∧ (Instr.iadd ⟨4#6, 3#8, 5#8⟩).enc?.isSome = true ∧
    (Instr.zrow ⟨false, false, 0, 0, 0, 0, 0⟩).WellFormed ∧ (Instr.zrow ⟨false, false, 0, 0, 0, 0, 0⟩).sillWord?.isSome = true := by
  unfold Instr.WellFormed
  decide

theorem witness_slide_reset : onIssue (sliding 3) [0x00000A6C] (fun c _ i => match c with
    | .slreset _ => usable i 2 && decide (i.g.vregs ≤ 256) && !i.hasSet && !i.g.sharesEarlier i.st && (i.g.slide 2).base == 16
    | _ => false) = true := by decide +kernel

/-- A privileged instruction that another strand than the handler strand comes to. -/
def unprivileged (ws : List Nat) : Bool :=
  match read (ws.map (BitVec.ofNat 32)) with
  | some (c, _) => match c.enc?, ready.cur with
    | some x, some r => (decide (0xE0 ≤ x.op.toNat ∧ x.op.toNat ≤ 0xEF) || (decide (x.op = 0x55#8 ∨ x.op = 0x56#8) && decide ((x.w2.extractLsb' 0 8).toNat ≤ 0x0C))) && !r.handler &&
        match ready.iss? r x with
        | some j => (j.held ((Enc.uses x).join (systemUses c ready j))).isNone
        | none => false
    | _, _ => false
  | none => false

theorem witness_privilege : (([[0x00000380], [0x04000380], [0x08000380], [0x02400385, 0x02000000, 0], [0x02400389, 0x02000000, 0], [0x00000394], [0x00000955, 0, 0x0C], [0x00100159, 0, 0x0C]] : List (List Nat)).all unprivileged) = true := by
  decide +kernel

/-- A first fault, a later one of another strand, one without a handler image, and a trap of the handler strand. -/
theorem witness_traps :
    let s := withHandler ready
    let at_ (s : State) (k : Nat) (p : Group → Bool) : Bool := (s.team? 0 0).isSome && (s.group? placedRef.g).any fun g => p g && g.failing.all (·.sid ≠ k) && !g.record.fset.getLsbD k
    (s.handlerCode 0).base ≠ 0 ∧ at_ s 0 (·.trap == .none) = true ∧ at_ (inGroup (fun g => { g with trap := .draining, record := { g.record with fset := 1 } }) s) 15 (·.trap != .none) = true ∧
    (ready.handlerCode 0).base = 0 ∧ (handling.team? 0 0).isSome = true ∧ handling.cur.all (·.handler) = true := by
  decide +kernel

theorem witness_step_next : (let s := State.reset.withFetchWord 32 0x100C1440; Memory.wf s.mem = true ∧ (match step s with
    | .next _ => true
    | _ => false) = true) := by
  decide +kernel

/-! ### Single steps, from the rules' own words -/

/-- What a step from reset leaves, with an instruction placed. -/
def afterStep (nbits : Nat) (ws : List Nat) (f : State → State) (p : State → Group → Bool) : Bool :=
  match step (f (State.reset.withFetchWord nbits (leNat (ws.flatMap fun w => leBytes w 4)))) with
  | .next t => (t.group? placedRef.g).any (p t)
  | _ => false

/-- IADD of a literal writes the literal to every lane of v5 (v3 is zero), the PC moving past three words (R304, R309). -/
theorem test_step_iadd_literal : afterStep 96 [0x000C1442, 0x12345, 0] id (fun _ g => vlane g 5 0 == 0x12345#32 && vlane g 5 31 == 0x12345#32 && (g.strand 0).pc == 0x10000C#64) = true := by decide +kernel

/-- The sum of v3 and v4 wraps modulo 2^32. -/
theorem test_step_iadd_wraps : afterStep 32 [0x100C1440] (fun s => withV 3 0xFFFFFFFF#32 (withV 4 2#32 s)) (fun _ g => vlane g 5 7 == 1#32 && (g.strand 0).pc == 0x100004#64) = true := by decide +kernel

/-- FFMA v10, v11, v12, k3:0x120 of the worked encodings: 2 times 3 plus the window word 1 is 7. -/
theorem test_step_ffma_window : afterStep 96 [0x002C298D, 0x000A000C, 0xC0060120]
    (fun s => withMem (0x200000 + 4 * 0x120) [0x00#8, 0x00#8, 0x80#8, 0x3F#8] (withV 11 0x40000000#32 (withV 12 0x40400000#32 (inTeam (fun t => { t with windows := vmod t.windows 3 fun _ => ⟨0x120, 0x200000, true⟩ }) s))))
    (fun _ g => vlane g 10 0 == 0x40E00000#32) = true := by decide +kernel

/-- The outcome of the words in the table of worked encodings: the cause and the DETAIL of the strand's fault entry. -/
def outcome (ws : List Nat) (f : State → State) (cause : BitVec 8) (detail : Nat) : Bool :=
  afterStep 96 (ws ++ List.replicate (3 - ws.length) 0) (fun s => withHandler (f s)) fun _ g =>
    g.trap == .draining && g.record.fset == 1#16 && (let e := g.record.faults.getD 0 FaultEntry.zero; e.cause == cause && e.detail.toNat % 256 == detail && e.pc == 0x100000#64)

def narrow (s : State) : State := inGroup (fun g => { g with vregs := 128 }) s

/-- The words of the table: an opcode and a form that are not listed, an operand beyond VREGS, a reserved field, TRET without privilege and with a sub-operation that is not listed, and an opcode of the system family that is not listed (R307, R310, R317, R318, R326, R327). -/
theorem test_worked_encodings :
    outcome [0x000003C0] narrow 0x01 0 = true ∧ outcome [0x002C298C] narrow 0x01 0 = true ∧ outcome [0x000C1441, 0x00100004, 0x00000000] narrow 0x02 0x01 = true ∧
    outcome [0x100F2040] narrow 0x02 0xC8 = true ∧ outcome [0x00000380] narrow 0x03 0 = true ∧ outcome [0x04000380] narrow 0x03 0 = true ∧
    outcome [0x0C000380] narrow 0x01 0 = true ∧ outcome [0x000003A0] narrow 0x01 0 = true := by decide +kernel

/-- The literal of the worked encodings that does not fit a 32-bit operand, and a window offset beyond the window (R313, R315, R318). -/
theorem test_worked_literal : outcome [0x000C1442, 0x00012345, 0x00000001] id 0x02 0x01 = true ∧
    outcome [0x002C298D, 0x000A000C, 0xC0060120] (inTeam fun t => { t with windows := vmod t.windows 3 fun _ => ⟨0x11F, 0x200000, true⟩ }) 0x02 0x03 = true := by decide +kernel

/-! ### The worked conversions and the worked placement (R60, R92, R243 to R247) -/

/-- Lanes of 5.0, -0.7, 0.2 and 12.0 as one E2M1 block with RN and policy 0b00. -/
theorem test_worked_block : (let b := encodeBlock 1 .rn .sat (([0x40A00000, 0xBF333333, 0x3E4CCCCD, 0x41400000] ++ List.replicate 28 0).map ffF32.decode) (List.replicate 32 0)
    b.scale == 0x60#8 && b.codes == [0x4#4, 0x9#4, 0x0#4, 0x7#4] ++ List.replicate 28 0#4 && b.flags.all (! ·)) = true := by decide +kernel

/-- 500.0 and 0.0013 to Z8E4 with RN and policy 0b01, and 1 + 2^-9 to bfloat16 under SR from the seed 1. -/
theorem test_worked_conversions : ffZ8E4.conv .rn .inf (ffF32.decode 0x43FA0000) 0 = ⟨0x7F, true, false⟩ ∧ ffZ8E4.conv .rn .inf (ffF32.decode 0x3AAA64C3) 0 = ⟨0x01, false, false⟩ ∧
    seedStep 1#32 = 0x00042021#32 ∧ ffBF16.conv .sr .sat (ffF32.decode 0x3F804000) 0x042021 = ⟨0x3F80, false, false⟩ := by decide +kernel

/-- The two worked teams: the first fits an empty core, the second leaves a quadrant with too many rows. -/
theorem test_worked_placement : fitsEmpty [⟨1, 64, false⟩, ⟨44, 160, false⟩, ⟨16, 32, true⟩] 0 false = true ∧ fitsEmpty [⟨1, 256, false⟩, ⟨32, 248, false⟩] 0 false = false := by decide +kernel

end Sys2Proof.Tests
end

section
/-! SUPPORT. An instruction that its checks stop, and the privileged instructions outside supervisor mode (R274). -/
namespace Sys2Proof
open Machine

/-! ### An instruction that does not pass its checks (R317) -/

/-- An instruction that fails a check takes that trap with the LA of its fields, whatever its effect is (R271, R272). -/
theorem issueWith_checkTrap {more : State → Iss → Uses} {s s' : State} {x : Enc} {r : StrandRef} {j : Iss} {t : Trap}
    (hcur : s.cur = some r) (hiss : s.iss? r x = some j) (hfree : j.held ((Enc.uses x).join (more s j)) = none)
    (hcheck : s.checked j ((Enc.uses x).join (more s j)) = .trap s' t) (hla : t.la = 0) (eff : State → Iss → Res Unit) :
    s.issueWith x more eff = .next (s'.takeTrap j.r { t with la := x.la }) := by
  obtain ⟨hr, _⟩ := iss?_some hiss
  simp only [State.issueWith, hcur, hiss, hfree, hcheck, State.settle, hla, if_true, hr]

/-- The first check is that of privilege: a strand other than the handler strand fails it before any memory is read (R274, R317). -/
theorem checked_unprivileged {s : State} {j : Iss} (hp : Enc.privileged j.x = true) (hr : j.r.handler = false) (u : Uses) :
    s.checked j u = .trap s { cause := 0x03#8 } := by
  simp [State.checked, Iss.supervisor, hp, hr]

/-! ### The privileged instructions (R274, R435) -/

/-- What R274 makes privileged: an opcode of 0xE0 to 0xEF, and GETSR or SETSR that names a control register (R276). -/
def NeedsSupervisor (x : Enc) : Prop :=
  (0xE0 ≤ x.op.toNat ∧ x.op.toNat ≤ 0xEF) ∨ ((x.op = 0x55#8 ∨ x.op = 0x56#8) ∧ (x.w2.extractLsb' 0 8).toNat ≤ 0x0C)

@[simp] theorem Machine.SForm.enc_op (op : BitVec 8) (x : SForm) : (x.enc op).op = op := rfl

@[simp] theorem Machine.XForm.enc_op (op : BitVec 8) (x : XForm) : (x.enc op).op = op := by
  unfold XForm.enc
  split <;> rfl

/-- The words of TRET's three forms are the encodings of its instructions (R275, R326). -/
theorem tretEnc_forms :
    Instr.enc? .tret = some (tretEnc 0x00000380#32) ∧ Instr.enc? .tretKill = some (tretEnc 0x04000380#32) ∧
      Instr.enc? .tretFail = some (tretEnc 0x08000380#32) := by decide

/-- No instruction has an opcode of 0xE8 to 0xEF, so each one that R274 names issues as its encoding, with the registers of systemUses; and the check of privilege meets it. -/
theorem issues_of_needsSupervisor {c : Instr} {x : Enc} (henc : c.enc? = some x) (hneeds : NeedsSupervisor x) :
    Enc.privileged x = true ∧ ∃ eff, ∀ s, exec c s = s.issueWith x (systemUses c) eff := by
  obtain ⟨resume, kill, fail⟩ := tretEnc_forms
  cases c with
  | tret =>
    cases resume.symm.trans henc
    exact ⟨rfl, _, fun _ => by rw [exec, execTret]; rfl⟩
  | tretKill =>
    cases kill.symm.trans henc
    exact ⟨rfl, _, fun _ => by rw [exec, execTretKill]; rfl⟩
  | tretFail =>
    cases fail.symm.trans henc
    exact ⟨rfl, _, fun _ => rfl⟩
  | strsave y | strload y | ctxsave y | ctxload y | mfreeze y | cinv y | cwb y =>
    cases henc
    exact ⟨by simp [Enc.privileged, Enc.o], _, fun _ => rfl⟩
  | getsr y =>
    cases henc
    exact ⟨by simpa [Enc.privileged, Enc.o, NeedsSupervisor] using hneeds, _, fun _ => by rw [exec, execGetsr]; rfl⟩
  | setsr y =>
    cases henc
    exact ⟨by simpa [Enc.privileged, Enc.o, NeedsSupervisor] using hneeds, _, fun _ => rfl⟩
  | _ => cases henc <;> simp [NeedsSupervisor] at hneeds

end Sys2Proof
end

section
/-! PROOF. The family of traps, faults and contexts: O58. -/
open Sys2Proof Sys2Proof.Machine

/-- Settles O58: the instruction issues as its encoding, and the check of privilege, the first one, stops it. -/
theorem privilege : Obligations.Privilege := by
  intro c x s r j henc hneeds hcur hother hiss hfree
  obtain ⟨hpriv, eff, hexec⟩ := issues_of_needsSupervisor henc hneeds
  obtain ⟨hr, hx, _⟩ := iss?_some hiss
  have hcheck := checked_unprivileged (s := s) (j := j) (by rw [hx]; exact hpriv) (by rw [hr]; exact hother)
  exact (hexec s).trans (issueWith_checkTrap hcur hiss hfree (hcheck _) rfl eff)

end

section
/-! SUPPORT. Word 0 of an encoding: the fields that it holds, and the fields that are taken from it (R304, R305). -/
namespace Sys2Proof

namespace Enc

/-! ### The fields that word 0 holds: each stands above the fields below it (R305) -/

@[simp] theorem word0_len (x : Enc) : x.word0.extractLsb' 0 2 = x.form.len :=
  BitVec.extractLsb'_append_eq_right

@[simp] theorem word0_op (x : Enc) : x.word0.extractLsb' 2 8 = x.op := by
  rw [word0, BitVec.extractLsb'_append_eq_of_le (by decide)]
  exact BitVec.extractLsb'_append_eq_right

@[simp] theorem word0_d (x : Enc) : x.word0.extractLsb' 10 8 = x.d := by
  rw [word0, BitVec.extractLsb'_append_eq_of_le (by decide), BitVec.extractLsb'_append_eq_of_le (by decide)]
  exact BitVec.extractLsb'_append_eq_right

@[simp] theorem word0_a (x : Enc) : x.word0.extractLsb' 18 8 = x.a := by
  rw [word0, BitVec.extractLsb'_append_eq_of_le (by decide), BitVec.extractLsb'_append_eq_of_le (by decide), BitVec.extractLsb'_append_eq_of_le (by decide)]
  exact BitVec.extractLsb'_append_eq_right

@[simp] theorem word0_b6 (x : Enc) : x.word0.extractLsb' 26 6 = x.b6 := by
  rw [word0, BitVec.extractLsb'_append_eq_of_le (by decide), BitVec.extractLsb'_append_eq_of_le (by decide), BitVec.extractLsb'_append_eq_of_le (by decide)]
  exact BitVec.extractLsb'_append_eq_left

/-- Every form begins with word 0 (R304). -/
theorem words_eq_word0_cons (x : Enc) : ∃ rest, x.words = x.word0 :: rest := by
  cases h : x.form <;> exact ⟨_, by rw [words, h]⟩

/-! ### The fields taken from a word 0 (R305) -/

/-- Whatever form the LEN of w0 names, the fields of word 0 come from w0; only the other words depend on the form (R304). -/
theorem ofWords_eq (w0 w1 w2 w3 w4 : Word) : ∃ v1 v2 lit, ofWords w0 w1 w2 w3 w4 =
    ⟨w0.extractLsb' 2 8, Form.ofLen (w0.extractLsb' 0 2), w0.extractLsb' 26 6, w0.extractLsb' 18 8, w0.extractLsb' 10 8, v1, v2, lit⟩ := by
  simp only [ofWords]
  split <;> exact ⟨_, _, _, rfl⟩

end Enc

/-- The first word of a Yalhel instruction is word 0 of its encoding (R304). -/
theorem encode_getD_zero {c : Instr} {x : Enc} (henc : c.enc? = some x) : (encode c).getD 0 0 = x.word0 := by
  obtain ⟨rest, hwords⟩ := x.words_eq_word0_cons
  rw [encode, henc]
  exact congrArg (·.getD 0 0) hwords

end Sys2Proof
end

section
/-! PROOF. The family of instruction formats and the opcode map: O53. -/
open Sys2Proof

/-- Settles O53: an instruction's first word is word 0 of its encoding, whose fields stand one above the other; and Enc.ofWords takes these fields from w0 before it looks at the form. -/
theorem wordZero : Obligations.WordZero := by
  refine ⟨fun c x henc => ?_, fun w0 w1 w2 w3 w4 => ?_⟩
  · rw [encode_getD_zero henc]
    refine ⟨x.word0_b6, x.word0_a, x.word0_d, x.word0_op, ?_⟩
    rw [x.word0_len]
    cases x.form <;> rfl
  · obtain ⟨_, _, _, hfields⟩ := Enc.ofWords_eq w0 w1 w2 w3 w4
    rw [hfields]
    exact ⟨rfl, rfl, rfl, rfl, rfl⟩

end

section
/-! SUPPORT. An attempt to issue that ends in a wait (R127), a short form whose one effect is a trap (R304, R357), and an encoding that the opcode map does not list (R317, R327). -/
namespace Sys2Proof
open Machine

/-! ### A strand that is held (R127) -/

/-- The strand as its attempt to issue leaves it: it waits, with the descriptor of what held it (R127, R175). -/
def Machine.Strand.waitingFor (why : DWord) (cycle : Nat) (st : Strand) : Strand :=
  { st with state := .waiting, why := why, look := false, readyAt := cycle }

/-- Of the teams, a hold changes its strand alone: a scoreboard stall is counted in the core (R149). -/
theorem holdStrand_teams (s : State) (r : StrandRef) (h : Hold) :
    (s.holdStrand r h).teams = (s.modStrand r (Strand.waitingFor h.why s.cycle)).teams := by
  unfold State.holdStrand
  dsimp only
  split <;> rfl

/-- A strand that its attempt to issue leaves held waits where it stood, whatever held it. -/
theorem waits_of_holdStrand {c : Instr} {s : State} {r : StrandRef} {x : Enc} {j : Iss} {h : Hold}
    (hiss : s.iss? r x = some j) (hexec : exec c s = .next (s.holdStrand r h)) : Waits c s j := by
  obtain ⟨rfl, _, _, hgroup, hst, hvalid, _⟩ := iss?_some hiss
  rw [hst] at hvalid
  obtain ⟨hnum, hhandler⟩ := valid_strand hvalid
  have hheld : (j.g.modStrand j.r.num (Strand.waitingFor h.why s.cycle)).strand j.r.num =
      (j.g.strand j.r.num).waitingFor h.why s.cycle := by
    rw [strand_modStrand _ _ _ _ hhandler hnum, if_pos rfl]
  refine ⟨_, j.g.modStrand j.r.num (Strand.waitingFor h.why s.cycle), hexec, ?_, ?_, ?_⟩
  · rw [group?_of_teams (holdStrand_teams s j.r h), State.modStrand, group?_modGroup _ _ _ _ (by simp), if_pos rfl, hgroup]
    rfl
  · rw [hheld]; rfl
  · rw [hheld, hst]; rfl

/-! ### A short form whose effect is a trap -/

@[simp] theorem Machine.SForm.enc_b6 (op : BitVec 8) (x : SForm) : (x.enc op).b6 = x.b6 := rfl

/-- A short form has no word 1, so it carries no lookahead (R304, R311). -/
@[simp] theorem Machine.SForm.enc_la (op : BitVec 8) (x : SForm) : (x.enc op).la = 0 := BitVec.extractLsb'_zero

/-- A short form that does nothing but raise a cause takes that trap with lookahead 0. -/
theorem shortForm_traps {c : Instr} {op : BitVec 8} {y : SForm} {s s' : State} {i : Iss} {cause : BitVec 8}
    (hissues : Issues s (y.enc op) s' i) (hmem : Enc.memoryOp (y.enc op) = false)
    (hexec : exec c s = s.issue (y.enc op) fun s _ => .trap s { cause := cause }) : Traps c s s' i { cause := cause } := by
  have htrap := issue_traps hissues hmem (eff := fun s _ => .trap s { cause := cause }) rfl rfl
  rw [SForm.enc_la] at htrap
  exact hexec.trans htrap

/-! ### An encoding that is not listed -/

/-- What an unlisted encoding does: within the windows of its strand it raises ILLOP with the LA of its words, and outside them its strand is held (R127, R317, R327). -/
theorem exec_illegalOpcode {w w1 : Word} {s : State} {r : StrandRef} {j : Iss} (hcur : s.cur = some r)
    (hiss : s.iss? r (Enc.ofWords w w1 0 0 0) = some j) :
    exec (.illegalOpcode w w1) s =
      if j.g.inWindows r.num (Enc.endsWindow j.x) then .next (s.takeTrap r { cause := 0x01#8, la := j.x.la }) else .next (s.holdStrand r {}) := by
  rw [exec, execIllegalOpcode, hcur]
  dsimp only
  rw [hiss]
  rfl

end Sys2Proof
end

section
/-! PROOF. The family of integer, scalar and control instructions: O9. -/
open Sys2Proof Sys2Proof.Machine

/-- Settles O9: BKPT and TRAP are short forms whose one effect is a trap, with B6 in word 0 of their encodings; an unlisted encoding traps or is held as the strand's windows say. -/
theorem softwareTraps : Obligations.SoftwareTraps := by
  refine ⟨fun y s s' i hissues => ?bkpt, fun y => ⟨?bkptCode, ?trapCode⟩, rfl, rfl, fun y s s' i hissues => ?trap,
    fun w w1 s r j hcur hiss hin => ?unlisted, fun w w1 s r j hcur hiss hout => ?held⟩
  case bkpt => exact shortForm_traps hissues rfl rfl
  case bkptCode => rw [encode_getD_zero rfl, Enc.word0_b6, SForm.enc_b6]
  case trapCode => rw [encode_getD_zero rfl, Enc.word0_b6, SForm.enc_b6]
  case trap => exact shortForm_traps hissues rfl rfl
  case unlisted =>
    obtain ⟨rfl, _⟩ := iss?_some hiss
    exact (exec_illegalOpcode hcur hiss).trans (if_pos hin)
  case held =>
    exact waits_of_holdStrand hiss ((exec_illegalOpcode hcur hiss).trans (if_neg (by rw [hout]; exact Bool.false_ne_true)))

end

section
/-! SUPPORT. A slide descriptor read after it is written (R384), the checks of R386 passed, and a descriptor emptied (R391). -/
namespace Sys2Proof
open Machine

/-! ### A descriptor after a write -/

/-- A descriptor read after one is written: the group has eight (R384). -/
theorem slide_setSlide (g : Group) (k j : Nat) (d : Slide) : (g.setSlide k d).slide j = if j = k ∧ k < 8 then d else g.slide j :=
  vmod_getD ..

@[simp] theorem slide_setV (g : Group) (r j : Nat) (m : Mask) (x : Lanes) : (g.setV r m x).slide j = g.slide j := rfl

@[simp] theorem vlane_setSlide (g : Group) (k r l : Nat) (d : Slide) : vlane (g.setSlide k d) r l = vlane g r l := rfl

theorem slide_congr {g g' : Group} (h : g'.slides = g.slides) (k : Nat) : g'.slide k = g.slide k := congrArg (·.getD k .unbound) h

/-! ### The checks -/

/-- A bound descriptor with its storage inside VREGS passes the check of its number (R121, R386); a strand without a write set that shares no lane with an earlier one, that of group-shared state (R138, R386). -/
theorem slideChecks_pass {i : Iss} {k : Nat} (hbound : (i.g.slide k).bound = true) (hinside : (i.g.slide k).base + (i.g.slide k).cap < i.g.vregs)
    (hset : i.hasSet = false) (halone : i.g.sharesEarlier i.st = false) (s : State) (f : State → Res Unit) :
    (s.slideBound i k fun s => s.slideShared i f) = f s := by
  have hnumber : ¬ ((!(i.g.slide k).bound) = true ∨ i.g.vregs ≤ (i.g.slide k).base + (i.g.slide k).cap) := by
    rw [hbound, not_or]
    exact ⟨Bool.false_ne_true, Nat.not_le.2 hinside⟩
  rw [State.slideBound, if_neg hnumber, State.slideShared, hset, halone]
  rfl

/-! ### A descriptor emptied -/

/-- A descriptor emptied: the window, the capacity, the operator and the place of its storage stay (R391). -/
def Machine.Slide.emptied (d : Slide) : Slide := { d with n := 0, nout := 0, head := 0, pushes := 0 }

/-- A group with a descriptor emptied, and the identity in its aggregate register in the lanes m (R391). -/
def Machine.Group.resetSlide (k : Nat) (m : Mask) (g : Group) : Group :=
  (g.setSlide k (g.slide k).emptied).setV (g.slide k).agg m (lanesFn fun _ => (g.slide k).identity)

theorem slide_resetSlide (g : Group) {k : Nat} (m : Mask) (hk : k < 8) : (g.resetSlide k m).slide k = (g.slide k).emptied := by
  rw [Group.resetSlide, slide_setV, slide_setSlide, if_pos ⟨rfl, hk⟩]

theorem vlane_resetSlide_agg (g : Group) {k l : Nat} (m : Mask) (hagg : (g.slide k).agg < 256) (hl : l < 32) :
    vlane (g.resetSlide k m) (g.slide k).agg l = if m.getLsbD l then (g.slide k).identity else vlane g (g.slide k).agg l := by
  rw [Group.resetSlide, vlane_setV _ _ _ _ _ _ hagg hl, lanesFn_getD _ _ hl, vlane_setSlide]
  simp only [true_and]

/-- SLRESET that passes its checks empties its descriptor in the group as the issue leaves it (R386, R391). -/
theorem slreset_resets {y : SForm} {s s' : State} {i : Iss} (hissues : IssuesWith (slideUses true (y.enc 0x9B).d.toNat) s (y.enc 0x9B) s' i)
    (hbound : (i.g.slide (y.enc 0x9B).d.toNat).bound = true)
    (hinside : (i.g.slide (y.enc 0x9B).d.toNat).base + (i.g.slide (y.enc 0x9B).d.toNat).cap < i.g.vregs)
    (hset : i.hasSet = false) (halone : i.g.sharesEarlier i.st = false) :
    ∃ t, exec (.slreset y) s = .next t ∧
      t.group? i.r.g = some ((i.g.issued i.r.num i.t.fused i.nextPc s'.cycle i.time).resetSlide (y.enc 0x9B).d.toNat i.t.lanes) := by
  obtain ⟨_, _, _, hgroup, _⟩ := issues_facts hissues
  obtain ⟨t, hdone, hafter, _⟩ := doneAt_ok s' i i.nextPc (Group.resetSlide (y.enc 0x9B).d.toNat i.t.lanes) (fun _ => rfl) hgroup
  exact ⟨t, issueWith_ok hissues ((slideChecks_pass hbound hinside hset halone s' _).trans hdone), hafter⟩

end Sys2Proof
end

section
/-! PROOF. The family of float, lane and window instructions: O57. -/
open Sys2Proof Sys2Proof.Machine

/-- Settles O57: issuing leaves the descriptors and the vector registers, so the group after SLRESET is the group before it with the descriptor emptied and its aggregate register set. -/
theorem slideReset : Obligations.SlideReset := by
  intro y s s' i x hissues d hbound hinside hvregs hk hset halone
  obtain ⟨t, hexec, hgroup⟩ := slreset_resets hissues hbound hinside hset halone
  obtain ⟨_, _, _, _, hst, hvalid, _⟩ := issues_facts hissues
  rw [hst] at hvalid
  have hsame := issued_same i.g i.r.num i.t.fused i.nextPc s'.cycle i.time hvalid
  obtain ⟨hlane, _⟩ := issued_regs i.g i.r.num i.t.fused i.nextPc s'.cycle i.time hvalid
  generalize i.g.issued i.r.num i.t.fused i.nextPc s'.cycle i.time = g at hgroup hsame hlane
  have hslide : g.slide x.d.toNat = d := slide_congr hsame.slides _
  have hempty : (g.resetSlide x.d.toNat i.t.lanes).slide x.d.toNat = d.emptied := by rw [slide_resetSlide g _ hk, hslide]
  have hagg : ∀ l < 32, vlane (g.resetSlide x.d.toNat i.t.lanes) (d.base + d.cap) l =
      if i.t.lanes.getLsbD l then d.identity else vlane i.g (d.base + d.cap) l := by
    intro l hl
    have h := vlane_resetSlide_agg g i.t.lanes (k := x.d.toNat) (by rw [hslide]; exact Nat.lt_of_lt_of_le hinside hvregs) hl
    rw [hslide, hlane] at h
    exact h
  refine ⟨t, g.resetSlide x.d.toNat i.t.lanes, hexec, hgroup, ?_⟩
  dsimp only
  rw [hempty]
  refine ⟨rfl, rfl, rfl, rfl, hbound, rfl, rfl, rfl, rfl, rfl, fun l hl hin => ?_, fun l hl hout => ?_⟩
  · rw [hagg l hl, if_pos hin]
  · rw [hagg l hl, if_neg (by rw [hout]; exact Bool.false_ne_true)]

end
